-- ==== Sys2Proof/Word.lean ====
section
/-!
DEFINITION. Sys2Proof/Word.lean: the word types of the adapter.
A value that the manual adds modulo its width, masks or reads as a word (an index, a PSN, a register)
is a bit vector; an identifier, a count, a byte address or a time is a natural number.
-/
namespace Sys2Proof

/-- One byte of memory. -/
abbrev Byte := BitVec 8

/-- A 32-bit word: ring indices (R28), PSNs (R88), CQ counters (R238). -/
abbrev U32 := BitVec 32

/-- A 64-bit word: doorbell words (Table 2.5), registers (R506). -/
abbrev U64 := BitVec 64

end Sys2Proof
end

