-- ==== Sys2Proof/Types.lean ====
section
/-!
DEFINITION. Sys2Proof/Types.lean: the operand types of the commands: packets, data that a memory read
returned, and the parameter lists of the command packets (R459, R462, R533, Table 14.12).
A structure of the manual that has a field map is kept as its raw bits and read by named accessors
(Machine/Operands.lean).
-/
namespace Sys2Proof

/-- Header of a command packet that has been started (Table 14.3): the admin queue that carries it, its ring
index, the SLICE and TAG fields, and the byte offset of the first reserved field that is not zero, if any (R7). -/
structure Cmd where
  aq : Nat
  index : U32
  slice : Nat
  tag : BitVec 16
  rsvd : Option Nat
  deriving DecidableEq, Repr

/-- Data that a read of host, accelerator or command-input memory returned (R399, Table 10.10). -/
structure ReadData where
  bytes : List Byte
  poisoned : Bool
  refused : Bool
  deriving DecidableEq, Repr

/-- What the operand reads of a work item returned (R155): its input, and its output range where the program takes it. -/
structure ItemData where
  input : ReadData
  target : ReadData
  deriving DecidableEq, Repr

/-- The SPDM session that a 64-byte command packet of the management plane came over, its SLICE, and the offset of its first reserved
field that is not zero (R7, R480). -/
structure MgmtHead where
  session : Option Nat
  slice : Nat
  rsvd : Option Nat
  deriving DecidableEq, Repr

/-- What the peer of a link states of itself in training (R243, R372): Full FEC, its lanes, and whether it has been reset (R377). -/
structure PeerLink where
  full : Bool
  width : Nat
  reset : Bool
  deriving DecidableEq, Repr

/-- A PCIe link that has come up (R378, R379): its port, the width it trained to, and whether PASID is enabled at the host port. -/
structure IoLink where
  port : Nat
  width : Nat
  pasid : Bool
  deriving DecidableEq, Repr

/-- A transport packet (Table 3.3): header (Table 3.4), descriptor, payload, Glaze, and the cipher trailer (Table 13.4, byte 0 lowest).
With a trailer, payload and Glaze are ciphertext until a receive slot has opened them. `flaw` is no part of what a link carries: the
receiving adapter's own protection of its copy, in the packet buffer or the datapath, has failed (R394, R399, log 181). -/
structure Packet where
  hdr : BitVec 128
  desc : Option (BitVec 128)
  payload : List Byte
  glaze : U64
  cipher : Option (BitVec 128)
  flaw : Bool
  deriving DecidableEq, Repr

/-- One 64-byte work entry that a read returned, with its fragment table when FRAG_MODE is 1 (R37, R49); the read of either may have
been refused (R380). -/
structure FetchedEntry where
  raw : BitVec 512
  poisoned : Bool
  refused : Bool
  table : List (BitVec 128)
  tablePoisoned : Bool
  tableRefused : Bool
  deriving DecidableEq, Repr

/-- Where the 56-byte wrapped key of an install lies (R434): host memory (0) or the slice's Millefeuille allocation (1), its address, and
what a read of host memory returns. -/
structure WrappedKey where
  space : Nat
  addr : Nat
  data : ReadData
  deriving DecidableEq, Repr

/-- What a wrapped key holds (R434). -/
structure PlainKey where
  key : BitVec 256
  nonce : U64
  serial : U32
  binding : U32
  deriving DecidableEq, Repr

/-- QP_CREATE (Table 14.12). -/
structure QpCreateP where
  qpn : Nat
  sqSpace : Nat
  sqBase : Nat
  sqLg : Nat
  sqIndex : U32
  rqSpace : Nat
  rqBase : Nat
  rqLg : Nat
  rqIndex : U32
  deriving DecidableEq, Repr

/-- QP_MODIFY (Table 14.5). -/
structure QpModifyP where
  qpn : Nat
  newState : Nat
  mask : BitVec 24
  scqn : Nat
  rcqn : Nat
  remEpid : Nat
  remQpn : Nat
  remGen : BitVec 8
  sqPsn : U32
  rqPsn : U32
  mtu8k : Bool
  rtoBase : Nat
  retryLimit : Nat
  busyLimit : Nat
  ackCount : Nat
  ackTimer : Nat
  tc : Nat
  ccProfile : Nat
  txKey : Nat
  rxKey : Nat
  rxTs : Bool
  deriving DecidableEq, Repr

/-- The ring of a create command (R27, Table 14.12). -/
structure RingP where
  space : Nat
  base : Nat
  lg : Nat
  index : U32
  deriving DecidableEq, Repr

/-- COLL_CREATE (Table 6.1). -/
structure CollP where
  group : Nat
  n : Nat
  rank : Nat
  channels : Nat
  algoMask : Nat
  segBytes : Nat
  path : Nat
  accFmt : Nat
  redSlot : Nat
  stepTimeout : Nat
  members : Nat
  parentV : Nat
  parent : Nat
  deriving DecidableEq, Repr

/-- MOE_BIND (Table 6.8). -/
structure MoeP where
  group : Nat
  experts : Nat
  k : Nat
  localExperts : Nat
  cap : Nat
  rowBytes : Nat
  outRowBytes : Nat
  map : Nat
  landOffset : Nat
  outOffset : Nat
  combSlot : Nat
  deriving DecidableEq, Repr

/-- STAGE_BIND (Table 6.11). -/
structure StageP where
  stream : Nat
  role : Nat
  qpn : Nat
  firstSeq : U32
  slots : Nat
  slotBytes : Nat
  wkey : U32
  landOffset : Nat
  overlap : Nat
  k : Nat
  log : Nat
  deriving DecidableEq, Repr

/-- TRIG_CREATE (R236). -/
structure TrigP where
  trig : Nat
  kind : Nat
  source : Nat
  target : Nat
  tagMask : U32
  tagValue : U32
  count : Nat
  threshold : U32
  deriving DecidableEq, Repr

/-- NEIGH_SET (R277): the neighbour entry of a physical endpoint. -/
structure NeighP where
  epid : Nat
  v : Nat
  ipv6 : BitVec 128
  mac : BitVec 48
  vlan : Nat
  port : Nat
  deriving DecidableEq, Repr

/-- One congestion profile (Table 8.1). -/
structure CcProfile where
  target : Nat
  ai : Nat
  beta : Nat
  maxMd : Nat
  wMin : Nat
  wInit : Nat
  wMax : Nat
  paceBurst : Nat
  deriving DecidableEq, Repr

/-- The read of a quota block in host memory (R463): its address, and whether the data came back poisoned, or was refused (R380). -/
structure QuotaRead where
  addr : Nat
  poisoned : Bool
  refused : Bool
  deriving DecidableEq, Repr

/-- SLICE_CREATE (R329, R463): the thirteen LIMITs come from the quota block. -/
structure SliceCreateP where
  pasid : Nat
  accMask : Nat
  classMask : Nat
  routeSet : Nat
  bwWeight : Nat
  latCrit : Nat
  ccHa : Nat
  xltHa : Nat
  keyHa : Nat
  redHa : Nat
  limits : List Nat
  block : QuotaRead
  deriving DecidableEq, Repr

/-- SLICE_MODIFY (Table 9.11). -/
structure SliceModifyP where
  mask : BitVec 16
  faultTimeout : Nat
  pageWaitBase : Nat
  pageWaitLimit : Nat
  ratePoll : Nat
  feedbackInterval : Nat
  keyWait : Nat
  authFailLimit : Nat
  ccHa : Bool
  xltHa : Bool
  keyHa : Bool
  redHa : Bool
  deriving DecidableEq, Repr

/-- SLICE_BIND (Table 14.12). -/
structure SliceBindP where
  mask : BitVec 8
  accMask : Nat
  classMask : Nat
  routeSet : Nat
  bwWeight : Nat
  latCrit : Nat
  deriving DecidableEq, Repr

/-- PWR_SET (R490). -/
structure PwrSetP where
  cls : Nat
  deepest : Nat
  force : Nat
  mask : U64
  tStandby : Nat
  tMeringue : Nat
  enterAt : Nat
  deriving DecidableEq, Repr

/-- What arrives on the lanes of a ZFL or ZAL link (R245, Table 7.2): the bytes of one codeword, or of one block of Full FEC, and the
lane to which the decoder attributes a failure (R254). -/
structure Codeword where
  code : List Byte
  badLane : Option Nat
  deriving DecidableEq, Repr

/-- A ROUTE_UPDATE control flit (Table 7.9). -/
structure RouteUpdate where
  kind : Nat
  hops : Nat
  level : Nat
  origin : Nat
  indices : List Nat
  deriving DecidableEq, Repr

/-- A time with its fraction of a nanosecond in units of 2^-16 ns, as one number of such units (R306). -/
abbrev FracNs := Int

/-- A TIME control flit (Table 8.7). -/
structure TimeFlit where
  state : Nat
  hops : Nat
  txTime : FracNs
  echoTx : FracNs
  echoRx : FracNs
  root : Nat
  deriving DecidableEq, Repr

/-- The headers of a received Ethernet frame (R275, R276): destination MAC, EtherType, destination IPv6 address, next header, UDP
destination port, ECN, the address that a Neighbor Solicitation asks for, the frame's PFC priority and its bytes. -/
structure EthFrame where
  dmac : BitVec 48
  etherType : Nat
  ipv6 : BitVec 128
  nextHeader : Nat
  udpPort : Nat
  ecn : Nat
  solicits : Option (BitVec 128)
  priority : Nat
  wireBytes : Nat
  deriving DecidableEq, Repr

/-- The headers of a frame that the adapter sends, and its FCS (R275). -/
structure FrameOut where
  dmac : BitVec 48
  smac : BitVec 48
  vlan : Nat
  pcp : Nat
  etherType : Nat
  dscp : Nat
  ecn : Nat
  flowLabel : Nat
  nextHeader : Nat
  hopLimit : Nat
  src : BitVec 128
  dst : BitVec 128
  srcPort : Nat
  dstPort : Nat
  checksum : Nat
  fcs : U32
  deriving DecidableEq, Repr

/-- The configuration image that boot applies (R449, R497): what the signed image sets, with the MAC and IPv6 address of each logical
port, whose source the manual does not name (log 155), and for each accelerator port the address of its memory and the BARs of the
endpoint below it (R374). -/
structure ConfigImage where
  cfgVer : Nat
  grade : Nat
  selfEpid : Nat
  fabCfg : List U32
  acpCfg : List U32
  macs : List (BitVec 48)
  ips : List (BitVec 128)
  accBase : List Nat
  accBars : List (List Nat)
  serviceKeys : List (Nat × BitVec 256)
  deriving DecidableEq, Repr

/-- One image of a bank (R449, R453): its SVN, the SHAKE256 digest it carries, whether that is the digest of its content, whether the
Ed448 signature over it verifies with a certificate chain that ends at the boot ROM's root key (log 6), and the image's SHA3-384. -/
structure FlashImage where
  svn : Nat
  digest : BitVec 512
  digestOk : Bool
  signed : Bool
  measured : BitVec 384
  deriving DecidableEq, Repr

/-- A flash bank as the island sees it (R449): its images of the management processor, the control firmware, the security island and the
configuration, in this order, and what the configuration image sets. -/
structure BankImage where
  images : List FlashImage
  cfg : ConfigImage
  deriving DecidableEq, Repr

/-- A power-managed object (R489): an engine, a fabric lane group by logical port, an accelerator lane group or a
stack. -/
inductive PowerObj where
  | engine (n : Nat)
  | fab (n : Nat)
  | acc (a : Nat)
  | stack (s : Nat)
  deriving DecidableEq, Repr

/-- What the code of a line finds on a read (Table 11.2); the poison marker itself is State's. -/
inductive EccOutcome where
  | clean
  | corrected
  | uncorrectable
  deriving DecidableEq, Repr

/-- One image of TXE_LOAD (R180, R181): its address and length in the slice's translation, and what the host port answers for an
image in host memory: its bytes, unless they cannot be read or the read is refused (R380). -/
structure ImageRead where
  addr : Nat
  len : Nat
  readable : Bool
  refused : Bool
  bytes : List Byte
  deriving DecidableEq, Repr

/-- One slot of TXE_PLAN_LOAD (R183): the manual names pairs of slot and image, and here each has an ENGINE_MASK besides, as TXE_LOAD
has (log 152). -/
structure PlanItem where
  slot : Nat
  mask : Nat
  space : Nat
  image : ImageRead
  deriving DecidableEq, Repr

/-- One entry of RTG_WRITE (R264, R265): table 0 group, 1 member. -/
structure RouteWrite where
  table : Nat
  index : Nat
  entry : BitVec 256
  deriving DecidableEq, Repr

/-- A sensor reading set (R531): logic-die hotspot in degrees, hottest DRAM die of each stack, rail currents in mA. -/
structure Sensors where
  tj : Nat
  dram : List Nat
  rails : List Nat
  deriving DecidableEq, Repr

end Sys2Proof
end

