-- ==== Sys2Proof/Objects.lean ====
section
/-!
DEFINITION. Sys2Proof/Objects.lean: the objects the adapter holds state for: rings, queue pairs, completion queues,
windows, translations and faults, programs and items, groups, streams, triggers, records. They stand apart from
State because a snapshot image (R412), an operand of SNAP_IMPORT, carries some of them.
-/
namespace Sys2Proof

/-- A table of objects by number: keys strictly rising (see Machine/Table.lean). -/
abbrev Tbl (α : Type) := List (Nat × α)

/-- A ring (R27, R28): its space, base and size, and its producer and consumer index. -/
structure Ring where
  space : Nat
  base : Nat
  lg : Nat
  prod : U32
  cons : U32
  deriving DecidableEq, Repr

/-! ## Completions, events, Crumbs, feedback records -/

/-- A completion entry (Table 2.9) without its PHASE, which the ring index gives. -/
structure Completion where
  wqIndex : U32
  srcEpid : Nat
  timestamp : Nat
  imm : U32
  byteCount : Nat
  rq : Bool
  tsMissing : Bool
  immValid : Bool
  status : BitVec 8
  qpn : Nat
  wrTag : U32
  /-- The timestamp queue that holds its instant until it is written (R316); no part of the record. -/
  stampGroup : Option Nat
  deriving DecidableEq, Repr

/-- An event record (Table 12.11) without its PHASE. -/
structure EventRec where
  type : Nat
  severity : Nat
  slice : Option Nat
  source : Nat
  action : Nat
  untriaged : Bool
  time : Nat
  arg0 : Nat
  arg1 : Nat
  arg2 : Nat
  seq : Nat
  deriving DecidableEq, Repr

/-- A Crumb (Table 4.5) without its PHASE. -/
structure Crumb where
  window : Nat
  reqMask : BitVec 33
  slice : Nat
  resp : Bool
  firstQpn : Nat
  firstEpid : Nat
  faultId : Nat
  waiters : Nat
  time : Nat
  reason : Nat
  access : BitVec 3
  space : Nat
  unit : Nat
  page : Nat
  deriving DecidableEq, Repr

/-- A feedback record (Table 8.3), also the values of a running interval and the pending values of a queue pair (R298).
`rtts` holds the smallest and the largest delay sample, if there was one. -/
structure Feedback where
  qpn : Nat
  intervalEnd : Nat
  ackedBytes : Nat
  rtts : Option (Nat × Nat)
  cePkts : Nat
  ackedPkts : Nat
  timeouts : Nat
  deriving DecidableEq, Repr

/-- A reply (Table 14.4) without its PHASE. -/
structure Reply where
  result : BitVec 128
  detail : Nat
  index : U32
  fast : Bool
  committed : Bool
  slice : Nat
  tag : BitVec 16
  opcode : Nat
  status : Nat
  deriving DecidableEq, Repr

/-! ## Queue pairs -/

/-- The states of a queue pair (Table 3.1). -/
inductive QpState where
  | reset
  | init
  | live
  | drain
  | error
  deriving DecidableEq, Repr

/-- An entry held in the entry cache (R49, R50): its ring index, the bytes as read, and the staged payload an
accepted push bound to it (R47). `tablePending` says that a pushed entry's fragment table has still to be read. -/
structure CachedEntry where
  index : U32
  raw : BitVec 512
  poisoned : Bool
  table : List (BitVec 128)
  tablePoisoned : Bool
  staged : Option (List Byte)
  tablePending : Bool
  deriving DecidableEq, Repr

/-- One work queue of a queue pair with its fetch state (R49 to R52, R539). `rereads` counts the re-reads of the entry at
`rereadAt`. `posted` pairs each producer index that a doorbell or a
push has set with the moment at which it was processed and its number among all postings, oldest first (R207, Table 8.5); `readNo` is the number of the read outstanding among
the adapter's. -/
structure WorkQueue where
  ring : Ring
  next : U32
  cache : List CachedEntry
  reading : Option (U32 × Nat)
  rereads : Nat
  rereadAt : U32
  rereadDue : Option Nat
  stopped : Bool
  paused : Bool
  faultDue : Option Nat
  posted : List (U32 × Nat × Nat)
  readNo : Nat
  deriving DecidableEq, Repr

/-- A send entry that has started and not retired (R50, R97). `built` counts the PSNs built of `total`; `wire` the bytes of
its wire payload; `done` that its work has finished and it waits to retire in ring order. `txProg` is the program that its
requester items run (R184), `txNext` the source bytes given to items so far, `txOut` their output by wire offset, `txBad` the
offset and length of each run of it that is poisoned (R195). -/
structure SendEntry where
  e : CachedEntry
  firstPsn : Option U32
  built : Nat
  total : Nat
  wire : Nat
  done : Bool
  status : BitVec 8
  bytes : Nat
  stamp : Option Nat
  stampLost : Bool
  stampGroup : Option Nat
  recvSeq : Nat
  mbSeq : Option U32
  poisoned : Bool
  faultDue : Option Nat
  tokens : List Nat
  txProg : Option Nat
  txNext : Nat
  txOut : List Byte
  txBad : List (Nat × Nat)
  deriving DecidableEq, Repr

/-- What a message of the collective sequencer belongs to: a collective of a group, a MOE entry of a group, or a replay of
a stream's log. -/
inductive SeqKind where
  | coll (group run : Nat)
  | moe (group run : Nat)
  | replay (stream : Nat) (seq : U32)
  deriving DecidableEq, Repr

/-- A PSN that the requester has sent and not seen acknowledged (R88, R104, R105). A READ_REQ of n PSNs has n of
these, of which the first (`head`) carries the request. `len` is the payload of the PSN, of the response for a READ_REQ;
`wire` the bytes that the window counts. `msg` names the sequencer's message it belongs to, if any, and `src` the
untranslated pieces of its bytes. `place` are the physical pieces that a response is written to, each with the holder
of its translation in `tokens` (R127). `answered` says that a response has come, `placed` that its data is in its place (R98).
`rerun` counts the items that a resend has dispatched again (R188), `sent` says that the packet has been queued at a port at
least once. -/
structure OutPkt where
  psn : U32
  entry : Option U32
  opcode : Nat
  pktIndex : Nat
  len : Nat
  last : Bool
  head : Bool
  nPsn : Nat
  desc : Option (BitVec 128)
  wire : Nat
  sacked : Bool
  answered : Bool
  placed : Bool
  delayUntil : Option Nat
  msg : Option SeqKind
  src : List (Nat × Nat × Nat)
  place : List (Nat × Nat × Nat)
  tokens : List Nat
  resend : Bool
  rerun : Nat
  sent : Bool
  deriving DecidableEq, Repr

/-- An inbound message that has not retired (R94). `len` is its payload length, where its LAST packet arrived before its first one
(R116 step 4), `accAt` is the moment at which its latest packet was accepted (R86); `refused`
says that its refusal under R108 has been reported. -/
structure RxMsg where
  first : U32
  opcode : Nat
  desc : BitVec 128
  last : Option U32
  len : Option Nat
  accAt : Nat
  recvIndex : Option U32
  bytes : Nat
  poisoned : Bool
  stamp : Option Nat
  stampLost : Bool
  stampGroup : Option Nat
  refused : Bool
  deriving DecidableEq, Repr

/-- The transport and other parameters QP_MODIFY sets (Table 3.10, Table 14.5). -/
structure QpParams where
  remEpid : Nat
  remQpn : Nat
  remGen : BitVec 8
  scqn : Nat
  rcqn : Nat
  mtu8k : Bool
  rtoBase : Nat
  retryLimit : Nat
  busyLimit : Nat
  ackCount : Nat
  ackTimer : Nat
  tc : Nat
  ccProfile : Nat
  rxTs : Bool
  txKey : Option Nat
  rxKey : Option Nat
  deriving DecidableEq, Repr

/-- Requester state (R88, R104 to R106, R141). `rto` in ns; `rtoDue` and `waitDue` hold the moment at which the timer and the
wait clock end, `busySince` the moment at which the busy clock started. `rtoStopped` says that a retransmission waits on a fault
(R139). -/
structure Requester where
  nextPsn : U32
  unaPsn : U32
  out : List OutPkt
  started : List SendEntry
  rto : Nat
  retries : Nat
  rtoDue : Option Nat
  busySince : Option Nat
  waitDue : Option Nat
  sendSeq : Nat
  authFails : Nat
  keyWaiting : Bool
  drained : Bool
  credits : Nat
  rtoStopped : Bool
  deriving DecidableEq, Repr

/-- A response-class packet that has no route: it waits until `due`, as after a BUSY NAK (R268). -/
structure Unsent where
  op : Nat
  psn : U32
  index : Nat
  last : Bool
  bytes : List Byte
  bad : Bool
  ackAt : Option Nat
  due : Nat
  deriving DecidableEq, Repr

/-- Responder state (R90 to R101). Bit j of `accMap` is PSN `epsn + j`; `lastMap` records accepted LAST packets;
`deferred` are the READ_REQ and atomics that wait under R92; the result cache keeps whether the value was poisoned. -/
structure Responder where
  epsn : U32
  accMap : BitVec 512
  lastMap : BitVec 512
  msgs : List RxMsg
  deferred : List Packet
  unsent : List Unsent
  recvSeq : Nat
  cache : List (U32 × U64 × Bool)
  ackPending : Nat
  ackFirstAt : Option Nat
  ackCause : Nat
  ceCount : Nat
  deriving DecidableEq, Repr

/-- Congestion state (R292, R293, R295, R297). `prof` is the queue pair's profile as it is in force, `burst0` the PACE_BURST of
profile 0 (R294); `bucket` is the pacing bucket in bytes × 1,000 at time `bucketAt`; `unlimited` and `unpaced` say that a rate-table
entry lifted the window or the pacing. -/
structure CcState where
  prof : CcProfile
  burst0 : Nat
  w : Nat
  rate : Nat
  srtt : Nat
  lastRtt : Nat
  alpha : Nat
  marked : Nat
  acked : Nat
  epochEnd : U32
  sample : Option (U32 × Nat)
  bucket : Nat
  bucketAt : Nat
  tableAt : Option Nat
  unlimited : Bool
  unpaced : Bool
  deriving DecidableEq, Repr

/-- Why a queue pair entered ERROR, until its QP_ERROR event has been written (R73, Table 12.12): the cause, the failing
PSN, ARG2, and the entries that own the failing PSN, or the lost transfers (R370), with their status. -/
structure ErrInfo where
  cause : Nat
  psn : Option U32
  arg2 : Nat
  owner : List (Bool × U32)
  status : BitVec 8
  deriving DecidableEq, Repr

/-- A queue pair's context (R76). `cached` says that it is on-die and `usedAt` when it was last used (R80). `held` and `frozen` give the moment a hold (R364) or freeze (R411) began, `heldBy` the
ports that hold it. `authFailed` is its own AUTH_FAIL count (R444). `err` is set from its entry into ERROR until QP_ERROR is written. `feedback` are the
values of the running feedback interval, `fbAcked` that an ACK arrived in it, `merged` the pending values (R298). -/
structure Qp where
  slice : Nat
  st : QpState
  gen : BitVec 8
  sq : WorkQueue
  rq : WorkQueue
  p : QpParams
  rqr : Requester
  rsp : Responder
  cc : CcState
  feedback : Option Feedback
  fbAcked : Bool
  merged : Option Feedback
  pinned : Bool
  cached : Bool
  usedAt : Nat
  held : Option Nat
  heldBy : List Nat
  frozen : Option Nat
  authFailed : Nat
  err : Option ErrInfo
  stream : Option Nat
  deriving DecidableEq, Repr

/-! ## Completion queues, windows, translation -/

/-- A completion queue (R63 to R68, R238). `hold` pairs each held completion with whether a slice reset owes it
(R341); `stallTimeout` is in µs; `writtenAt` holds the moments at which the unconsumed completions were written (Table 8.5). -/
structure Cq where
  slice : Nat
  ring : Ring
  hold : List (Completion × Bool)
  armed : Option U32
  counter : U32
  stallTimeout : Nat
  stallSince : Option Nat
  stalled : Bool
  error : Bool
  writtenAt : List Nat
  deriving DecidableEq, Repr

/-- A window table entry (Table 4.2); `closing` while holders of a destroyed window remain (R114), `freedAt` the
moment its index was freed (R112), `stored` the bits of its last write-back while it is cached on-die (R392). -/
structure Window where
  tag : BitVec 8
  owner : Nat
  v : Bool
  rw : Bool
  rr : Bool
  ra : Bool
  rt : Bool
  space : Nat
  length : Nat
  base : Nat
  closing : Bool
  freedAt : Option Nat
  cached : Bool
  stored : Nat
  deriving DecidableEq, Repr

/-- One translation cache entry (R124), in the list of the least recently used first: pages `page` to `page + run`; `ats` marks one obtained through ATS (R149),
`untrans` one issued as untranslated requests (Table 4.11, U set). -/
structure Trans where
  slice : Nat
  space : Nat
  page : Nat
  run : Nat
  pfn : Nat
  r : Bool
  w : Bool
  ns : Bool
  epoch : BitVec 16
  ats : Bool
  untrans : Bool
  deriving DecidableEq, Repr

/-- Who waits on a walk or a fault (Table 4.6): a fetch, a requester-side packet with the entry that it stops, a
responder-side packet, or an engine with its item, the queue pair on whose behalf it works and, for a responder item, the peer's
endpoint and the window. -/
inductive Requestor where
  | fetch (qpn : Nat) (rq : Bool)
  | send (qpn : Nat) (own : Option (Nat × U32))
  | respond (qpn : Nat) (epid : Nat) (window : Nat)
  | engine (n item qpn : Nat) (resp : Option (Nat × Nat))
  | load (aq : Nat) (index : U32)
  deriving DecidableEq, Repr

/-- A pointer entry in a unit's walk cache (R124): the level of the table entry that was read, the address bits that chose it, and the
table page that it names. -/
structure WalkPtr where
  unit : Nat
  slice : Nat
  space : Nat
  level : Nat
  at_ : Nat
  table : Nat
  deriving DecidableEq, Repr

/-- A fault (R128, R129): its Crumb as it stands; whether it is still outstanding; whether that Crumb is still unwritten,
whether its batch has come due (R132), and whether it has a Crumb at all (R150); whether its Page Request has been sent (R149); and its
waiters, each with its access and the time at which its FAULT_TIMEOUT ends (R137). A resolved fault stays listed until its Crumb has been written. -/
structure Fault1 where
  id : Nat
  crumb : Crumb
  outstanding : Bool
  unwritten : Bool
  due : Bool
  hasCrumb : Bool
  asked : Bool
  waiters : List (Requestor × BitVec 3 × Nat)
  deriving DecidableEq, Repr

/-- A fault that waits for a free place in its unit's fault table (R135); `ats` says that host translation denied it. -/
structure WaitingFault where
  slice : Nat
  space : Nat
  page : Nat
  reason : Nat
  ats : Bool
  access : BitVec 3
  who : Requestor
  due : Nat
  deriving DecidableEq, Repr

/-- A walk in progress (R125, R126), or an ATS request in its place (R150), which has been sent (`asked`) or waits for the host port,
with its waiters and the access of each. A packet that waits on it stands in a miss buffer. -/
structure Walk where
  slice : Nat
  space : Nat
  page : Nat
  ats : Bool
  asked : Bool
  waiters : List (Requestor × BitVec 3)
  deriving DecidableEq, Repr

/-- What kind of object holds a translation (R142, INVAL_HOLDER in Table 12.12). -/
inductive HolderKind where
  | qp
  | engine
  | port
  deriving DecidableEq, Repr

/-- A holder's access (R142): its own number, its slice, the epoch of its translation, the window it checked, the object that holds, and
the operation that it belongs to: a packet, or a set of destinations, is one holder however many accesses it makes. -/
structure Holder where
  token : Nat
  slice : Nat
  epoch : BitVec 16
  window : Option Nat
  kind : HolderKind
  id : Nat
  op : Nat
  deriving DecidableEq, Repr

/-- A FAILED record (R136). -/
structure FailedRec where
  slice : Nat
  space : Nat
  page : Nat
  until_ : Nat
  deriving DecidableEq, Repr

/-! ## Programs and items -/

/-- A loaded program (R180, R181): the header fields of Table 5.9, its instructions and AUX region, and its engine
set. `dead` marks a program that a load replaced or an unload removed and whose items have not all ended (R184). -/
structure Program where
  id : Nat
  slice : Nat
  slot : Nat
  proLen : Nat
  inGran : Nat
  outGran : Nat
  tgtGran : Nat
  auxBytes : Nat
  workBytes : Nat
  cycles : Nat
  minShare : Nat
  code : List U64
  aux : List Byte
  engines : List Nat
  dead : Bool
  deriving DecidableEq, Repr

/-- A row that a DISPATCH landed (Table 6.10): its expert and row, and the ticket's fields. -/
structure MoeTicket where
  x : Nat
  j : Nat
  rank : Nat
  kslot : Nat
  token : Nat
  weight : Nat
  deriving DecidableEq, Repr

/-- Where an item's output goes: to the window of a responder's packet of opcode `op`, at an offset; to the output of a send entry;
or to the output row of a ticket in the own member's window in a COMBINE. -/
inductive ItemDest where
  | target (qpn : Nat) (psn : U32) (op wkey off : Nat)
  | wire (qpn : Nat) (entry : U32) (offset : Nat)
  | own (group : Nat) (ticket : MoeTicket)
  deriving DecidableEq, Repr

/-- Where an item stands: in the packet core, queued at an engine, resident on it, there waiting on a translation of its operands or
on its range lock, or set aside until a fault ends (R138, R154, R155, R192). -/
inductive ItemStage where
  | queued
  | waiting (engine : Nat)
  | walking (engine : Nat)
  | resident (engine : Nat)
  | waitLock (engine : Nat)
  | aside (engine : Nat)
  | writing (engine : Nat)
  deriving DecidableEq, Repr

/-- The packet of a responder item, until its operands are translated and its PSN is accepted: the link, the packet, and the moment of
its arrival (R140, R190). -/
structure Arrival where
  link : Nat
  p : Packet
  since : Nat
  deriving DecidableEq, Repr

/-- A work item (R153). `slot` is the program slot from which the item takes its program when it is dispatched; an item of an entry
has none: its program is bound (R184). `msgGran` is the index within its message of its first granule, `weight` the operand a
COMBINE row places in the work region (R227). `src` and `out` are the untranslated pieces of its input, where `input` does not hold
it already, and of its output; `srcAt` and `outAt` their physical pieces, and `srcToken` and `token` the holders of the two, once
the engine has translated them (R127, R142); a responder item's `token` is from its window check on the holder of its request (R114).
`snap` is the target in Millefeuille as the item reads it (R193). `seed` and `aux` are the engine's seed and the program's AUX region as
the item started (R171, R179). `made` is what a program that reads no target has made and has still to write, with its poison (R127);
`faultDue` the end of the FAULT_TIMEOUT of the fault for which it stands aside (R138). -/
structure Item where
  id : Nat
  slice : Nat
  qpn : Nat
  key32 : U32
  prog : Nat
  slot : Option Nat
  arg : U32
  msgGran : Nat
  weight : Option U32
  src : List (Nat × Nat × Nat)
  srcAt : List (Nat × Nat × Nat)
  len : Nat
  input : List Byte
  poisoned : Bool
  dest : ItemDest
  out : List (Nat × Nat × Nat)
  outAt : List (Nat × Nat × Nat)
  snap : Option ReadData
  stage : ItemStage
  seed : U64
  aux : List Byte
  srcToken : Option Nat
  token : Option Nat
  made : Option (List Byte × Bool)
  faultDue : Option Nat
  arr : Option Arrival
  deriving DecidableEq, Repr

/-! ## Groups, streams, triggers -/

/-- A collective that runs on a group (R202 to R211), for the entry `index` of queue pair `qpn`. `size` and `region` are S
and its offset in the work window. `phase` is 0 in the first half, 1 while the level above runs, 2 in the second half; `child`
the group below that waits for this one. `copies` counts input reads outstanding and `ready` says that the input is in place.
`sent` and `got` count messages issued and retired by stream of the algorithm (channel × 16 + stream). -/
structure CollRun where
  id : Nat
  qpn : Nat
  index : U32
  op : Nat
  algo : Nat
  root : Nat
  size : Nat
  region : Nat
  phase : Nat
  child : Option Nat
  started : Bool
  copies : Nat
  ready : Bool
  sent : Tbl Nat
  got : Tbl Nat
  issued : Nat
  acked : Nat
  retired : Nat
  step : Nat
  lastProgress : Nat
  poisoned : Bool
  deriving DecidableEq, Repr

/-- A message that the collective sequencer has queued on a queue pair (R206, R224, R235): its packet opcode and
descriptor, the untranslated pieces (space, address, length) of its bytes, and the packets built of it. -/
structure SeqMsg where
  id : Nat
  qpn : Nat
  kind : SeqKind
  op : Nat
  desc : BitVec 128
  src : List (Nat × Nat × Nat)
  len : Nat
  built : Nat
  firstPsn : U32
  deriving DecidableEq, Repr

/-- The MOE entry that runs on a group (R222 to R228). `table` is the routing table of a DISPATCH, or the tickets and counts of the
landing area of a COMBINE, as far as it has been read, `reads` counts reads and own items outstanding, `loaded` says that every row
and tally has been queued. -/
structure MoeRun where
  id : Nat
  qpn : Nat
  index : U32
  combine : Bool
  tokens : Nat
  begun : Bool
  table : List Byte
  reads : Nat
  loaded : Bool
  issued : Nat
  acked : Nat
  tallies : Nat
  tallySum : Nat
  received : Nat
  poisoned : Bool
  deriving DecidableEq, Repr

/-- A mixture-of-experts binding (R218) with its layer invocation: `seq` is OP_SEQ, `combining` that the next phase is
COMBINE; the counts are those of the latest DISPATCH, and `tickets` are those of the own rows that a running COMBINE has still
to give to items, or that a DISPATCH that was restored has still to land. -/
structure MoeState where
  p : MoeP
  map : List U32
  seq : Nat
  combining : Bool
  run : Option MoeRun
  landed : List Nat
  overflow : Nat
  dispatched : Nat
  tickets : List MoeTicket
  deriving DecidableEq, Repr

/-- A group table entry (Table 6.1), with its copy of the member table (R198). -/
structure Group where
  slice : Nat
  p : CollP
  members : List (BitVec 128)
  opSeq : Nat
  broken : Bool
  run : Option CollRun
  moe : Option MoeState
  /-- The entries, of a queue pair and an index, that wait for the group in posting order (R207). -/
  waiting : List (Nat × U32)
  deriving DecidableEq, Repr

/-- A stream table entry (Table 6.11). `nextSeq` is the next MB_SEQ to be taken (SENDER) or NEXT_SEQ (RECEIVER),
`logged` the first MB_SEQ not logged (R406), `oldest` the oldest the log holds, `replay` the micro-batch a running
STAGE_REPLAY re-sends next. -/
structure Stream where
  slice : Nat
  sender : Bool
  qpn : Option Nat
  p : StageP
  nextSeq : U32
  logged : U32
  oldest : U32
  sizes : Tbl Nat
  unretired : Nat
  replay : Option (U32 × U32)
  deriving DecidableEq, Repr

/-- A trigger (R236 to R238). -/
structure Trigger where
  slice : Nat
  p : TrigP
  have_ : Nat
  armed : Bool
  deriving DecidableEq, Repr

/-! ## Snapshots -/

/-- One record of a snapshot image (Table 12.6), with the object state in the model's own form: the manual lays
those bytes out for the adapter's own use (R412, log 104). -/
inductive SnapObj where
  | slicePage (id : Nat) (pasid : Nat)
  | qp (qpn : Nat) (q : Qp)
  | cq (cqn : Nat) (c : Cq)
  | window (index : Nat) (w : Window)
  | root (slice space addr : Nat)
  | group (g : Nat) (x : Group) (queued : List SeqMsg)
  | stream (n : Nat) (x : Stream) (queued : List SeqMsg)
  | trigger (n : Nat) (x : Trigger)
  /-- An event (0), fault (1) or feedback ring (2), of the queue or slice of that number. -/
  | ring (kind n vector : Nat) (r : Ring)
  deriving DecidableEq, Repr

/-- A snapshot image (R412): its bytes, and the objects that its records stand for, in the model's own form, since most records are laid
out for the adapter's own use. `taken` is the moment of the capture on the clock that the objects' times count. -/
structure Snapshot where
  bytes : List Byte
  records : List SnapObj
  taken : Nat
  deriving DecidableEq, Repr

end Sys2Proof
end

