-- ==== Sys2Proof/Syntax.lean ====
section
/-!
DEFINITION. Sys2Proof/Syntax.lean: the commands, one constructor per row of spec/opcode_table.json.
A command packet's row carries the header of the packet and its parameters (R459, R462, R533). A row for an event at
a pin, a link, a port, a timer or an internal engine carries what identifies the object and what arrived there.
-/
namespace Sys2Proof

/-- The commands the adapter takes: admin commands, register and doorbell accesses, packets and flits that arrive,
expiries of its timers, and events at its pins and internal engines. -/
inductive Instr where
  | aqCreate (h : Cmd) (n lg space cbase rbase vector : Nat)
  | aqDestroy (h : Cmd) (n : Nat)
  | devModeSet (h : Cmd) (routeHa evtHa : Nat)
  | devQuery (h : Cmd) (kind code index offset : Nat)
  | selfTest (h : Cmd) (kind lane target base length : Nat)
  | selfTestDone (kind target a b : Nat) (failed : Bool)
  | pwrSet (h : Cmd) (p : PwrSetP)
  | qpCreate (h : Cmd) (p : QpCreateP)
  | qpModify (h : Cmd) (p : QpModifyP)
  | qpDestroy (h : Cmd) (qpn : Nat)
  | qpQuery (h : Cmd) (qpn space addr : Nat)
  | qpPin (h : Cmd) (qpn : Nat)
  | qpUnpin (h : Cmd) (qpn : Nat)
  | wqInvalidate (h : Cmd) (qpn queue : Nat)
  | cqCreate (h : Cmd) (cqn : Nat) (ring : RingP) (stall : Nat)
  | cqModify (h : Cmd) (cqn stall : Nat)
  | cqDestroy (h : Cmd) (cqn : Nat)
  | cqQuery (h : Cmd) (cqn : Nat)
  | winCreate (h : Cmd) (perm space base length : Nat)
  | winDestroy (h : Cmd) (wkey : U32)
  | winQuery (h : Cmd) (index : Nat)
  | xltRootSet (h : Cmd) (space root : Nat)
  | xltInval (h : Cmd) (space whole base length : Nat)
  | xltInvalWait (h : Cmd) (epoch : Nat)
  | invalHoldersDone (slice : Nat) (window : Option Nat)
  | invalTimeoutExpiry (slice : Nat) (window : Option Nat)
  | xltResolve (h : Cmd) (items : List (Nat × Nat)) (cons : U32)
  | fqCreate (h : Cmd) (ring : RingP)
  | txeLoad (h : Cmd) (slot mask space : Nat) (image : ImageRead)
  | txePlanLoad (h : Cmd) (items : List PlanItem)
  | txeUnload (h : Cmd) (slot : Nat)
  | txeAuxWrite (h : Cmd) (slot offset : Nat) (data : List Byte)
  | txeSeed (h : Cmd) (mask : Nat) (seed : U64)
  | collCreate (h : Cmd) (p : CollP)
  | collDestroy (h : Cmd) (group : Nat)
  | collReset (h : Cmd) (group : Nat)
  | moeBind (h : Cmd) (p : MoeP)
  | stageBind (h : Cmd) (p : StageP)
  | stageReplay (h : Cmd) (stream : Nat) (from_ : U32)
  | stageQuery (h : Cmd) (stream : Nat)
  | trigCreate (h : Cmd) (p : TrigP)
  | trigArm (h : Cmd) (trig : Nat) (threshold : U32)
  | trigDestroy (h : Cmd) (trig : Nat)
  | portRetrain (h : Cmd) (n : Nat)
  | routesetSet (h : Cmd) (n : Nat) (entry : BitVec 128)
  | rtgWrite (h : Cmd) (writes : List RouteWrite)
  | rtgSwap (h : Cmd)
  | epMap (h : Cmd) (logical : Nat) (entry : U32)
  | neighSet (h : Cmd) (p : NeighP)
  | shaperSet (h : Cmd) (kind object tc rate burst reset : Nat)
  | ccProfileSet (h : Cmd) (n : Nat) (p : CcProfile)
  | meterSet (h : Cmd) (cir pir cbs pbs : Nat)
  | histAttach (h : Cmd) (mon kind object tc binMode step : Nat)
  | histDetach (h : Cmd) (mon : Nat)
  | histRead (h : Cmd) (mon clear : Nat)
  | timeSet (h : Cmd) (ns : Nat)
  | timeAdj (h : Cmd) (offset : Int)
  | gateSet (h : Cmd) (port cycle baseTime : Nat) (entries : List U64)
  | gateListActivate (port : Nat)
  | gateIntervalAdvance (port : Nat)
  | fbrCreate (h : Cmd) (ring : RingP)
  | fbrAck (h : Cmd) (cons : U32)
  | sliceCreate (h : Cmd) (p : SliceCreateP)
  | sliceModify (h : Cmd) (p : SliceModifyP)
  | sliceQuota (h : Cmd) (limits : List (Option Nat)) (block : QuotaRead)
  | sliceBind (h : Cmd) (p : SliceBindP)
  | sliceSmemAdd (h : Cmd) (base length : Nat)
  | sliceSmemRemove (h : Cmd) (base length : Nat)
  | sliceReset (h : Cmd) (report : Nat)
  | sliceResetDrained (slice : Nat)
  | sliceDestroy (h : Cmd) (report : Nat)
  | extentZeroDone (base : Nat)
  | hostResume (h : Cmd) (port action discard : Nat)
  | snapExport (h : Cmd) (scope addr : Nat)
  | snapImport (h : Cmd) (image : Snapshot)
  | snapThaw (h : Cmd) (scope : Nat)
  | evqCreate (h : Cmd) (queue : Nat) (ring : RingP) (vector : Nat)
  | evqAck (h : Cmd) (queue : Nat) (cons : U32) (arm : Nat)
  | wmSet (h : Cmd) (entry kind object level : Nat)
  | wmRead (h : Cmd) (entry : Nat)
  | wmAck (h : Cmd) (entry : Nat)
  | wmClear (h : Cmd) (entry : Nat)
  | keyInstall (h : Cmd) (slot dir position : Nat) (key : WrappedKey)
  | keyFree (h : Cmd) (slot : Nat)
  | keyQuery (h : Cmd) (slot : Nat)
  | kekSet (m : MgmtHead) (slice : Nat) (kek : BitVec 256)
  | fwUpdate (m : MgmtHead) (offset bytes : Nat) (bank : Option BankImage)
  | secZeroise (m : MgmtHead)
  | spdmRequest (code session : Nat)
  | getMeasurements (session : Option Nat)
  | rawBlockRequest (encrypt : Bool) (key : Nat) (blocks : List (BitVec 128))
  | debugUnlock (signed : Bool)
  | jtagInstruction (ir : Nat)
  | cmdAqProd (queue : Nat) (value : U64)
  | cmdAqRcons (queue : Nat) (value : U64)
  | commandFetchReturn (queue : Nat) (packets : List (BitVec 512))
  | commandReread (queue : Nat)
  | commandTimeout (queue : Nat) (index : U32)
  | aq0Enable (value : U64)
  | aq0Disable (value : U64)
  | mgmtPlaneReset
  | mgmtWatchdogExpiry
  | transitOnlyReset
  | hifWinCtlWrite (value : U64)
  | schGateCtlWrite (port : Nat) (value : U64)
  | fabVcThreshWrite (port : Nat) (halfB : Bool) (value : U64)
  | rtgSelfEpidWrite (value : U64)
  | schTimeCfgWrite (value : U32)
  | errFirstClear (bank : Nat)
  | errNextClear (bank : Nat)
  | schTimeNsRead
  | registerWrite (offset size : Nat) (value : U64) (fromHost : Bool)
  | bar4Write (offset : Nat) (data : List Byte) (ep : Bool)
  | bar4Read (offset length : Nat)
  | doorbell (port slice : Nat) (word : U64) (whole : Bool)
  | cqConsumed (port slice : Nat) (word : U64)
  | cqArm (port slice : Nat) (word : U64)
  | pushPageWrite (port slice page offset : Nat) (data : List Byte)
  | pushTrigger (port slice page : Nat) (word : U64)
  | entryFetchReturn (qpn : Nat) (rq : Bool) (entries : List FetchedEntry)
  | entryReread (qpn : Nat) (rq : Bool)
  | entryStart (qpn : Nat)
  | packetBuild (qpn : Nat) (source : ReadData)
  | egressPacketSelect (port : Nat)
  | rxRequestPacket (link : Nat) (p : Packet)
  | rxAck (link : Nat) (p : Packet)
  | rxNak (link : Nat) (p : Packet)
  | rxResponse (link : Nat) (p : Packet)
  | cqStallTimeout (cqn : Nat)
  | ackTimerExpiry (qpn : Nat)
  | rtoExpiry (qpn : Nat)
  | nakDelayExpiry (qpn : Nat) (psn : U32)
  | busyLimitExpiry (qpn : Nat)
  | pageWaitLimitExpiry (qpn : Nat)
  | contextFetchDone (qpn : Nat) (primaryBad mirrorBad : Bool)
  | windowFetchDone (index : Nat) (primaryBad mirrorBad : Bool)
  | walkDone (slice space page : Nat)
  | crumbBatchTimer (slice : Nat)
  | faultTimeoutExpiry (qpn : Nat) (fetch rq : Bool)
  | failedRecordExpiry (slice space page : Nat)
  | atsCompletion (slice page : Nat) (r w u : Bool) (size pfn : Nat)
  | prgResponse (slice page code : Nat)
  | atsInvalidateRequest (pasid base length : Nat) (whole : Bool) (itag : Nat)
  | itemDispatch (item : Nat)
  | itemEnd (item : Nat) (data : ItemData)
  | rangeLockGrant (item : Nat)
  | accumulateCommit (qpn : Nat) (psn : U32)
  | collStepStart (group : Nat)
  | stepTimeoutExpiry (group : Nat)
  | prevGraceExpiry (slot : Nat)
  | keyWaitExpiry (slot : Nat)
  | rateTableRead (qpn : Nat)
  | feedbackIntervalEnd (slice : Nat)
  | histSample
  | portTrained (n : Nat) (peer : PeerLink) (rtt : Nat)
  | portDown (n cause : Nat)
  | flitReceive (n : Nat) (c : Codeword)
  | replayReq (n : Nat) (seq : BitVec 16)
  | replayMiss (n : Nat) (seq : BitVec 16)
  | replayReqTimeout (n : Nat)
  | replayBufferExpiry (n : Nat)
  | abort (n vc : Nat)
  | flow (n : Nat) (off : BitVec 7)
  | flowRefreshTimer (n : Nat)
  | laneFailed (n lane : Nat)
  | narrowComplete (n peerLanes : Nat) (peerNext : BitVec 16)
  | routeUpdate (n : Nat) (u : RouteUpdate)
  | transitPacket (n vc : Nat) (p : Packet) (uncorrectable : Bool)
  | escWaitExpiry (waiting : Nat)
  | timeFlitSend (n : Nat)
  | timeFlitReceive (n : Nat) (t : TimeFlit) (rxTime : FracNs) (inReplay : Bool)
  | timeParentLost
  | ppsInEdge (at_ : Nat)
  | ppsInMissing
  | ppsOutPulse
  | ptpMessage (n kind : Nat) (offset : FracNs)
  | ethFrameReceive (n : Nat) (f : EthFrame) (p : Packet)
  | pfcFrameReceive (n enable : Nat) (times : List Nat)
  | pfcPauseExpiry (n priority : Nat)
  | pfcXoffRefresh (n priority : Nat)
  | zalTransaction (a : Nat) (hdr : BitVec 128) (data : List Byte)
  | accUpstreamRequest (a : Nat) (write : Bool) (addr : Nat) (data : List Byte)
  | portReadCompletion (port tag status : Nat) (data : ReadData)
  | hostReadTimeout (tag : Nat)
  | writeLogAck (port tlps : Nat)
  | hostLinkLoss (port : Nat)
  | hostLinkUp (link : IoLink)
  | hostHotReset (port : Nat)
  | perstAssert
  | perstDeassert
  | powerOn (perstHigh selftest : Bool) (a b : BankImage)
  | resetSequenceDone
  | porFall
  | railFault (rail : Nat)
  | sysclkLoss
  | refclkLoss (acc : Bool) (g : Nat)
  | thermAlert (tj : Nat)
  | thermTrip (tj : Nat) (dram : List Nat)
  | sensorReport (r : Sensors)
  | coreHung (core : Nat)
  | coreRestarted (core : Nat)
  | eventTriage (core : Nat)
  | triageRetrainTimer (n : Nat)
  | patrolScrub (line symbols : Nat)
  | smemRefresh (stack temp : Nat) (margin : Option (Nat × Nat × Nat))
  | powerIdleTimer (o : PowerObj)
  | souffle (o : PowerObj)
  | souffleDone (o : PowerObj)
  | parkStart (o : PowerObj)
  | parkTimeout (o : PowerObj)
  | parkedPortSignal (o : PowerObj)
  | unparkTimeout (o : PowerObj)
  | mgmtPlaneResetDone
  | transitOnlyResetDone
  | refclkRestored (acc : Bool) (g : Nat)
  | portParked (o : PowerObj)
  | spdmHeartbeatLost (session : Nat)
  | recoveryBankWrite (bank : Nat) (image : BankImage)
  | selfTestQuiesceTimeout (engine : Nat)
  | stackReadReturn (line symbols : Nat)
  | trstAssert
  deriving DecidableEq, Repr

end Sys2Proof
end

