-- ==== Sys2Proof/Config.lean ====
section
/-!
DEFINITION. Sys2Proof/Config.lean: what one implementation fixes and the manual leaves open. A constant without a body
is a free value: nothing in Lean can see what it is, and a statement holds whatever it is.
-/
namespace Sys2Proof.Config

/-- A choice that the manual leaves to the adapter (a free window index, a free FAULT_ID, an engine, a control core):
the adapter's n-th choice, as a number that the rule's own condition then accepts or replaces (log 4). -/
opaque choice : Nat → Nat

/-- A value that the manual leaves open and that some record or packet then carries (log 5). -/
opaque value : Nat → Nat

/-- The version of the boot ROM, which the part has from manufacture (Table 13.6, log 5). -/
opaque romVersion : Nat

/-- The device identity certificate in slot 0, which the part has from manufacture (Table 13.5, log 96). -/
opaque certificate : List (BitVec 8)

/-- The Ed448 signature of a response with the device identity key (R453, log 6). -/
opaque signature : List Nat → Nat

/-- How often a loop runs whose count the manual does not give: one that a scalar register counts, by its operand field at load
and by the register's value at run time where that is no count from 1 to 65,535 (R175, log 64). -/
opaque loopCount : Nat → Nat

/-- A byte of an item's work region that nothing has written: by item and address (R179, log 65). -/
opaque workByte : Nat → Nat → BitVec 8

/-- A lane of a VTOPK result that R176 does not lay out: by item, instruction executed and lane (log 66). -/
opaque topkLane : Nat → Nat → Nat → BitVec 32

/-- The scale of a block of a VSEL result whose sources have different scales, which R168 and R175 do not give: by item, instruction
executed and block (log 76). -/
opaque selScale : Nat → Nat → Nat → BitVec 8

/-- Whether VMAX or VMIN takes A where both operands are zeros of opposite sign: by the sign of A (R175, log 67). -/
opaque zeroTie : Bool → Bool

/-- The set of a translation cache in which a lookup looks: a hash of slice, space and address bits 47:24, which the manual names and
does not give (R124, log 145). -/
opaque xltSet : Nat → Nat → Nat → Nat

/-- Places of a transport pipeline's endpoint response queue beyond its first (R261, log 156). -/
opaque respQueue : Nat

/-- The DRAM row in which a 32-byte line of Millefeuille lies: the manual gives no layout of rows (Table 11.2, log 75). -/
opaque rowOf : Nat → Nat

end Sys2Proof.Config
end

