-- ==== Sys2Proof/Machine/State.lean ====
section
/-!
DEFINITION. Sys2Proof/Machine/State.lean: the adapter's state as plain data, its reasons to stop, and the state
after reset. Every register, table, queue, buffer, counter, timer and pin the manual gives the adapter is a field;
the queue of commands that wait is `pending`, first in, first out. Times of the machine's own clock are in ns.
A table (`Tbl`) lists the objects that exist; where every number has an object (a port, a counter, a seed), an
unlisted number stands for the reset value that the accessor in Machine/Ops.lean names.
-/
namespace Sys2Proof.Machine

/-! ## Outputs: what the adapter sends out of itself, oldest first -/

/-- What the adapter emitted at one of its interfaces. -/
inductive Out where
  /-- A memory write that left a host (15) or accelerator (0 to 7) port: space, address on the link, bytes, EP, RO, No Snoop, the slice
  or other owner (`deviceOwner` in Machine/Base.lean), and the PASID that the request carries, if any (R330, R378, R379). -/
  | memWrite (port space addr : Nat) (data : List Byte) (poison ro ns : Bool) (owner : Nat) (pasid : Option Nat)
  /-- A read or atomic issued at a port with its tag: kind 0 read, 1 FetchAdd, 2 CAS; the operand bytes of an atomic, its EP, No Snoop,
  the owner and the PASID. -/
  | portRead (port tag kind space addr length : Nat) (operand : List Byte) (poison ns : Bool) (owner : Nat) (pasid : Option Nat)
  /-- A read of `count` work entries of a queue, from index `first`, with the PASID of a read of host memory (R49, R330). -/
  | fetchEntries (qpn : Nat) (rq : Bool) (first : U32) (count : Nat) (pasid : Option Nat)
  /-- A read of admin commands, with its PASID (R458). -/
  | fetchCommands (queue : Nat) (first : U32) (pasid : Option Nat)
  /-- A completion written at a ring index (R59): queue, index, address, the record with its PHASE. -/
  | completion (cqn : Nat) (index : U32) (space addr : Nat) (bits : BitVec 256)
  | event (queue : Nat) (index : U32) (space addr : Nat) (bits : BitVec 256)
  | crumb (slice : Nat) (index : U32) (space addr : Nat) (bits : BitVec 256)
  | feedback (slice : Nat) (index : U32) (space addr : Nat) (bits : BitVec 256)
  | reply (queue : Nat) (index : U32) (space addr : Nat) (bits : BitVec 256)
  /-- The 64-byte queue-pair status record of QP_QUERY (Table 14.9). -/
  | qpStatus (space addr : Nat) (bits : BitVec 512)
  /-- The 64-byte reset report of R464. -/
  | resetReport (addr : Nat) (counts : List Nat)
  /-- What the bytes of an exported image stand for; the bytes themselves are written at the host port (R411, log 104). -/
  | snapshot (image : Snapshot)
  /-- A packet that left on the lanes of a logical port on a VC. -/
  | packet (port vc : Nat) (p : Packet)
  /-- An Ethernet transport frame with its headers (R275). -/
  | ethFrame (port : Nat) (f : FrameOut) (p : Packet)
  /-- A PFC frame (R278): the priorities it enables, and their times. -/
  | pfcFrame (port : Nat) (enable : BitVec 8) (times : List Nat)
  | neighAdvert (port : Nat)
  /-- Control flits (Table 7.4). -/
  | flowFlit (port : Nat) (off : BitVec 7)
  | replayReq (port : Nat) (seq : BitVec 16)
  | replayMiss (port : Nat) (seq : BitVec 16)
  | replayFrom (port : Nat) (seq : BitVec 16)
  | abortFlit (port vc : Nat)
  | routeUpdate (port : Nat) (u : RouteUpdate)
  | timeFlit (port : Nat) (t : TimeFlit)
  /-- A PEER flit (R243): mode, Full FEC, width and EPID. -/
  | peerFlit (port mode : Nat) (full : Bool) (width epid : Nat)
  | zalCpl (port tag status : Nat)
  /-- A ZAL completion with data: its tag, the low bits of the address of its first byte, and the bytes. -/
  | zalData (port tag addr : Nat) (data : List Byte)
  | unsupportedRequest (port : Nat)
  | atsRequest (slice page : Nat) (pasid : Option Nat)
  | pageRequest (slice page faultId : Nat) (pasid : Option Nat)
  | atsInvalidateDone (itag : Nat)
  | msix (vector : Nat)
  /-- A report over MCTP, by name, with its numbers. -/
  | mctp (what : String) (args : List Nat)
  | spdm (session : Nat) (what : String) (args : List Nat)
  | blocks (result : List (BitVec 128))
  | pin (name : String) (level : Bool)
  /-- A Delay_Req that left an Ethernet port (Table 8.8). -/
  | ptpDelayReq (port : Nat)
  | barRead (value : List Byte) (ep : Bool)
  /-- What HIST_READ returns: the monitor, its 64 bins and its two peaks (R305). -/
  | histogram (mon : Nat) (depth delay : List U32) (peakDepth peakDelay : Nat)
  | wakeSignal (o : PowerObj)
  /-- A JTAG instruction as it acts (R529), with what its register captures where the manual gives it. -/
  | jtag (ir : Nat) (captured : Option Nat)
  deriving DecidableEq, Repr

/-! ## Slices -/

/-- The states of a slice (Table 9.2). -/
inductive SliceState where
  | free
  | live
  | faultStop
  | resetting
  | destroying
  deriving DecidableEq, Repr

/-- The ingress meter of a slice (Table 8.4), with its two buckets in bytes at time `at_`. -/
structure Meter where
  cir : Nat
  pir : Nat
  cbs : Nat
  pbs : Nat
  tc : Nat
  tp : Nat
  at_ : Nat
  deriving DecidableEq, Repr

/-- The seven counts of a slice reset (Table 9.9). -/
structure ResetCounts where
  written : Nat
  held : Nat
  discarded : Nat
  malformed : Nat
  items : Nat
  pkts : Nat
  dma : Nat
  deriving DecidableEq, Repr

/-- A slice page (Tables 9.1 to 9.5) and the rest of a slice's own state. -/
structure Slice where
  st : SliceState
  latCrit : Bool
  ccHa : Bool
  xltHa : Bool
  keyHa : Bool
  redHa : Bool
  /-- Mode bits set and not yet in force (Table 1.5). For translation: the value, the epoch that was current at the command, and
  whether an invalidation that started after it has completed. -/
  xltHaNext : Option (Bool × BitVec 16 × Bool)
  redHaNext : Option Bool
  pasid : Nat
  resetCount : BitVec 16
  accMask : BitVec 8
  classMask : BitVec 8
  routeSet : Nat
  bwWeight : Nat
  /-- The LIMITs of Table 9.5 in order, and PEND of each. -/
  limits : List Nat
  pend : List Bool
  faultTimeout : Nat
  pageWaitBase : Nat
  pageWaitLimit : Nat
  ratePoll : Nat
  feedbackInterval : Nat
  keyWait : Nat
  authFailLimit : Nat
  /-- Extents of Millefeuille: base and length in bytes; and those being removed (R331). -/
  extents : List (Nat × Nat)
  removing : List (Nat × Nat)
  /-- The commands that were executing for the slice when its reset was ordered (R344): admin queue and index. -/
  finishing : List (Nat × U32)
  /-- The malformed entry of fault-stop: QPN, receive queue, index (R55, R57). -/
  fault : Option (Nat × Bool × U32)
  /-- The entries whose work had begun before a reset stopped it, for the report. -/
  counts : ResetCounts
  meter : Meter
  kek : Option (BitVec 256)
  epoch : BitVec 16
  faultQ : Option Ring
  crumbsFrom : Option Nat
  feedbackQ : Option Ring
  /-- Start of the running feedback interval. -/
  fbSince : Nat
  priStopped : Bool
  deriving DecidableEq, Repr

/-- The staging of one push page (R44): the bytes written since its last trigger, by page offset. -/
abbrev PushPage := Tbl Byte

/-! ## Admin and event queues -/

/-- A command started and not replied (R473, R474): ring index, opcode, slice, Key object, control core or the
fast machine, when it started, whether its commit has begun (R477), and whether its queue has been reset since (R479). -/
structure Started where
  queue : Nat
  index : U32
  opcode : Nat
  slice : Nat
  tag : BitVec 16
  keyKind : Nat
  keyId : Nat
  core : Option Nat
  since : Nat
  committed : Bool
  orphan : Bool
  deriving DecidableEq, Repr

/-- An admin queue (Tables 14.1, 14.2). -/
structure AdminQ where
  en : Bool
  lg : Nat
  space : Nat
  vector : Nat
  pasid : Nat
  pasidV : Bool
  cbase : Nat
  rbase : Nat
  cprod : U32
  cnext : U32
  rprod : U32
  rcons : U32
  armed : Bool
  waiting : List (BitVec 512 × U32)
  /-- Replies that wait on-die while the host port cannot write (R479). -/
  owed : List Reply
  rereads : Nat
  rereadDue : Option Nat
  stopped : Bool
  closing : Bool
  /-- The number of its read outstanding, if there is one. -/
  reading : Option Nat
  deriving DecidableEq, Repr

/-- An event queue (Table 16.7, R423). -/
structure EventQ where
  en : Bool
  ring : Ring
  vector : Nat
  armed : Bool
  hold : List EventRec
  seq : Nat
  dropped : Nat
  firstDrop : Nat
  dropMask : BitVec 3
  deriving DecidableEq, Repr

/-- A command that waits on a condition its rule names before it replies (R476). -/
inductive WaitOn where
  | epoch (slice : Nat) (e : BitVec 16) (since : Nat)
  | window (index : Nat) (since : Nat)
  | extent (slice : Nat) (e : BitVec 16) (since base length : Nat)
  | ats (slice : Nat) (e : BitVec 16) (since : Nat) (reported : Bool) (itag : Nat)
  | adminQueue (n : Nat)
  | program (id : Nat)
  | image (slot mask space : Nat) (image : ImageRead)
  | plan (items : List PlanItem)
  | group (g : Nat)
  | replay (stream : Nat)
  | port (n : Nat)
  | scan (n lane : Nat)
  | engineTest (n : Nat) (since : Nat)
  | stackTest (base length : Nat)
  | qpError (qpn : Nat)
  | awake (objs : List PowerObj) (result : Nat)
  | sliceReset (s report : Nat) (since : Option Nat)
  | sliceDestroy (s report : Nat) (since : Option Nat)
  | mgmtKey (slot dir position : Nat) (key : WrappedKey)
  deriving DecidableEq, Repr

/-! ## Fabric and accelerator ports -/

/-- The registers of a physical fabric port (Table 7.1, Table 16.3); `live` is the configuration in force (R242). -/
structure FabRegs where
  cfg : U32
  live : U32
  threshA : U64
  threshB : U64
  asym : U32
  pcp : U64
  dscp : U64
  udpPort : Nat
  deriving DecidableEq, Repr

/-- A packet queued at a logical port's scheduler (R283): its VC, class, level-2 queue (slice, or none for the
transit queue of the VC), the moment it was queued, the queue pair that built it, whether it is its PSN's first
transmission (R292, R315), and for an ACK the moment of acceptance from which ACK_DELAY counts (Table 3.7). -/
structure EgressPkt where
  p : Packet
  vc : Nat
  tc : Nat
  slice : Option Nat
  since : Nat
  qpn : Nat
  firstTx : Bool
  ackAt : Option Nat
  deriving DecidableEq, Repr

/-- One scheduled queue's tags (R285). -/
structure Tags where
  s : Nat
  f : Nat
  deriving DecidableEq, Repr

/-- Flits kept in the replay buffer (R250): `n` of them from a sequence number on, sent one after another from `at_` on, `gap` apart.
Link times are in units of 2^-10 ns. -/
structure ReplayRun where
  seq : BitVec 16
  n : Nat
  at_ : Nat
  gap : Nat
  deriving DecidableEq, Repr

/-- A packet in transit whose egress started as its header was routed (R272): the port that it leaves by, or 64 where it is lost, its
header, and how many of its bytes have not left. -/
structure Forward where
  port : Nat
  hdr : BitVec 128
  left : Nat
  deriving DecidableEq, Repr

/-- A logical port: link layer (R245 to R259), scheduler (R283 to R287) and gates (R318 to R323). Number 64 + a holds the ZAL
link of accelerator port a (R372). `narrowSince` is set while in NARROW; `offVc` and `offAll` are the two causes of OFF, or of
XOFF, that this end has signalled (R258, R278, R279), with the time of the last FLOW flit and of each XOFF; `laneErrors` holds
the times of each lane's uncorrectable codewords of the last millisecond (R254).
`txAt` is the end of the last flit sent and `openFlit` the VC and the bytes of one that its stream has not filled (R247);
`replayTill` is the end of a replay under way; `heldCtl` is what waits while the port may send no flit, each with the bytes of its stream (R255, R492); `leaving` are
bytes of frames that leave the ingress allocation at a moment: priority, bytes, moment (R261, R279); `withdrew` are the destinations
withdrawn from the peer (R269, R270).
`lastRx` is the last moment at which the link sent or received anything but IDLE (R490). -/
structure FPort where
  up : Bool
  training : Bool
  width : Nat
  failedLanes : BitVec 16
  narrowSince : Option Nat
  scanLane : Option Nat
  rtt : Nat
  txSeq : BitVec 16
  rxSeq : BitVec 16
  txAt : Nat
  openFlit : Option (Nat × Nat)
  replay : List ReplayRun
  awaiting : Option (BitVec 16)
  /-- Flits that were discarded under R249 and that the replay has still to bring: flits within a replay (R308). -/
  missed : Nat
  awaitDue : Nat
  replayTill : Nat
  heldCtl : List (Out × Nat)
  peerOff : BitVec 7
  offVc : BitVec 8
  offAll : Bool
  flowAt : Nat
  xoffAt : Tbl Nat
  /-- Bytes of each VC in the ingress allocation (or of each priority, on Ethernet). -/
  occupancy : List Nat
  /-- The part of a packet received so far on each VC, and the packets of each VC that are being forwarded. -/
  partials : Tbl (List Byte)
  forwarding : Tbl (List Forward)
  leaving : List (Nat × Nat × Nat)
  laneErrors : Tbl (List Nat)
  queue : List EgressPkt
  v1 : Nat
  tags1 : Tbl Tags
  v2 : Tbl Nat
  tags2 : Tbl Tags
  pfc : Tbl Nat
  gateActive : List U64
  gateBase : Nat
  gateCycle : Nat
  gatePending : Option (List U64 × Nat × Nat × Nat)
  gateEn : Bool
  tcWeight : U64
  transitWeight : Nat
  peerState : Nat
  peerHops : Nat
  peerRoot : Nat
  lastTimeRx : FracNs
  lastTimeTx : FracNs
  lastTimeAt : Option Nat
  retrains : Nat
  /-- The moment of the next retraining that triage ordered (R425). -/
  retrainDue : Option Nat
  parkAt : Option Nat
  parkTxOff : Bool
  lastRx : Nat
  withdrawn : List (Nat × Nat)
  withdrew : List (Nat × Nat)
  /-- MAC and IPv6 address of the port in Ethernet mode (R276). -/
  mac : BitVec 48
  ip : BitVec 128
  deriving DecidableEq, Repr

/-- A non-posted request outstanding at a host or accelerator port: what it reads for (R380, Table 10.10). -/
inductive PortUse where
  | respRead (qpn : Nat) (p : Packet) (index : Nat)
  | respAtomic (qpn : Nat) (p : Packet)
  | collInput (group run dst : Nat)
  | moeTable (group run off : Nat)
  | moeRow (group run : Nat) (ticket : MoeTicket) (row tick : List (Nat × Nat × Nat))
  /-- Read for work of a slice that has failed or that a reset has removed: what returns is discarded (R73, R340). -/
  | dropped (slice : Nat)
  /-- A read through BAR4 of `len` bytes, of which the port serves the first ones (R351, R353). -/
  | bar (len : Nat)
  deriving DecidableEq, Repr

/-- A read or atomic at a port, outstanding or waiting for its turn: the physical pieces it reads; `got` and `bad` are what split
completions have brought so far (R373). `kind` is 0 for a read, 1 for FetchAdd, 2 for CAS, with the operand bytes and their EP
(R361, R398); `qpn` is the queue pair it serves; `seq` its number among the adapter's reads (R369). -/
structure PortRead where
  port : Nat
  tag : Nat
  space : Nat
  addr : Nat
  length : Nat
  use : PortUse
  tokens : List Nat
  pieces : List (Nat × Nat)
  got : List Byte
  bad : Bool
  kind : Nat
  operand : List Byte
  ep : Bool
  ns : Bool
  slice : Nat
  pasid : Option Nat
  qpn : Option Nat
  seq : Nat
  deriving DecidableEq, Repr

/-- A read of work entries whose queue has given it up: what returns is discarded. -/
structure StaleRead where
  slice : Nat
  qpn : Nat
  rq : Bool
  first : U32
  count : Nat
  ring : Ring
  seq : Nat
  deriving DecidableEq, Repr

/-- A read through BAR4 that waits for earlier writes, with the target and the address of its arrival (R352, R357). -/
structure BarRead where
  target : Nat
  addr : Nat
  len : Nat
  deriving DecidableEq, Repr

/-- One TLP of a port's write log (R363); `token` is the holder that its transmission ends (R142), `owner` the entry that owns
the transfer: of the receive queue, index (R370). The PASID is that of the moment at which the write became due (R330); `lost` marks a
write that was in the log when the link was lost, which no acknowledgement ends (R363). A write of no bytes stands for one that
HOST_RESUME has discarded and that the link has still to acknowledge (R370). -/
structure LoggedWrite where
  space : Nat
  addr : Nat
  data : List Byte
  poison : Bool
  record : Bool
  ro : Bool
  slice : Nat
  qpn : Option Nat
  psn : Option U32
  owner : Option (Bool × U32)
  token : Option Nat
  ns : Bool
  pasid : Option Nat
  lost : Bool
  deriving DecidableEq, Repr

/-- The host port (Tables 10.3, 10.4) or an accelerator port (Table 10.7). `queued` are writes due at the port that
wait for a free place in the log or for the link (R363, R366). -/
structure IoPort where
  up : Bool
  width : Nat
  cfg : U32
  /-- The configuration in force (R371). -/
  live : U32
  dbBase : U64
  held : Bool
  fenced : Bool
  /-- The moment since which the port has been closed, while its link is down or it is fenced (R366). -/
  closedAt : Nat
  lossPending : Option Nat
  /-- The entries that own transfers abandoned at a reset: queue pair, receive queue, index. -/
  lostOwners : List (Nat × Bool × U32)
  /-- Payload transfers abandoned at a reset. -/
  lostCount : Nat
  fencedCounts : Option (Nat × Nat × Nat)
  log : List LoggedWrite
  queued : List LoggedWrite
  nextTag : Nat
  parkAt : Option Nat
  parkTxOff : Bool
  /-- Reads and atomics that wait for a tag, for the link, or for an earlier write (R357, R363, R378). -/
  reads : List PortRead
  /-- Completions of the accelerator's own requests that wait for their virtual channel (R372). -/
  answers : List Out
  /-- MSI-X vectors to be signalled once the host port is open (R366, R424). -/
  vectors : List Nat
  /-- Where the image places the accelerator's memory below the port, and the BARs of its endpoint (R374). -/
  memBase : Nat
  bars : List Nat
  deriving DecidableEq, Repr

/-! ## Engines, stacks, power -/

/-- What an engine is doing besides its power state (Table 16.12). -/
inductive EngineMode where
  | service
  | quiescing
  | selfTest
  | failed
  deriving DecidableEq, Repr

/-- Power states (Table 15.3). -/
inductive PState where
  | active
  | standby
  | meringue
  | off
  deriving DecidableEq, Repr

/-- A power-managed object's state and policy (R490, R491): `idleSince` while it has no work, `wakeDue` while its
Soufflé runs. -/
structure Power where
  st : PState
  deepest : PState
  tStandby : Nat
  tMeringue : Nat
  idleSince : Nat
  wakeDue : Option Nat
  deriving DecidableEq, Repr

/-- A transform engine (R153): its seed (R171) and mode. -/
structure Engine where
  seed : U64
  mode : EngineMode
  quiesceSince : Nat
  deriving DecidableEq, Repr

/-- A Millefeuille stack's logic die (Table 16.13). -/
structure Stack where
  temp : Nat
  refresh : Nat
  poisoned : Nat
  deriving DecidableEq, Repr

/-! ## Congestion, histograms, watermarks, time, keys, error banks -/

/-- A shaper (R289): its bucket in bytes × 1,000 at time `at_`. -/
structure Shaper where
  rate : Nat
  burst : Nat
  tokens : Nat
  at_ : Nat
  deriving DecidableEq, Repr

/-- A histogram monitor (R303, R304). -/
structure Monitor where
  owner : Option Nat
  kind : Nat
  object : Nat
  tc : Nat
  log : Bool
  step : Nat
  depth : List U32
  delay : List U32
  peakDepth : Nat
  peakDelay : Nat
  deriving DecidableEq, Repr

/-- A watermark entry (Table 14.12, Table 12.14). `last` is the level last compared. -/
structure Watermark where
  level : Nat
  peak : Nat
  count : Nat
  armed : Bool
  latched : Bool
  kind : Nat
  object : Nat
  last : Nat
  deriving DecidableEq, Repr

/-- The states of fabric time (Table 8.7). -/
inductive TimeState where
  | free
  | acquiring
  | locked
  | holdover
  deriving DecidableEq, Repr

/-- The time unit (R306 to R313). `time` counts 2^-16 ns; `trim` is the servo's correction in 2^-16 ns per ns. -/
structure TimeUnit where
  time : Nat
  trim : Int
  cfg : U32
  st : TimeState
  hops : Nat
  root : Nat
  lastOffset : Int
  good : Nat
  following : Nat
  lastSync : Nat
  ppsTs : Nat
  ppsLast : Option Nat
  latch : Option Nat
  latchReads : Nat
  depthWarned : Bool
  /-- The moment of the latest Sync of the PTP port, and the interval from the one before (R314). -/
  syncAt : Option Nat
  syncGap : Nat
  /-- Timestamp queues that hold instants of PTP event messages which the control firmware has not read (R316). -/
  ptpHeld : List Nat
  /-- The moment at which PPS_OUT falls, while it is high (R313). -/
  ppsFall : Option Nat
  deriving DecidableEq, Repr

/-- A fabric key (R434). -/
structure FabKey where
  key : BitVec 256
  nonce : U64
  serial : U32
  deriving DecidableEq, Repr

/-- A key slot (Table 13.3). -/
structure KeySlot where
  owner : Nat
  rx : Bool
  cur : Option FabKey
  next : Option FabKey
  prev : Option (FabKey × Nat)
  pkts : Nat
  bytes : Nat
  stoppedSince : Option Nat
  /-- KEY_WAIT has passed since the slot stopped. -/
  waitOver : Bool
  failsSince : Nat
  lastFailEvent : Option Nat
  keyHa : Bool
  deriving DecidableEq, Repr

/-- The security island (R430, R448 to R453). `bank` is the running bank; `measures` are blocks 1 to 6 of Table 13.6: five digests, the
running bank and the minimum SVN; `attestKey` says
that the key store holds the attestation key, and `handshakes` are sessions whose key exchange has not finished. -/
structure Security where
  selftestOk : Bool
  zeroised : Bool
  serviceKeys : List (Nat × BitVec 256)
  attestKey : Bool
  sessions : List Nat
  handshakes : List Nat
  measures : List Nat
  bank : Nat
  unlocked : Bool
  mgmtReset : Bool
  deriving DecidableEq, Repr

/-- An error bank (Tables 12.9, 12.10). -/
structure ErrBank where
  v : Bool
  severity : Nat
  slice : Option Nat
  code : Nat
  time : Nat
  log0 : Nat
  log1 : Nat
  log2 : Nat
  nextV : Bool
  nextSeverity : Nat
  nextCount : Nat
  deriving DecidableEq, Repr

/-- Where the adapter stands between power and service (R497, R498, R522). -/
inductive Phase where
  | held
  | booting
  | perstHeld
  | running
  | powerLoss
  | recovery
  deriving DecidableEq, Repr

/-- A packet held in a transport pipeline's miss buffer, in order of arrival (R78, R93, R115, R126): it waits for a
context, for a window entry, for a walk of a page, or for the descriptor of its message. -/
inductive MissWait where
  | context
  | window (index : Nat)
  | walk (space page : Nat) (acc : BitVec 3) (window : Nat)
  | descriptor
  deriving DecidableEq, Repr

/-- `since` is the fabric time at which it arrived (R292, R315). -/
structure Parked where
  qpn : Nat
  link : Nat
  p : Packet
  why : MissWait
  since : Nat
  deriving DecidableEq, Repr

/-- A packet that found no eligible adaptive port and waits out ESC_WAIT (R267); a packet in transit waits in the ingress
allocation of the port and VC `from_` that it came by (R262). -/
structure EscWaiting where
  id : Nat
  e : EgressPkt
  since : Nat
  from_ : Option (Nat × Nat)
  deriving DecidableEq, Repr

/-- An accumulate that its stack has accepted and not committed (R214). -/
structure Accum where
  qpn : Nat
  psn : U32
  addr : Nat
  fp32 : Bool
  data : List Byte
  poisoned : Bool
  token : Nat
  deriving DecidableEq, Repr

/-- The routing registers and tables (R263 to R268, R277, Table 16.3). Route-table keys are the table indices. -/
structure Routing where
  g : Nat
  gActive : Nat
  selfEpid : Nat
  escWait : Nat
  nmBias : Nat
  floodHops : Nat
  vcPorts : Tbl U64
  bank : Bool
  swaps : U32
  groupA : Tbl (BitVec 256)
  groupB : Tbl (BitVec 256)
  memberA : Tbl (BitVec 256)
  memberB : Tbl (BitVec 256)
  routeSets : Tbl (BitVec 128)
  epMap : Tbl U32
  neigh : Tbl NeighP
  lastPort : Nat
  deriving DecidableEq, Repr

/-- The translation units' shared state, tagged by slice (R122 to R136, R142). Roots are keyed slice × 16 + space; `ptrs` are the walk
caches (R124), `priAlloc` the Page Requests that host software lets the adapter have outstanding (R149). -/
structure Xlt where
  roots : Tbl Nat
  cache : List Trans
  ptrs : List WalkPtr
  walks : List Walk
  faults : List Fault1
  /-- The faults of R135 that wait for a free place, oldest first. -/
  waiting : List WaitingFault
  failed : List FailedRec
  holders : List Holder
  priAlloc : Nat
  deriving DecidableEq, Repr

/-- The adapter: everything but the queue of commands and the always-on domain. `timedOut` are the commands that replied TIMEOUT, whose later
commit or reply the interpreter refuses (R477); `freeCtr` is the model's own field, the argument of
the free values of Config.lean, which the step advances. -/
structure Dev where
  now : Nat
  ready : Bool
  dataStopped : Bool
  routeHa : Bool
  evtHa : Bool
  grade : Nat
  cfgVer : Nat
  cores : BitVec 6
  coreHungAt : Tbl Nat
  coreTimeouts : Tbl Nat
  triage : Tbl (List EventRec)
  /-- The Millefeuille stacks: bytes that are not zero, and the poisoned 32-byte lines. -/
  mem : List Host.Cell
  poison : List Nat
  out : List Out
  freeCtr : Nat
  timedOut : List (Nat × U32)
  counters : Tbl Nat
  slices : Tbl Slice
  pushPages : Tbl PushPage
  qps : Tbl Qp
  gens : Tbl (BitVec 8)
  qpFreed : Tbl Nat
  cqs : Tbl Cq
  windows : Tbl Window
  xlt : Xlt
  miss : Tbl (List Parked)
  programs : List Program
  items : List Item
  /-- Range locks (R192): a 128-byte line and the key of the item that holds it, and the lines asked for, in order. -/
  locks : List (Nat × Nat)
  lockQ : List (Nat × Nat)
  accums : List Accum
  engines : Tbl Engine
  groups : Tbl Group
  streams : Tbl Stream
  seqMsgs : List SeqMsg
  triggers : Tbl Trigger
  fabRegs : Tbl FabRegs
  ports : Tbl FPort
  routing : Routing
  escWaiting : List EscWaiting
  shapers : Tbl Shaper
  profiles : Tbl CcProfile
  ceThresh : Nat
  rtoBase : Nat
  stamps : Tbl Nat
  monitors : Tbl Monitor
  lastSample : Option Nat
  watermarks : Tbl Watermark
  time : TimeUnit
  host : IoPort
  /-- PASID is enabled at the host port (R379). -/
  pasidEn : Bool
  winTarget : Nat
  winBase : Nat
  accs : Tbl IoPort
  portReads : List PortRead
  /-- The number of the next read that the adapter issues. -/
  readNo : Nat
  /-- The number of the next doorbell or push that moves a producer index (R207). -/
  postNo : Nat
  staleReads : List StaleRead
  /-- Reads through BAR4 that wait, oldest first. -/
  barReads : List BarRead
  adminQ : Tbl AdminQ
  started : List Started
  waits : List (Cmd × Nat × WaitOn)
  eventQ : Tbl EventQ
  keySlots : Tbl KeySlot
  /-- The highest KEY_SERIAL installed in each key slot since power-on (R434). -/
  keySerials : Tbl Nat
  sec : Security
  errBanks : Tbl ErrBank
  dies : Tbl Stack
  zeroing : List (Nat × Nat)
  scrubHours : Nat
  rowThresh : Nat
  /-- Corrections in each DRAM row since `scrubSince`, the start of the running scrub interval (Table 11.2). -/
  rowCounts : Tbl Nat
  scrubSince : Nat
  power : Tbl Power
  wakes : List Nat
  transitReset : Bool
  /-- Reference clocks that have stopped (R525): of the accelerator ports or not, and the group. -/
  refLost : List (Bool × Nat)
  deriving DecidableEq, Repr

/-- The always-on domain and what stands around it (R483, R496): where the adapter is between power and service; the PERST# pin
(`perst`: low); the flash, its two banks A and B, and its state record, which names a bank unless `pendingBank` does, with the minimum
SVN (R449 to R451, R528); whether boot has passed a bank since the last reset; the thermal pins (R531), asserted or not; the causes of a
loss of power that have been reported (R532); and the JTAG port (R529: TRST# low, the instruction loaded). -/
structure Ao where
  phase : Phase
  perst : Bool
  banks : List BankImage
  bank : Nat
  pendingBank : Option Nat
  minSvn : List Nat
  booted : Bool
  thermTrip : Bool
  thermAlert : Bool
  causes : List String
  trst : Bool
  jtagIr : Nat
  deriving DecidableEq, Repr

/-- The state of the machine: the commands that wait, oldest first, the always-on domain, and the rest of the adapter. -/
structure State where
  pending : List Instr
  ao : Ao
  dev : Dev
  deriving DecidableEq, Repr

/-- Reasons the machine stops with a fault. No command of this model raises one: every error of the manual is
reported by a status, an event, a counter or a latch and the adapter goes on (safe: an empty type of stops). -/
inductive Fault where
  /-- Never raised; the type needs a reason to name. Safe. -/
  | none
  deriving DecidableEq, Repr

/-- Reasons a command has no meaning. -/
inductive Refusal where
  /-- Raised by an arm of exec for a command that has no meaning yet. Safe: the run stops there. -/
  | notModelled (mnemonic : String)
  deriving DecidableEq, Repr

/-! ## Reset -/

/-- Reset values of a physical fabric port's registers (Table 7.1, Table 16.3, Table 16.9). -/
def FabRegs.reset : FabRegs where
  cfg := 0
  live := 0
  threshA := 0x1818181818181818
  threshB := 0x1818181818181818
  asym := 0
  pcp := 0x0706050403020100
  dscp := 0
  udpPort := 0xB7E5

/-- A logical port that is down, with its scheduler's reset weights (Table 16.3). -/
def FPort.reset : FPort where
  up := false
  training := false
  width := 0
  failedLanes := 0
  narrowSince := none
  scanLane := none
  rtt := 0
  txSeq := 0
  rxSeq := 0
  txAt := 0
  openFlit := none
  replay := []
  awaiting := none
  missed := 0
  awaitDue := 0
  replayTill := 0
  heldCtl := []
  peerOff := 0
  offVc := 0
  offAll := false
  flowAt := 0
  xoffAt := []
  occupancy := [0, 0, 0, 0, 0, 0, 0, 0]
  partials := []
  forwarding := []
  leaving := []
  laneErrors := []
  queue := []
  v1 := 0
  tags1 := []
  v2 := []
  tags2 := []
  pfc := []
  gateActive := []
  gateBase := 0
  gateCycle := 0
  gatePending := none
  gateEn := false
  tcWeight := 0x101010101010
  transitWeight := 1024
  peerState := 0
  peerHops := 0
  peerRoot := 0
  lastTimeRx := 0
  lastTimeTx := 0
  lastTimeAt := none
  retrains := 0
  retrainDue := none
  parkAt := none
  parkTxOff := false
  lastRx := 0
  withdrawn := []
  withdrew := []
  mac := 0
  ip := 0

/-- A host or accelerator port after reset (Tables 10.4, 10.7): its link is down; PCIE_GEN reads 6. -/
def IoPort.reset : IoPort where
  up := false
  width := 0
  cfg := 0x00600000
  live := 0x00600000
  dbBase := 0
  held := false
  fenced := false
  closedAt := 0
  lossPending := none
  lostOwners := []
  lostCount := 0
  fencedCounts := none
  log := []
  queued := []
  nextTag := 0
  parkAt := none
  parkTxOff := false
  reads := []
  answers := []
  vectors := []
  memBase := 0
  bars := []

/-- A FREE slice (Tables 9.2 to 9.4), with the parameter defaults of Table 4.8, R297, R298, R442 and R446. -/
def Slice.free : Slice where
  st := .free
  latCrit := false
  ccHa := false
  xltHa := false
  keyHa := false
  redHa := false
  xltHaNext := none
  redHaNext := none
  pasid := 0
  resetCount := 0
  accMask := 0
  classMask := 1
  routeSet := 0
  bwWeight := 1024
  limits := [0, 0, 0, 0, 0, 0, 0, 0, 0, 0, 0, 0, 0]
  pend := [false, false, false, false, false, false, false, false, false, false, false, false, false]
  faultTimeout := 5000000
  pageWaitBase := 10000
  pageWaitLimit := 100000000
  ratePoll := 10000
  feedbackInterval := 10000
  keyWait := 10000000
  authFailLimit := 4
  extents := []
  removing := []
  finishing := []
  fault := none
  counts := ⟨0, 0, 0, 0, 0, 0, 0⟩
  meter := ⟨0, 0, 0, 0, 0, 0, 0⟩
  kek := none
  epoch := 0
  faultQ := none
  crumbsFrom := none
  feedbackQ := none
  fbSince := 0
  priStopped := false

/-- An admin queue that is not enabled (Table 14.2). -/
def AdminQ.reset : AdminQ where
  en := false
  lg := 0
  space := 0
  vector := 0
  pasid := 0
  pasidV := false
  cbase := 0
  rbase := 0
  cprod := 0
  cnext := 0
  rprod := 0
  rcons := 0
  armed := false
  waiting := []
  owed := []
  rereads := 0
  rereadDue := none
  stopped := false
  closing := false
  reading := none

/-- An event queue before EVQ_CREATE (Table 16.7). -/
def EventQ.reset : EventQ where
  en := false
  ring := ⟨0, 0, 0, 0, 0⟩
  vector := 0
  armed := false
  hold := []
  seq := 0
  dropped := 0
  firstDrop := 0
  dropMask := 0

/-- An engine after power-on (R171, R497). -/
def Engine.reset : Engine where
  seed := 0
  mode := .service
  quiesceSince := 0

/-- A stack after reset (Table 16.13). -/
def Stack.reset : Stack where
  temp := 0
  refresh := 0
  poisoned := 0

/-- A disabled shaper (R288). -/
def Shaper.reset : Shaper where
  rate := 0
  burst := 0
  tokens := 0
  at_ := 0

/-- A congestion profile at its defaults (Table 8.1). -/
def CcProfile.reset : CcProfile where
  target := 5000
  ai := 8192
  beta := 819
  maxMd := 512
  wMin := 256
  wInit := 65536
  wMax := 4194304
  paceBurst := 16384

/-- An error bank with nothing latched (Tables 12.9, 12.10). -/
def ErrBank.reset : ErrBank where
  v := false
  severity := 0
  slice := none
  code := 0
  time := 0
  log0 := 0
  log1 := 0
  log2 := 0
  nextV := false
  nextSeverity := 0
  nextCount := 0

/-- The time unit after power-on (Table 8.6, Table 16.10). -/
def TimeUnit.reset : TimeUnit where
  time := 0
  trim := 0
  cfg := 0
  st := .free
  hops := 0xFF
  root := 0
  lastOffset := 0
  good := 0
  following := 0
  lastSync := 0
  ppsTs := 0
  ppsLast := none
  latch := none
  latchReads := 0
  depthWarned := false
  syncAt := none
  syncGap := 1000000000
  ptpHeld := []
  ppsFall := none

/-- The security island before its self-test (Table 16.14). -/
def Security.reset : Security where
  selftestOk := false
  zeroised := false
  serviceKeys := []
  attestKey := false
  sessions := []
  handshakes := []
  measures := []
  bank := 0
  unlocked := false
  mgmtReset := false

/-- The routing block after reset (Table 16.3). -/
def Routing.reset : Routing where
  g := 9
  gActive := 9
  selfEpid := 0
  escWait := 1000
  nmBias := 16384
  floodHops := 2
  vcPorts := []
  bank := false
  swaps := 0
  groupA := []
  groupB := []
  memberA := []
  memberB := []
  routeSets := []
  epMap := []
  neigh := []
  lastPort := 0

/-- No translation state. -/
def Xlt.reset : Xlt where
  roots := []
  cache := []
  ptrs := []
  walks := []
  faults := []
  waiting := []
  failed := []
  holders := []
  priAlloc := 512

/-- The adapter right after reset: every register at its reset value, every object absent, every link down, the
stacks written with zero (R497). The boot sequence has not run (GEN_STATUS.READY is 0). Until an image is applied GRADE is 0, the
DC grade: the manual gives a grade only from the image (Table 16.4, DESIGN CHOICE, log 161). -/
def Dev.reset : Dev where
  now := 0
  ready := false
  dataStopped := false
  routeHa := false
  evtHa := false
  grade := 0
  cfgVer := 0
  cores := 0
  coreHungAt := []
  coreTimeouts := []
  triage := []
  mem := []
  poison := []
  out := []
  freeCtr := 0
  timedOut := []
  counters := []
  slices := []
  pushPages := []
  qps := []
  gens := []
  qpFreed := []
  cqs := []
  windows := []
  xlt := Xlt.reset
  miss := []
  programs := []
  items := []
  locks := []
  lockQ := []
  accums := []
  engines := []
  groups := []
  streams := []
  seqMsgs := []
  triggers := []
  fabRegs := []
  ports := []
  routing := Routing.reset
  escWaiting := []
  shapers := []
  profiles := []
  ceThresh := 65536
  rtoBase := 16000
  stamps := []
  monitors := []
  lastSample := none
  watermarks := []
  time := TimeUnit.reset
  host := { IoPort.reset with cfg := 0, live := 0 }
  pasidEn := true
  winTarget := 0
  winBase := 0
  accs := []
  portReads := []
  readNo := 0
  postNo := 0
  staleReads := []
  barReads := []
  adminQ := []
  started := []
  waits := []
  eventQ := []
  keySlots := []
  keySerials := []
  sec := Security.reset
  errBanks := []
  dies := []
  zeroing := []
  scrubHours := 24
  rowThresh := 8
  rowCounts := []
  scrubSince := 0
  power := []
  wakes := []
  transitReset := false
  refLost := []

/-- The always-on domain before power: POR# is low, the pins are high, and the flash has not been read. -/
def Ao.reset : Ao where
  phase := .held
  perst := false
  banks := []
  bank := 0
  pendingBank := none
  minSvn := [0, 0, 0, 0]
  booted := false
  thermTrip := false
  thermAlert := false
  causes := []
  trst := false
  jtagIr := 0

/-- The machine right after reset, with no command waiting. -/
def State.reset : State where
  pending := []
  ao := Ao.reset
  dev := Dev.reset

end Sys2Proof.Machine
end

