-- ==== Sys2Proof/Machine/Table.lean ====
section
/-!
DEFINITION. Sys2Proof/Machine/Table.lean: tables of objects by number and the byte memory of the stacks, both kept
in one canonical form, and the bit-field, byte-order and CRC helpers.
-/
namespace Sys2Proof.Machine

/-! ## Tables -/

/-- The object at number `k`, if the table lists one. -/
def tget {α : Type} (t : Tbl α) (k : Nat) : Option α :=
  match t with
  | [] => none
  | (i, v) :: r => if i = k then some v else tget r k

/-- The table with object `v` at number `k`; the keys stay strictly rising. -/
def tset {α : Type} (t : Tbl α) (k : Nat) (v : α) : Tbl α :=
  match t with
  | [] => [(k, v)]
  | (i, w) :: r => if k < i then (k, v) :: (i, w) :: r else if k = i then (k, v) :: r else (i, w) :: tset r k v

/-- The table without number `k`. -/
def tdel {α : Type} (t : Tbl α) (k : Nat) : Tbl α :=
  match t with
  | [] => []
  | (i, w) :: r => if i = k then tdel r k else (i, w) :: tdel r k

/-- The object at `k`, or `d` where the table lists none. -/
def tgetD {α : Type} (t : Tbl α) (k : Nat) (d : α) : α := (tget t k).getD d

/-- Every object with its number changed by `f`. -/
def tmap {α : Type} (t : Tbl α) (f : Nat → α → α) : Tbl α := t.map fun p => (p.1, f p.1 p.2)

/-- The objects that `f` keeps. -/
def tfilter {α : Type} (t : Tbl α) (f : Nat → α → Bool) : Tbl α := t.filter fun p => f p.1 p.2

/-- The keys are strictly rising. -/
def twf {α : Type} : Tbl α → Bool
  | [] => true
  | (_, _) :: [] => true
  | (i, _) :: (j, w) :: r => decide (i < j) && twf ((j, w) :: r)

/-! ## The memory of the stacks: an unlisted byte reads as zero, as R497 writes it -/

/-- The byte at Millefeuille physical address `a`. -/
def memGet (m : List Host.Cell) (a : Nat) : Byte := tgetD m a 0

/-- The memory with byte `b` at `a`; a byte of zero is not listed. -/
def memSet (m : List Host.Cell) (a : Nat) (b : Byte) : List Host.Cell :=
  if b = 0 then tdel m a else tset m a b

/-- Bytes written from address `a` upwards. -/
def memWrite (m : List Host.Cell) (a : Nat) (bs : List Byte) : List Host.Cell :=
  match bs with
  | [] => m
  | b :: r => memWrite (memSet m a b) (a + 1) r

/-- `n` bytes read from address `a` upwards. -/
def memRead (m : List Host.Cell) (a : Nat) (n : Nat) : List Byte :=
  match n with
  | 0 => []
  | k + 1 => memGet m a :: memRead m (a + 1) k

/-- The canonical form: addresses strictly rising and no byte that is zero. -/
def Memory.wf (m : List Host.Cell) : Bool := twf m && m.all fun c => c.2 != 0

/-- The memory without the bytes of `[a, a + n)`, which then read as zero. -/
def memZero (m : List Host.Cell) (a n : Nat) : List Host.Cell :=
  m.filter fun c => !(decide (a ≤ c.1) && decide (c.1 < a + n))

/-! ## Bits and bytes (R5: little-endian) -/

/-- Bits `hi` to `lo` of a number. -/
def bitsN (x hi lo : Nat) : Nat := (x >>> lo) % 2 ^ (hi + 1 - lo)

/-- Bits `hi` to `lo` of a word, as a number. -/
def fld {n : Nat} (x : BitVec n) (hi lo : Nat) : Nat := bitsN x.toNat hi lo

/-- Bit `i` of a word. -/
def bit {n : Nat} (x : BitVec n) (i : Nat) : Bool := x.getLsbD i

/-- The little-endian value of a list of bytes. -/
def leNat : List Byte → Nat
  | [] => 0
  | b :: r => b.toNat + 256 * leNat r

/-- `k` bytes of a value, least significant first. -/
def natLe (v : Nat) : Nat → List Byte
  | 0 => []
  | k + 1 => BitVec.ofNat 8 v :: natLe (v / 256) k

/-- Low `n` bits of `v` as a number, for packing a field. -/
def low (v n : Nat) : Nat := v % 2 ^ n

/-- `a` rounded up to a multiple of `k`. -/
def roundUp (a k : Nat) : Nat := (a + (k - 1)) / k * k

/-- `a ÷ k` rounded up. -/
def ceilDiv (a k : Nat) : Nat := (a + (k - 1)) / k

/-- A Bool as a bit. -/
def b2n (b : Bool) : Nat := if b then 1 else 0

/-- A count that saturates at `2 ^ bits - 1`. -/
def sat (bits v : Nat) : Nat := Nat.min v (2 ^ bits - 1)

/-- The byte list padded with zeros, or cut, to `n` bytes. -/
def padTo (bs : List Byte) (n : Nat) : List Byte := bs.take n ++ List.replicate (n - bs.length) 0

/-! ## Glaze and FCRC -/

/-- One bit of the reflected CRC-64 of R395: the polynomial 0x42F0_E1EB_A9EA_3693 with its bits reversed. -/
def crc64Bit (c : U64) : U64 :=
  if c.getLsbD 0 then (c >>> 1) ^^^ 0xC96C5795D7870F42 else c >>> 1

/-- One byte of the CRC-64. -/
def crc64Byte (c : U64) (b : Byte) : U64 :=
  let x := c ^^^ (b.zeroExtend 64)
  crc64Bit (crc64Bit (crc64Bit (crc64Bit (crc64Bit (crc64Bit (crc64Bit (crc64Bit x)))))))

/-- Glaze (R395): reflected CRC-64, all ones first, inverted last. -/
def glaze (bs : List Byte) : U64 := (bs.foldl crc64Byte 0xFFFFFFFFFFFFFFFF) ^^^ 0xFFFFFFFFFFFFFFFF

/-- The constant of the poison Glaze (R396). -/
def poisonMark : U64 := 0x5A5A5A5A5A5A5A5A

/-- One bit of the CRC-24 of Table 7.3, most significant bit first. -/
def crc24Bit (c : BitVec 24) : BitVec 24 :=
  if c.getLsbD 23 then (c <<< 1) ^^^ 0x5D6DCB else c <<< 1

/-- One byte of the CRC-24. -/
def crc24Byte (c : BitVec 24) (b : Byte) : BitVec 24 :=
  let x := c ^^^ ((b.zeroExtend 24) <<< 16)
  crc24Bit (crc24Bit (crc24Bit (crc24Bit (crc24Bit (crc24Bit (crc24Bit (crc24Bit x)))))))

/-- FCRC (Table 7.3) over the flit's sequence number, its bytes and link-word bits 7:0. The table gives no bit order;
bytes enter most significant bit first and no final inversion (DESIGN CHOICE, log 12). -/
def fcrc (seq : BitVec 16) (bytes : List Byte) (vc padAt : Nat) : BitVec 24 :=
  (natLe seq.toNat 2 ++ bytes ++ [BitVec.ofNat 8 (vc * 32 + padAt)]).foldl crc24Byte 0xFFFFFF

/-- Where a Millefeuille physical address lies (R381): stack, channel, offset within the channel. -/
def smemMap (a : Nat) : Nat × Nat × Nat :=
  let b := a >>> 11
  let stack := (b ^^^ (b >>> 2) ^^^ (b >>> 4) ^^^ (b >>> 6)) &&& 3
  let l := ((b >>> 2) <<< 11) ||| (a &&& 0x7FF)
  let c := l >>> 7
  let chan := (c ^^^ (c >>> 4) ^^^ (c >>> 8)) &&& 15
  (stack, chan, ((c >>> 4) <<< 7) ||| (l &&& 0x7F))

/-- Stack × 16 + channel of an address, the number events and counters use (Table 12.12, Table 16.15). -/
def stackChan (a : Nat) : Nat := (smemMap a).1 * 16 + (smemMap a).2.1

/-- Bytes of Millefeuille (R381). -/
def smemBytes : Nat := 144000000000

/-- End of the context backing store (R390). -/
def backingEnd : Nat := 0x80000000

end Sys2Proof.Machine
end

