-- ==== Sys2Proof/Machine/Cipher.lean ====
section
/-!
DEFINITION. Sys2Proof/Machine/Cipher.lean: the algorithms that the manual names by their standards: AES-256 (FIPS 197), AES-256-GCM
(SP 800-38D, R437), AES-KW (SP 800-38F, R434), SHAKE256 and SHA3-384 (FIPS 202, R412, R453), and the CRC-32 of an Ethernet frame (R275).
Bytes are numbers below 256 here, in the order in which the standards take them.
-/
namespace Sys2Proof.Machine

/-- The values of bytes, and the bytes of values. -/
def vals (l : List Byte) : List Nat := l.map (·.toNat)
def ofVals (l : List Nat) : List Byte := l.map (BitVec.ofNat 8)

/-- The number that bytes spell, most significant first, and its bytes. -/
def beNum (l : List Nat) : Nat := l.foldl (fun n b => n * 256 + b) 0
def beBytes (n : Nat) : Nat → List Nat
  | 0 => []
  | k + 1 => n / 256 ^ k % 256 :: beBytes n k

/-- Two strings of equal length, bit by bit. -/
def xorList (a b : List Nat) : List Nat := List.zipWith (· ^^^ ·) a b

/-- The bytes in blocks of `n`, the last one filled with zeros. -/
def blocksOf (n : Nat) (l : List Nat) : List (List Nat) :=
  (List.range ((l.length + n - 1) / n)).map fun i =>
    let b := (l.drop (n * i)).take n
    b ++ List.replicate (n - b.length) 0

/-! ## AES-256 -/

/-- The substitution box and its inverse: entry `x` stands at bits 8x + 7 to 8x. -/
def sboxTable : Nat :=
  0x16BB54B00F2D99416842E6BF0D89A18CDF2855CEE9871E9B948ED9691198F8E19E1DC186B95735610EF6034866B53E708A8BBD4B1F74DDE8C6B4A61C2E2578BA08AE7A65EAF4566CA94ED58D6D37C8E779E4959162ACD3C25C2406490A3A32E0DB0B5EDE14B8EE4688902A22DC4F816073195D643D7EA7C41744975FEC130CCDD2F3FF1021DAB6BCF5389D928F40A351A89F3C507F02F94585334D43FBAAEFD0CF584C4A39BECB6A5BB1FC20ED00D153842FE329B3D63B52A05A6E1B1A2C830975B227EBE28012079A059618C323C7041531D871F1E5A534CCF73F362693FDB7C072A49CAFA2D4ADF04759FA7DC982CA76ABD7FE2B670130C56F6BF27B777C63
def unboxTable : Nat :=
  0x7D0C2155631469E126D677BA7E042B17619953833CBBEBC8B0F52AAE4D3BE0A0EF9CC9939F7AE52D0D4AB519A97F51605FEC8027591012B131C7078833A8DD1FF45ACD78FEC0DB9A2079D2C64B3E56FC1BBE18AA0E62B76F89C5291D711AF1476EDF751CE837F9E28535ADE72274AC9673E6B4F0CECFF297EADC674F4111913A6B8A130103BDAFC1020F3FCA8F1E2CD00645B3B80558E4F70AD3BC8C00ABD890849D8DA75746155EDAB9EDFD5048706C92B6655DCC5CA4D41698688664F6F87225D18B6D49A25B76B224D92866A12E084EC3FA420B954CEE3D23C2A632947B54CBE9DEC444438E3487FF2F9B8239E37CFBD7F3819EA340BF38A53630D56A0952

def subByte (x : Nat) : Nat := sboxTable >>> (8 * x) % 256
def unsubByte (x : Nat) : Nat := unboxTable >>> (8 * x) % 256

/-- Twice an element of the field of 256 elements. -/
def twice (x : Nat) : Nat := (2 * x % 256) ^^^ (x / 128 * 0x1B)

/-- MixColumns: each column times the fixed polynomial. Four times in a row it changes nothing. -/
def mixColumns : List Nat → List Nat
  | a :: b :: c :: d :: r =>
    let all := a ^^^ b ^^^ c ^^^ d
    (a ^^^ all ^^^ twice (a ^^^ b)) :: (b ^^^ all ^^^ twice (b ^^^ c)) :: (c ^^^ all ^^^ twice (c ^^^ d))
      :: (d ^^^ all ^^^ twice (d ^^^ a)) :: mixColumns r
  | _ => []

/-- ShiftRows moves byte 5i of the block, modulo 16, to place `i`, and its inverse byte 13i. -/
def shiftRows (st : List Nat) : List Nat := [0, 5, 10, 15, 4, 9, 14, 3, 8, 13, 2, 7, 12, 1, 6, 11].map fun i => st.getD i 0
def unshiftRows (st : List Nat) : List Nat := [0, 13, 10, 7, 4, 1, 14, 11, 8, 5, 2, 15, 12, 9, 6, 3].map fun i => st.getD i 0

/-- The words of the key schedule after the first eight; `w` are the eight before. -/
def keyWords : Nat → Nat → List (List Nat) → List (List Nat)
  | 0, _, _ => []
  | f + 1, i, w =>
    let t := w.getLastD []
    let t := if i % 8 = 0 then xorList ((t.drop 1 ++ t.take 1).map subByte) [2 ^ (i / 8 - 1), 0, 0, 0]
      else if i % 8 = 4 then t.map subByte else t
    let n := xorList (w.headD []) t
    n :: keyWords f (i + 1) (w.drop 1 ++ [n])

/-- The fifteen round keys. -/
def keySchedule (key : BitVec 256) : List (List Nat) :=
  let k := vals (natLe key.toNat 32)
  blocksOf 16 (k ++ (keyWords 52 8 (blocksOf 4 k)).flatten)

/-- The rounds of AES after the first key, the last one without MixColumns, and of its inverse, with the keys from the last one on. -/
def aesRounds : List (List Nat) → List Nat → List Nat
  | [], st => st
  | [k], st => xorList (shiftRows (st.map subByte)) k
  | k :: r, st => aesRounds r (xorList (mixColumns (shiftRows (st.map subByte))) k)
def aesUnrounds : List (List Nat) → List Nat → List Nat
  | [], st => st
  | [k], st => xorList ((unshiftRows st).map unsubByte) k
  | k :: r, st => aesUnrounds r (mixColumns (mixColumns (mixColumns (xorList ((unshiftRows st).map unsubByte) k))))

/-- AES-256 on one block of 16 bytes, and its inverse, with the key's schedule. -/
def aesBlock (ks : List (List Nat)) (st : List Nat) : List Nat := aesRounds (ks.drop 1) (xorList st (ks.headD []))
def aesUnblock (ks : List (List Nat)) (st : List Nat) : List Nat := aesUnrounds (ks.reverse.drop 1) (xorList st (ks.getLastD []))

/-- A block of the raw block service, whose byte 0 is the low byte of the number (R448, log 6). -/
def onBlock (f : List Nat → List Nat) (b : BitVec 128) : BitVec 128 :=
  BitVec.ofNat 128 (leNat (ofVals (f (vals (natLe b.toNat 16)))))
def aesEncrypt (key : BitVec 256) (b : BitVec 128) : BitVec 128 := onBlock (aesBlock (keySchedule key)) b
def aesDecrypt (key : BitVec 256) (b : BitVec 128) : BitVec 128 := onBlock (aesUnblock (keySchedule key)) b

/-! ## AES-256-GCM -/

/-- The product of two blocks in the field of GHASH. -/
def ghashMul (x y : Nat) : Nat :=
  ((List.range 128).foldl (fun (acc : Nat × Nat) i =>
    (if x.testBit (127 - i) then acc.1 ^^^ acc.2 else acc.1,
     if acc.2 % 2 = 1 then (acc.2 / 2) ^^^ (0xE1 <<< 120) else acc.2 / 2)) (0, y)).1

/-- GHASH of the additional data and the ciphertext, each filled to whole blocks, and of their lengths in bits. -/
def ghash (h : Nat) (aad c : List Nat) : Nat :=
  ((blocksOf 16 aad ++ blocksOf 16 c).map beNum ++ [8 * aad.length * 2 ^ 64 + 8 * c.length]).foldl (fun y b => ghashMul (y ^^^ b) h) 0

/-- The text under the counter blocks from 2 on: of the plaintext the ciphertext, and the other way round. -/
def gcmText (ks : List (List Nat)) (iv l : List Nat) : List Nat :=
  ((List.range ((l.length + 15) / 16)).flatMap fun i =>
    xorList ((l.drop (16 * i)).take 16) (aesBlock ks (iv ++ beBytes (i + 2) 4)))

/-- The 96-bit tag of a ciphertext. -/
def gcmTag (ks : List (List Nat)) (iv aad c : List Nat) : List Nat :=
  let h := beNum (aesBlock ks (List.replicate 16 0))
  (beBytes (ghash h aad c ^^^ beNum (aesBlock ks (iv ++ [0, 0, 0, 1]))) 16).take 12

/-! ## AES-KW -/

/-- One step of the unwrapping: the check block and the six registers, with step number `t` from 36 down to 1. -/
def unwrapStep (ks : List (List Nat)) (w : List (List Nat)) (t : Nat) : List (List Nat) :=
  let i := (t - 1) % 6 + 1
  let b := aesUnblock ks (xorList (w.getD 0 []) (beBytes t 8) ++ w.getD i [])
  (w.set 0 (b.take 8)).set i (b.drop 8)

/-- The 48 bytes that 56 wrapped bytes hold under a key-encryption key; none where the integrity check fails. -/
def unwrapKey (kek : BitVec 256) (l : List Byte) : Option (List Byte) :=
  let w := (List.range 36).foldl (fun w t => unwrapStep (keySchedule kek) w (36 - t)) (blocksOf 8 (vals l))
  if l.length = 56 ∧ w.getD 0 [] = List.replicate 8 0xA6 then some (ofVals (w.drop 1).flatten) else none

/-! ## Keccak -/

def roundConstants : List Nat :=
  [0x1, 0x8082, 0x800000000000808A, 0x8000000080008000, 0x808B, 0x80000001, 0x8000000080008081, 0x8000000000008009, 0x8A, 0x88,
   0x80008009, 0x8000000A, 0x8000808B, 0x800000000000008B, 0x8000000000008089, 0x8000000000008003, 0x8000000000008002,
   0x8000000000000080, 0x800A, 0x800000008000000A, 0x8000000080008081, 0x8000000000008080, 0x80000001, 0x8000000080008008]

/-- By how much each lane turns. -/
def laneTurns : List Nat := [0, 1, 62, 28, 27, 36, 44, 6, 55, 20, 3, 10, 43, 25, 39, 41, 45, 15, 21, 8, 18, 2, 61, 56, 14]

def turn64 (x n : Nat) : Nat := (x <<< n ||| x >>> (64 - n)) % 2 ^ 64

/-- One round on the 25 lanes, lane x + 5y: θ, ρ and π, χ, ι. -/
def keccakRound (a : List Nat) (rc : Nat) : List Nat :=
  let c := (List.range 5).map fun x => (List.range 5).foldl (fun n y => n ^^^ a.getD (x + 5 * y) 0) 0
  let a := (List.range 25).map fun i => a.getD i 0 ^^^ c.getD ((i + 4) % 5) 0 ^^^ turn64 (c.getD ((i + 1) % 5) 0) 1
  let b := (List.range 25).map fun i =>
    let j := (i % 5 + 3 * (i / 5)) % 5 + 5 * (i % 5)
    turn64 (a.getD j 0) (laneTurns.getD j 0)
  let chi := (List.range 25).map fun i =>
    let p := fun (d : Nat) => b.getD (i / 5 * 5 + (i % 5 + d) % 5) 0
    p 0 ^^^ ((2 ^ 64 - 1 - p 1) &&& p 2)
  chi.set 0 (chi.getD 0 0 ^^^ rc)

def keccak (a : List Nat) : List Nat := roundConstants.foldl keccakRound a

/-- The sponge with a rate of `r` bytes and the suffix `d` of its function: the first `n` bytes, with `n` at most `r`. -/
def sponge (r d n : Nat) (l : List Byte) : List Byte :=
  let m := vals l ++ [d]
  let m := blocksOf r m
  let m := m.dropLast ++ [(m.getLastD []).set (r - 1) ((m.getLastD []).getD (r - 1) 0 ^^^ 0x80)]
  let a := m.foldl (fun a b => keccak (List.zipWith (· ^^^ ·) a ((blocksOf 8 b).map (fun w => leNat (ofVals w)) ++ List.replicate (25 - r / 8) 0)))
    (List.replicate 25 0)
  (a.flatMap fun w => natLe w 8).take n

/-- SHAKE256 with 64 bytes, and SHA3-384. -/
def shake256 (l : List Byte) : List Byte := sponge 136 0x1F 64 l
def sha3 (l : List Byte) : List Byte := sponge 104 0x06 48 l

/-! ## The frame check sequence of Ethernet -/

/-- The CRC of IEEE 802.3 over bytes: bits low first, from all ones, inverted at the end. -/
def crc32 (l : List Byte) : Nat :=
  (l.foldl (fun n b => (List.range 8).foldl (fun n _ => if n % 2 = 1 then n / 2 ^^^ 0xEDB88320 else n / 2) (n ^^^ b.toNat)) 0xFFFFFFFF)
    ^^^ 0xFFFFFFFF

end Sys2Proof.Machine
end

