-- ==== Sys2Proof/Machine/Operands.lean ====
section
/-!
DEFINITION. Sys2Proof/Machine/Operands.lean: the operand forms: fields of work entries, fragments, doorbell words,
packet headers, descriptors, ACK and NAK blocks, command packets, and the layouts of the records the adapter writes.
-/
namespace Sys2Proof.Machine

/-! ## Packing -/

/-- The number whose fields, least significant first, have the given values and widths. -/
def pack : List (Nat × Nat) → Nat
  | [] => 0
  | (v, w) :: r => low v w + 2 ^ w * pack r

/-- The phase of index `i` in a ring of `2 ^ lg` entries (R28). -/
def phaseOf (i : U32) (lg : Nat) : Bool := i.toNat.testBit lg

/-- `a` as a u32 index. -/
def u32 (a : Nat) : U32 := BitVec.ofNat 32 a

/-- Forward distance from `b` to `a`, modulo 2^32. -/
def dist (a b : U32) : Nat := (a - b).toNat

/-- `a` lies strictly behind `b` or equals it going forward less than 2^31: `a` is at or before `b` in sequence. -/
def seqLe (a b : U32) : Bool := decide (dist b a < 2 ^ 31)

/-- `a` lies strictly before `b` in sequence. -/
def seqLt (a b : U32) : Bool := decide (a ≠ b) && seqLe a b

/-! ## Spaces (Table 2.4) -/

/-- The space is one of Table 2.4's. -/
def spaceOk (sp : Nat) : Bool := decide (sp < 10)

/-- The port behind a space: 15 for host memory, a for accelerator ACCa; none for Millefeuille. -/
def portOfSpace (sp : Nat) : Option Nat :=
  if sp = 0 then some 15 else if sp = 1 then none else some (sp - 2)

/-- A ring base meets the alignment of R27: 4 KiB or the ring's byte size, whichever is smaller. -/
def ringAligned (base lg entryBytes : Nat) : Bool := decide (base % Nat.min 4096 (2 ^ lg * entryBytes) = 0)

/-! ## Work entries (Table 2.1) and fragments (Table 2.3) -/

def weTag (e : BitVec 512) : U32 := u32 (fld e 31 0)
def weRsvd39 (e : BitVec 512) : Nat := fld e 39 32
def weOp (e : BitVec 512) : Nat := fld e 47 40
def weFragCount (e : BitVec 512) : Nat := fld e 56 48
def weTable (e : BitVec 512) : Bool := bit e 57
def weStaged (e : BitVec 512) : Bool := bit e 58
def weTriggered (e : BitVec 512) : Bool := bit e 59
def weTsReq (e : BitVec 512) : Bool := bit e 60
def weFence (e : BitVec 512) : Bool := bit e 61
def weSignal (e : BitVec 512) : Bool := bit e 62
def wePhase (e : BitVec 512) : Bool := bit e 63
def weLen (e : BitVec 512) : Nat := fld e 94 64
def weRsvd95 (e : BitVec 512) : Bool := bit e 95
def weWkey (e : BitVec 512) : Nat := fld e 127 96
def weOff (e : BitVec 512) : Nat := fld e 191 128
def weOperand (e : BitVec 512) : Nat := fld e 255 192
def weFrag0 (e : BitVec 512) : BitVec 128 := BitVec.ofNat 128 (fld e 383 256)
def weFrag1 (e : BitVec 512) : BitVec 128 := BitVec.ofNat 128 (fld e 511 384)

/-- TABLE_ADDR and TABLE_SPACE of a table-mode entry. -/
def weTableAddr (e : BitVec 512) : Nat := fld e 319 256
def weTableSpace (e : BitVec 512) : Nat := fld e 383 380

def fragAddr (f : BitVec 128) : Nat := fld f 63 0
def fragLen (f : BitVec 128) : Nat := fld f 95 64
def fragRsvd (f : BitVec 128) : Nat := fld f 123 96
def fragSpace (f : BitVec 128) : Nat := fld f 127 124

/-- The fragments of an entry, fragment 0 first (R37). -/
def weFrags (e : BitVec 512) (table : List (BitVec 128)) : List (BitVec 128) :=
  if weTable e then table.take (weFragCount e)
  else if weFragCount e = 0 then [] else if weFragCount e = 1 then [weFrag0 e] else [weFrag0 e, weFrag1 e]

/-- Work-entry opcodes (Table 2.2). -/
def opNop : Nat := 0x00
def opWrite : Nat := 0x01
def opWriteImm : Nat := 0x02
def opRead : Nat := 0x03
def opSend : Nat := 0x04
def opSendImm : Nat := 0x05
def opFetchAdd : Nat := 0x06
def opCmpSwap : Nat := 0x07
def opTransform : Nat := 0x10
def opCollective : Nat := 0x11
def opStageSend : Nat := 0x12
def opMoe : Nat := 0x13
def opRecv : Nat := 0x20

/-- The opcode is READ, FETCH_ADD or CMP_SWAP: its entry retires on its response data (R97). -/
def opFetches (o : Nat) : Bool := o == opRead || o == opFetchAdd || o == opCmpSwap

/-- The opcode is valid on the send queue (Table 2.2). -/
def opSendOk (o : Nat) : Bool := decide (o < 8) || (decide (0x10 ≤ o) && decide (o ≤ 0x13))

/-- Table 2.2 uses WKEY and REMOTE_OFFSET for the opcode. -/
def opUsesWkey (o : Nat) : Bool := o == opWrite || o == opWriteImm || opFetches o || o == opTransform

/-! ## Doorbell words (Table 2.5) -/

def dbType (w : U64) : Nat := fld w 63 60
def dbInv (w : U64) : Bool := bit w 59
def dbQn (w : U64) : Nat := fld w 51 32
def dbIndex (w : U64) : U32 := u32 (fld w 31 0)

/-- A reserved bit of the word is set (Table 2.5). -/
def dbRsvd (w : U64) : Bool :=
  decide (fld w 58 52 ≠ 0) || (decide (2 ≤ dbType w) && (dbInv w || decide (fld w 51 50 ≠ 0)))

/-! ## Packets (Tables 3.4 to 3.7) -/

def phDst (h : BitVec 128) : Nat := fld h 127 110
def phDqpn (h : BitVec 128) : Nat := fld h 109 90
def phGen (h : BitVec 128) : BitVec 8 := BitVec.ofNat 8 (fld h 89 82)
def phOp (h : BitVec 128) : Nat := fld h 81 77
def phTc (h : BitVec 128) : Nat := fld h 76 74
def phLast (h : BitVec 128) : Bool := bit h 73
def phAreq (h : BitVec 128) : Bool := bit h 72
def phCe (h : BitVec 128) : Bool := bit h 71
def phEnc (h : BitVec 128) : Bool := bit h 70
def phVer (h : BitVec 128) : Nat := fld h 69 68
def phRsvd (h : BitVec 128) : Nat := fld h 67 64
def phPsn (h : BitVec 128) : U32 := u32 (fld h 63 32)
def phIndex (h : BitVec 128) : Nat := fld h 31 14
def phPay (h : BitVec 128) : Nat := fld h 13 0

/-- A header (Table 3.4). -/
structure Hdr where
  dst : Nat
  dqpn : Nat
  gen : BitVec 8
  op : Nat
  tc : Nat
  last : Bool
  areq : Bool
  enc : Bool
  psn : U32
  index : Nat
  pay : Nat
  deriving DecidableEq, Repr

/-- The 128 bits of a header, with CE clear and VER 0b01. -/
def mkHdr (h : Hdr) : BitVec 128 := BitVec.ofNat 128 (pack
  [(h.pay, 14), (h.index, 18), (h.psn.toNat, 32), (0, 4), (1, 2), (b2n h.enc, 1), (0, 1), (b2n h.areq, 1),
   (b2n h.last, 1), (h.tc, 3), (h.op, 5), (h.gen.toNat, 8), (h.dqpn, 20), (h.dst, 18)])

/-- Packet opcodes (Table 3.5). -/
def pkWrite : Nat := 0x00
def pkWriteImm : Nat := 0x01
def pkSend : Nat := 0x02
def pkSendImm : Nat := 0x03
def pkReadReq : Nat := 0x04
def pkFetchAdd : Nat := 0x05
def pkCmpSwap : Nat := 0x06
def pkTransform : Nat := 0x08
def pkColl : Nat := 0x09
def pkStage : Nat := 0x0A
def pkMoe : Nat := 0x0B
def pkAck : Nat := 0x10
def pkNak : Nat := 0x11
def pkReadResp : Nat := 0x12
def pkAtomicResp : Nat := 0x13

/-- The opcode is of the request class (Table 3.5). -/
def pkIsReq (o : Nat) : Bool := decide (o < 7) || (decide (8 ≤ o) && decide (o ≤ 0x0B))

/-- The opcode is of the response class (Table 3.5). -/
def pkIsResp (o : Nat) : Bool := decide (0x10 ≤ o) && decide (o ≤ 0x13)

/-- The opcode is a message that consumes a receive entry (R95). -/
def pkRecv (o : Nat) : Bool := o == pkSend || o == pkSendImm || o == pkWriteImm

/-- The opcode carries the immediate of Table 3.6. -/
def pkImm (o : Nat) : Bool := o == pkSendImm || o == pkWriteImm

/-- The opcode is FETCH_ADD or CMP_SWAP. -/
def pkAtomic (o : Nat) : Bool := o == pkFetchAdd || o == pkCmpSwap

def dsWkey (d : BitVec 128) : Nat := fld d 127 96
def dsImm (d : BitVec 128) : U32 := u32 (fld d 95 64)
def dsLen (d : BitVec 128) : Nat := fld d 94 64
def dsRecvSeq (d : BitVec 128) : Nat := fld d 63 48
def dsOff (d : BitVec 128) : Nat := fld d 47 0

/-- A descriptor (Table 3.6). -/
def mkDesc (wkey imm recvSeq off : Nat) : BitVec 128 :=
  BitVec.ofNat 128 (pack [(off, 48), (recvSeq, 16), (imm, 32), (wkey, 32)])

/-- A reserved field of a descriptor of opcodes 0x00 to 0x06 is non-zero (Table 3.6, R85). -/
def dsRsvd (op : Nat) (d : BitVec 128) : Bool :=
  let usesKey := !(op == pkSend || op == pkSendImm)
  (!usesKey && (decide (dsWkey d ≠ 0) || decide (dsOff d ≠ 0)))
    || (op == pkReadReq && bit d 95)
    || (!(pkImm op) && !(op == pkReadReq) && decide (fld d 95 64 ≠ 0))
    || (!(pkRecv op) && decide (dsRecvSeq d ≠ 0))

/-- The ACK block (Table 3.7). -/
def mkAck (sack : U64) (delay ce : Nat) : List Byte :=
  natLe (pack [(sack.toNat, 64), (sat 32 delay, 32), (ce, 16), (0, 16)]) 16

/-- The NAK block (Table 3.7). -/
def mkNak (code delay : Nat) : List Byte := natLe (pack [(code, 8), (delay, 16), (0, 40)]) 8

/-- Fields of a received ACK or NAK block. -/
def ackSack (b : List Byte) : U64 := BitVec.ofNat 64 (bitsN (leNat b) 63 0)
def ackDelay (b : List Byte) : Nat := bitsN (leNat b) 95 64
def ackCe (b : List Byte) : Nat := bitsN (leNat b) 111 96
def ackRsvd (b : List Byte) : Nat := bitsN (leNat b) 127 112
def nakCode (b : List Byte) : Nat := bitsN (leNat b) 7 0
def nakDelay (b : List Byte) : Nat := bitsN (leNat b) 23 8
def nakRsvd (b : List Byte) : Nat := bitsN (leNat b) 63 24

/-- NAK codes (Table 3.9). -/
def nakBusy : Nat := 1
def nakPageWait : Nat := 2
def nakStale : Nat := 3
def nakAccess : Nat := 4
def nakSeq : Nat := 5
def nakLength : Nat := 6

/-! ## Completion status codes (Table 2.10) -/

def stOk : BitVec 8 := 0x00
def stFlushed : BitVec 8 := 0x01
def stRetryExceeded : BitVec 8 := 0x02
def stRemoteAccess : BitVec 8 := 0x03
def stLocalAccess : BitVec 8 := 0x04
def stPageFault : BitVec 8 := 0x05
def stHostLost : BitVec 8 := 0x06
def stPoisoned : BitVec 8 := 0x07
def stKeyExhausted : BitVec 8 := 0x08
def stAuthFail : BitVec 8 := 0x09
def stStale : BitVec 8 := 0x0A
def stLength : BitVec 8 := 0x0B
def stMalformed : BitVec 8 := 0x0C

/-! ## Command status codes (Table 14.7) -/

def csOk : Nat := 0
def csBusy : Nat := 1
def csBusyGuarantee : Nat := 2
def csNoFit : Nat := 3
def csBadOpcode : Nat := 4
def csBadParam : Nat := 5
def csNotPermitted : Nat := 6
def csTimeout : Nat := 7
def csInvalTimeout : Nat := 8

/-! ## Command packets (Table 14.3) -/

def cpPhase (c : BitVec 512) : Bool := bit c 63
def cpFence (c : BitVec 512) : Bool := bit c 62
def cpSlice (c : BitVec 512) : Nat := fld c 56 48
def cpTag (c : BitVec 512) : BitVec 16 := BitVec.ofNat 16 (fld c 47 32)
def cpOpcode (c : BitVec 512) : Nat := fld c 15 0
/-- A reserved bit of the first eight bytes is set. -/
def cpRsvd (c : BitVec 512) : Bool := decide (fld c 61 57 ≠ 0) || decide (fld c 31 16 ≠ 0)
/-- `k` bytes of the packet at byte offset `o`. -/
def cpField (c : BitVec 512) (o k : Nat) : Nat := bitsN c.toNat (8 * (o + k) - 1) (8 * o)

/-! ## Records the adapter writes -/

/-- A completion entry (Table 2.9) with PHASE `ph`. -/
def encCompletion (c : Completion) (ph : Bool) : BitVec 256 := BitVec.ofNat 256 (pack
  [(c.wrTag.toNat, 32), (c.qpn, 20), (c.status.toNat, 8), (b2n c.immValid, 1), (b2n c.tsMissing, 1), (b2n c.rq, 1),
   (b2n ph, 1), (sat 32 c.byteCount, 32), (c.imm.toNat, 32), (c.timestamp, 64), (0, 14), (c.srcEpid, 18),
   (c.wqIndex.toNat, 32)])

/-- An event record (Table 12.11) with PHASE `ph`. -/
def encEvent (e : EventRec) (ph : Bool) : BitVec 256 := BitVec.ofNat 256 (pack
  [(e.seq, 16), (e.type, 16), (0, 8), (e.source, 7), (b2n e.slice.isSome, 1), (e.slice.getD 0, 9), (e.action, 2),
   (e.severity, 3), (b2n e.untriaged, 1), (b2n ph, 1), (e.arg0, 32), (e.time, 32), (e.arg1, 64), (e.arg2, 64)])

/-- A reply (Table 14.4) with PHASE `ph`. -/
def encReply (r : Reply) (ph : Bool) : BitVec 256 := BitVec.ofNat 256 (pack
  [(r.status, 16), (r.opcode, 16), (r.tag.toNat, 16), (r.slice, 9), (0, 4), (b2n r.committed, 1), (b2n r.fast, 1),
   (b2n ph, 1), (r.index.toNat, 32), (0, 16), (r.detail, 16), (r.result.toNat, 128)])

/-- A Crumb (Table 4.5) with PHASE `ph`. -/
def encCrumb (c : Crumb) (ph : Bool) : BitVec 256 := BitVec.ofNat 256 (pack
  [(0, 12), (c.page, 36), (c.unit, 3), (0, 1), (c.space, 4), (c.access.toNat, 3), (c.reason, 4), (b2n ph, 1),
   (c.time, 32), (sat 16 c.waiters, 16), (c.faultId, 16), (0, 16), (c.firstEpid, 18), (c.firstQpn, 20),
   (b2n c.resp, 1), (c.slice, 9), (c.reqMask.toNat, 33), (0, 7), (c.window, 24)])

/-- A feedback record (Table 8.3) with PHASE `ph`; without a delay sample its RTT fields are `fill`. -/
def encFeedback (f : Feedback) (fill : Nat) (ph : Bool) : BitVec 256 := BitVec.ofNat 256 (pack
  [(0, 32), (f.qpn, 20), (0, 11), (b2n ph, 1), (sat 32 f.timeouts, 32), (sat 16 f.ackedPkts, 16),
   (sat 16 f.cePkts, 16), (sat 32 (f.rtts.getD (fill, fill)).1, 32), (sat 32 (f.rtts.getD (fill, fill)).2, 32), (sat 32 f.ackedBytes, 32),
   (f.intervalEnd, 32)])

/-- The bytes of a 32-byte record, least significant first. -/
def recBytes (b : BitVec 256) : List Byte := natLe b.toNat 32

end Sys2Proof.Machine
end

