-- ==== Sys2Proof/Machine/Base.lean ====
section
/-!
DEFINITION. Sys2Proof/Machine/Base.lean: the outcome of a command, counters, outputs, time, and the accessors of the adapter's objects.
-/
namespace Sys2Proof.Machine

/-- The outcome of a command. -/
abbrev Res := Host.Outcome State Fault Refusal

/-- The domains other than AO run: the adapter works or boots (R483, R496). -/
def alive (a : Ao) : Bool := a.phase == .running || a.phase == .booting

/-- A command whose effect on the adapter is `f`; while every domain but AO is held in reset it has none. -/
def run (f : Dev → Dev) (s : State) : Res := .next { s with dev := if alive s.ao then f s.dev else s.dev }

/-- A command that acts on the always-on domain, the flash, the pins or the boot: it acts in every phase. -/
def runAo (f : State → State) (s : State) : Res := .next (f s)

/-- A change of the rest of the adapter. -/
def onDev (f : Dev → Dev) (s : State) : State := { s with dev := f s.dev }

/-! ## Free values, counters, outputs, time -/

/-- The next free value, and the adapter with that value used. -/
def freshValue (s : Dev) : Nat × Dev := (Config.value s.freeCtr, { s with freeCtr := s.freeCtr + 1 })

/-- The adapter's next choice of a number with `ok`: the free choice where it is allowed, else the first number below
`bound` that is. -/
def choose (bound : Nat) (ok : Nat → Bool) (s : Dev) : Option Nat × Dev :=
  let c := Config.choice s.freeCtr
  let s' := { s with freeCtr := s.freeCtr + 1 }
  if decide (c < bound) && ok c then (some c, s') else ((List.range bound).find? ok, s')

/-- Counter `code` at `index`, as R513 numbers them. -/
def counterKey (code index : Nat) : Nat := code * 4096 + index

/-- The counter's value. -/
def counter (s : Dev) (code index : Nat) : Nat := tgetD s.counters (counterKey code index) 0

/-- Adds `n` to a counter, which saturates at 2^64 - 1 (R513). -/
def bumpBy (code index n : Nat) (s : Dev) : Dev :=
  if n = 0 then s
  else { s with counters := tset s.counters (counterKey code index) (sat 64 (counter s code index + n)) }

/-- Adds 1 to a counter. -/
def bump (code index : Nat) (s : Dev) : Dev := bumpBy code index 1 s

/-- Emits at an interface. -/
def emit (o : Out) (s : Dev) : Dev := { s with out := s.out ++ [o] }

/-- Fabric time in ns (R306). -/
def timeNs (s : Dev) : Nat := s.time.time / 65536 % 2 ^ 64

/-- Low 32 bits of fabric time in ns. -/
def time32 (s : Dev) : Nat := timeNs s % 2 ^ 32

/-- Fabric time after `d` ns of the local clock under the servo's trim (R310). -/
def timeAfter (t : TimeUnit) (d : Nat) : Nat := (Int.ofNat t.time + Int.ofNat d * (65536 + t.trim)).toNat

/-- The clock moves on to `t`, if that lies ahead (log 1). -/
def advanceTo (t : Nat) (s : Dev) : Dev :=
  if s.now < t then { s with now := t, time := { s.time with time := timeAfter s.time (t - s.now) } } else s

/-- The moment of the local clock at which fabric time reaches `t` ns, at the present trim. -/
def momentOf (s : Dev) (t : Nat) : Nat :=
  s.now + ceilDiv (t * 65536 - s.time.time) (Int.toNat (65536 + s.time.trim))

/-- The expiry of a timer: nothing where the timer does not run, else `f` at the timer's moment (log 1). -/
def atExpiry (due : Option Nat) (f : Dev → Dev) (s : Dev) : Dev :=
  match due with
  | none => s
  | some t => f (advanceTo t s)

/-- The data plane carries traffic (R22, R497). -/
def dataOn (s : Dev) : Bool := s.ready && !s.dataStopped

/-! ## Objects -/

def getSlice (s : Dev) (k : Nat) : Slice := tgetD s.slices k Slice.free
def setSlice (k : Nat) (x : Slice) (s : Dev) : Dev := { s with slices := tset s.slices k x }
def modSlice (k : Nat) (f : Slice → Slice) (s : Dev) : Dev := setSlice k (f (getSlice s k)) s

def getQp (s : Dev) (q : Nat) : Option Qp := tget s.qps q
def setQp (q : Nat) (x : Qp) (s : Dev) : Dev := { s with qps := tset s.qps q x }
def modQp (q : Nat) (f : Qp → Qp) (s : Dev) : Dev :=
  match tget s.qps q with
  | some x => setQp q (f x) s
  | none => s

def setCq (c : Nat) (x : Cq) (s : Dev) : Dev := { s with cqs := tset s.cqs c x }
def modCq (c : Nat) (f : Cq → Cq) (s : Dev) : Dev :=
  match tget s.cqs c with
  | some x => setCq c (f x) s
  | none => s

def getPort (s : Dev) (n : Nat) : FPort := tgetD s.ports n FPort.reset
def setPort (n : Nat) (x : FPort) (s : Dev) : Dev := { s with ports := tset s.ports n x }
def modPort (n : Nat) (f : FPort → FPort) (s : Dev) : Dev := setPort n (f (getPort s n)) s

/-- The host port (15) or accelerator port ACCa. -/
def getIo (s : Dev) (k : Nat) : IoPort := if k = 15 then s.host else tgetD s.accs k IoPort.reset
def setIo (k : Nat) (x : IoPort) (s : Dev) : Dev :=
  if k = 15 then { s with host := x } else { s with accs := tset s.accs k x }
def modIo (k : Nat) (f : IoPort → IoPort) (s : Dev) : Dev := setIo k (f (getIo s k)) s

def getAq (s : Dev) (n : Nat) : AdminQ := tgetD s.adminQ n AdminQ.reset
def setAq (n : Nat) (x : AdminQ) (s : Dev) : Dev := { s with adminQ := tset s.adminQ n x }
def modAq (n : Nat) (f : AdminQ → AdminQ) (s : Dev) : Dev := setAq n (f (getAq s n)) s

def getEvq (s : Dev) (q : Nat) : EventQ := tgetD s.eventQ q EventQ.reset
def setEvq (q : Nat) (x : EventQ) (s : Dev) : Dev := { s with eventQ := tset s.eventQ q x }

def getEngine (s : Dev) (n : Nat) : Engine := tgetD s.engines n Engine.reset
def getFab (s : Dev) (p : Nat) : FabRegs := tgetD s.fabRegs p FabRegs.reset
def setFab (p : Nat) (x : FabRegs) (s : Dev) : Dev := { s with fabRegs := tset s.fabRegs p x }
def getDie (s : Dev) (k : Nat) : Stack := tgetD s.dies k Stack.reset
def getProfile (s : Dev) (n : Nat) : CcProfile := tgetD s.profiles n CcProfile.reset

/-- The slice runs its work: it is LIVE. -/
def sliceLive (s : Dev) (k : Nat) : Bool := (getSlice s k).st == .live

/-- Host memory is open to the slice: with PASID disabled only to a slice bound to the device PASID, that of admin queue 0
(R379). -/
def pasidOk (s : Dev) (slice sp : Nat) : Bool :=
  decide (sp ≠ 0) || s.pasidEn || (getSlice s slice).pasid == (getAq s 0).pasid

/-- The owner number of a write that no slice makes: 512 + n for admin queue n, whose PASID it carries. Number 512 is the device's:
queue 0's PASID is the device PASID (R456). -/
def deviceOwner : Nat := 512

/-- The PASID that a request in a space carries for a slice or another owner (R330, R379, Table 14.2). -/
def pasidOf (s : Dev) (owner sp : Nat) : Option Nat :=
  if sp ≠ 0 ∨ s.pasidEn = false then none
  else if owner < deviceOwner then some (getSlice s owner).pasid
  else
    let a := getAq s (owner - deviceOwner)
    if a.pasidV then some a.pasid else none

/-- The owner of admin queue `n`: the device's own for a device queue, else its slice (R455). -/
def aqOwner (n : Nat) : Nat := if n < 8 then deviceOwner + n else n - 8

/-- The slice is RESETTING or DESTROYING. -/
def sliceGoing (s : Dev) (k : Nat) : Bool := (getSlice s k).st == .resetting || (getSlice s k).st == .destroying

/-- The adapter's transport pipeline of a QPN (R10). -/
def pipeOf (qpn : Nat) : Nat := qpn % 4

end Sys2Proof.Machine
end

