-- ==== Sys2Proof/Machine/Lanes.lean ====
section
/-!
DEFINITION. Sys2Proof/Machine/Lanes.lean: the modes of logical ports and links (R241, R372), power states (Table 15.3), and how flits go
onto the lanes of a link and into its replay buffer (R246, R250).
-/
namespace Sys2Proof.Machine

/-! ## Logical ports (R241, Table 7.1) -/

/-- MODE of the physical port of logical port `n`. -/
def portMode (s : Dev) (n : Nat) : Nat := fld (getFab s (n / 2)).live 27 24

/-- The logical port runs ZFL. -/
def isZfl (s : Dev) (n : Nat) : Bool := portMode s n == 1 || portMode s n == 2

/-- The logical port runs Ethernet. -/
def isEth (s : Dev) (n : Nat) : Bool := portMode s n == 3 || portMode s n == 4

/-- The physical port is split into two halves. -/
def isSplit (s : Dev) (n : Nat) : Bool := portMode s n == 2 || portMode s n == 4

/-- The logical port exists under its configuration (R241, R537). -/
def portExists (s : Dev) (n : Nat) : Bool :=
  decide (n < 64) && decide (portMode s n ≠ 0) && (decide (n % 2 = 0) || isSplit s n)

/-- Full FEC is configured for the logical port. -/
def fullFec (s : Dev) (n : Nat) : Bool := isZfl s n && (getFab s (n / 2)).live.getLsbD (if n % 2 = 0 then 22 else 23)

/-- Configured width in lanes. -/
def cfgWidth (s : Dev) (n : Nat) : Nat := if isSplit s n then 4 else 8

/-- The ingress allocation and its headroom in bytes (R258). -/
def allocBytes (s : Dev) (n : Nat) : Nat := if isSplit s n then 524288 else 1048576
def headroomBytes (s : Dev) (n : Nat) : Nat := if isSplit s n then 163840 else 327680

/-- The port is up; a parked port is (R492). -/
def portUp (s : Dev) (n : Nat) : Bool := (getPort s n).up

/-! ## Power states (Table 15.3) -/

/-- Number of a power-managed object in State. -/
def powerKey : PowerObj → Nat
  | .engine n => n
  | .fab n => 100 + n
  | .acc a => 200 + a
  | .stack k => 300 + k

/-- An object's policy before any PWR_SET (R490). -/
def powerDefault : PowerObj → Power
  | .engine _ => ⟨.active, .meringue, 1000, 100000, 0, none⟩
  | .stack _ => ⟨.active, .active, 0, 10000000, 0, none⟩
  | _ => ⟨.active, .standby, 1000, 10000, 0, none⟩

def getPower (s : Dev) (o : PowerObj) : Power := tgetD s.power (powerKey o) (powerDefault o)
def setPower (o : PowerObj) (p : Power) (s : Dev) : Dev := { s with power := tset s.power (powerKey o) p }

/-! ## Links -/

/-- The link is an accelerator port's in ZAL mode (R372). -/
def linkIsZal (s : Dev) (n : Nat) : Bool := decide (64 ≤ n) && decide (n < 72) && fld (getIo s (n - 64)).live 27 24 == 1

/-- The link carries flits. -/
def linkFlits (s : Dev) (n : Nat) : Bool := (decide (n < 64) && isZfl s n) || linkIsZal s n

/-! ## Flits and the replay buffer (R246, R250) -/

/-- The moment, and an age, in the units of link time, 2^-10 ns. -/
def linkTime (s : Dev) : Nat := s.now * 1024
def keepTicks : Nat := 2000 * 1024

/-- Time of a flit on the lanes of a link, each of which carries 16 bytes in a ns: 264 bytes under Light FEC, a fifth of 1,355 under
Full FEC (Table 7.2). -/
def flitTicks (s : Dev) (n : Nat) : Nat := 64 * (if fullFec s n then 271 else 264) / Nat.max 1 (getPort s n).width

/-- Flits that the replay buffer of a link holds (R250; a ZAL link's, log 60). -/
def replaySize (s : Dev) (n : Nat) : Nat := if 64 ≤ n then 2048 else if isSplit s n then 512 else 1024

/-- Flits of runs; the runs without their first `k` flits, and the first `k` alone. -/
def runFlits (l : List ReplayRun) : Nat := l.foldl (fun n r => n + r.n) 0
def dropRuns : Nat → List ReplayRun → List ReplayRun
  | _, [] => []
  | k, r :: l =>
    if r.n ≤ k then dropRuns (k - r.n) l
    else { r with seq := r.seq + BitVec.ofNat 16 k, n := r.n - k, at_ := r.at_ + k * r.gap } :: l
def takeRuns : Nat → List ReplayRun → List ReplayRun
  | _, [] => []
  | k, r :: l => if k = 0 then [] else if r.n ≤ k then r :: takeRuns (k - r.n) l else [{ r with n := k }]

/-- `k` flits follow the port's last one: each takes the next sequence number and stands in the replay buffer. -/
def layFlits (n k : Nat) (s : Dev) : Dev :=
  if k = 0 then s
  else
    modPort n (fun p =>
      let l := p.replay ++ [⟨p.txSeq, k, p.txAt, flitTicks s n⟩]
      { p with
        txSeq := p.txSeq + BitVec.ofNat 16 k
        txAt := p.txAt + k * flitTicks s n
        replay := dropRuns (runFlits l - replaySize s n) l }) s

/-- The port may send flits: it is not in NARROW, and its transmitter is on (R255, R492). -/
def txOn (s : Dev) (n : Nat) : Bool :=
  let o : PowerObj := if n < 64 then .fab n else .acc (n - 64)
  (getPort s n).narrowSince.isNone && !(getPort s n).parkTxOff && (n < 64 || !(getIo s (n - 64)).parkTxOff)
    && !((getPower s o).st == .meringue)

/-- The IDLE flits that the port has sent since its last flit (Table 7.4); a stream that paused has padded its flit (R247). What stops
the transmitter lays them first (R246, R255, R492). -/
def layIdle (n : Nat) (s : Dev) : Dev :=
  let p := getPort s n
  if !(p.up && linkFlits s n && txOn s n) || decide (linkTime s ≤ p.txAt) then s
  else modPort n (fun p => { p with openFlit := none }) (layFlits n (ceilDiv (linkTime s - p.txAt) (flitTicks s n)) s)

/-- Control flits leave a port. -/
def sendFlits (n k : Nat) (s : Dev) : Dev :=
  modPort n (fun p => { p with openFlit := none, lastRx := s.now }) (layFlits n k (layIdle n s))

/-- The bytes of a packet follow one another in the stream of their VC, in the flit that the packet before has left open where there
is one (R247). -/
def sendStream (n vc len : Nat) (s : Dev) : Dev :=
  let s := layIdle n s
  let fill := match (getPort s n).openFlit with
    | some f => if f.1 = vc then f.2 else 256
    | none => 256
  let more := ceilDiv (fill + len - 256) 256
  let last := fill + len - 256 * more
  modPort n (fun p => { p with lastRx := s.now, openFlit := if last = 256 then none else some (vc, last) }) (layFlits n more s)

end Sys2Proof.Machine
end

