-- ==== Sys2Proof/Machine/Ops.lean ====
section
/-!
DEFINITION. Sys2Proof/Machine/Ops.lean: the named operations over the adapter's state: quotas, stores to memory and to ports, events,
error latches, completions, and the replies of commands.
-/
namespace Sys2Proof.Machine

/-! ## Quotas (Table 9.5) -/

/-- Bytes of a list of extents. -/
def extentBytes (l : List (Nat × Nat)) : Nat := l.foldl (fun n e => n + e.2) 0

/-- A program by its own number, a replaced or unloaded one too (R184). -/
def progOf (s : Dev) (id : Nat) : Option Program := s.programs.find? fun p => p.id == id

/-- Some item or started entry still runs a program (R184, R185). -/
def progUsed (s : Dev) (id : Nat) : Bool :=
  (s.items.any fun i => i.prog == id) || s.qps.any fun q => q.2.rqr.started.any fun e => e.txProg == some id

/-- An unload of the program waits. -/
def unloading (s : Dev) (id : Nat) : Bool := s.waits.any fun w => w.2.2 == .program id

/-- Programs of a slice that its quotas count: the loaded ones, the replaced ones that an item or an entry still holds (R184), and
those whose unload has not finished (R333). -/
def placedProgs (s : Dev) (k : Nat) : List Program := s.programs.filter fun p => p.slice == k

/-- USED of quota `q` of a slice (R333): live objects and those whose removal has not finished. -/
def quotaUsed (s : Dev) (k q : Nat) : Nat :=
  match q with
  | 0 => s.qps.countP fun p => p.2.slice == k
  | 1 => s.cqs.countP fun p => p.2.slice == k
  | 2 => s.windows.countP fun p => p.2.owner == k && (p.2.v || p.2.closing)
  | 3 => (extentBytes (getSlice s k).extents + extentBytes (getSlice s k).removing) / 0x200000
  | 4 => (placedProgs s k).foldl (fun n p => n + p.minShare) 0
  | 5 => s.items.countP fun i => i.slice == k
  | 6 => ceilDiv ((placedProgs s k).foldl (fun n p => n + p.auxBytes) 0) 1024
  | 7 => s.qps.countP fun p => p.2.slice == k && p.2.pinned
  | 8 => s.keySlots.countP fun p => p.2.owner == k
  | 9 => s.groups.countP fun p => p.2.slice == k
  | 10 => s.streams.countP fun p => p.2.slice == k
  | 11 => s.triggers.countP fun p => p.2.slice == k
  | 12 => s.monitors.countP fun p => p.2.owner == some k
  | _ => 0

/-- LIMIT of quota `q`. -/
def quotaLimit (s : Dev) (k q : Nat) : Nat := (getSlice s k).limits.getD q 0

/-- One more object of quota `q` would pass LIMIT (R334). -/
def quotaFull (s : Dev) (k q : Nat) : Bool := decide (quotaLimit s k q < quotaUsed s k q + 1)

/-- Device totals of Table 9.5 in its order; SMEM from R390. -/
def quotaTotals : List Nat :=
  [1048576, 262144, 16777215, 67640, 1536, 16384, 43008, 8192, 4096, 65536, 65536, 65536, 4096]

/-- Upper ends of the ranges of Table 9.5 in its order. -/
def quotaMax : List Nat :=
  [1048576, 262144, 16777215, 16777216, 1536, 16384, 43008, 8192, 4096, 65536, 65536, 65536, 4096]

/-- The bytes `[a, a + n)` lie in the slice's Millefeuille allocation (R331). An allocation is a union of extents of
whole 2 MiB units, so every unit that the bytes touch must lie in an extent. -/
def inAllocation (s : Dev) (k a n : Nat) : Bool :=
  let ex := (getSlice s k).extents
  let first := a / 0x200000
  let last := (a + (n - 1)) / 0x200000
  (List.range (last + 1 - first)).all fun i =>
    ex.any fun e => decide (e.1 ≤ (first + i) * 0x200000) && decide ((first + i) * 0x200000 < e.1 + e.2)

/-! ## Stores -/

/-- The 32-byte lines that `[a, a + n)` touches. -/
def linesOf (a n : Nat) : List Nat :=
  if n = 0 then [] else (List.range ((a + n - 1) / 32 + 1 - a / 32)).map fun i => a / 32 + i

/-- A line that reads as poisoned. -/
def poisonedLine (s : Dev) (l : Nat) : Bool := s.poison.contains l

/-- Some byte of `[a, a + n)` lies in a poisoned line. -/
def poisonedAt (s : Dev) (a n : Nat) : Bool := (linesOf a n).any (poisonedLine s)

/-- Inserts a line number into the rising list of poisoned lines. -/
def addLine (l : Nat) : List Nat → List Nat
  | [] => [l]
  | x :: r => if l < x then l :: x :: r else if l = x then x :: r else x :: addLine l r

/-- Lines written with the poison marker (R385, R398): the marker, and the stack's POISONED count (Table 16.13). -/
def markPoison (ls : List Nat) (s : Dev) : Dev :=
  ls.foldl (fun s l =>
    if poisonedLine s l then s
    else
      let k := (smemMap (l * 32)).1
      let d := getDie s k
      { s with poison := addLine l s.poison, dies := tset s.dies k { d with poisoned := sat 32 (d.poisoned + 1) } }) s

/-- The poison marker leaves the lines that an unpoisoned write of `[a, a + n)` covers whole (R386). -/
def clearPoison (a n : Nat) (s : Dev) : Dev :=
  { s with poison := s.poison.filter fun l => !(decide (a ≤ l * 32) && decide (l * 32 + 32 ≤ a + n)) }

/-- Primary copy of a context, of a window entry (Table 11.5). -/
def contextAddr (n : Nat) : Nat := n / 4 * 4096 + n % 4 * 512
def windowAddr (n : Nat) : Nat := 0x40000000 + n / 128 * 4096 + n % 128 * 16

/-- A snapshot record header (Table 12.6), by which events name an object. -/
def recordHeader (type id length : Nat) : Nat := type * 2 ^ 56 + low id 24 * 2 ^ 32 + length

/-- The mirror copy of an object (R391). -/
def mirrorOf (a : Nat) : Nat := a + 2048

/-- An object is written back: both copies of it, of which the lines that it covers whole lose their poison markers (R386, R391). -/
def writeBack (a n : Nat) (s : Dev) : Dev := clearPoison (mirrorOf a) n (clearPoison a n s)

/-- A write into the stacks at a physical address (R383, R386, R398). -/
def smemWrite (a : Nat) (data : List Byte) (poisoned : Bool) (s : Dev) : Dev :=
  let s := { s with mem := memWrite s.mem a data }
  if poisoned then markPoison (linesOf a data.length) s else clearPoison a data.length s

/-- Bytes of the stacks, with whether any line read is poisoned. -/
def smemRead (s : Dev) (a n : Nat) : ReadData := ⟨memRead s.mem a n, poisonedAt s a n, false⟩

/-- The port can issue memory requests: its link is up and it is not fenced (R366, R367). -/
def ioOpen (p : IoPort) : Bool := p.up && !p.fenced

/-- The link of a space is open. -/
def canWrite (s : Dev) (sp : Nat) : Bool :=
  match portOfSpace sp with
  | none => true
  | some k => ioOpen (getIo s k)

/-- A port can send now: it is open and not parked (R492), and a ZAL link is not in NARROW and its peer takes the virtual channel: 0 for
posted writes, 1 for non-posted requests, 2 for completions (R257, R372). -/
def portReady (s : Dev) (k vc : Nat) : Bool :=
  let p := getIo s k
  ioOpen p && !p.parkTxOff
    && (!linkIsZal s (64 + k) || (txOn s (64 + k) && !(getPort s (64 + k)).peerOff.getLsbD vc))

/-- Bytes the write log of a port holds at most (R363, R377). -/
def logLimit (k : Nat) : Nat := if k = 15 then 524288 else 1048576

/-- Bytes in a list of writes. -/
def logBytes (l : List LoggedWrite) : Nat := l.foldl (fun n w => n + w.data.length) 0

/-- Largest data of one memory write at a port (Table 10.9, R373): 4,096 bytes in ZAL mode, else 512. -/
def tlpBytes (s : Dev) (k : Nat) : Nat := if k ≠ 15 ∧ fld (getIo s k).live 27 24 = 1 then 4096 else 512

/-- A write cut into pieces of at most `m` bytes (R363). -/
def cutWrite (m : Nat) (w : LoggedWrite) : Nat → List LoggedWrite
  | 0 => []
  | f + 1 =>
    if w.data.length ≤ m then [w]
    else { w with data := w.data.take m, token := none } :: cutWrite m { w with data := w.data.drop m, addr := w.addr + m } f

/-- A holder has finished its memory access (R142). -/
def endHolder (token : Option Nat) (s : Dev) : Dev :=
  match token with
  | none => s
  | some t => { s with xlt := { s.xlt with holders := s.xlt.holders.filter fun h => !(h.token == t) } }

/-- The queue pair is held (R364). -/
def qpHeld (s : Dev) (qpn : Nat) : Bool := (getQp s qpn).any fun q => q.held.isSome

/-- The payload write belongs to a queue pair that is held (R364): it waits for HOST_RESUME. -/
def writeHeld (s : Dev) (w : LoggedWrite) : Bool := !w.record && w.qpn.any (qpHeld s)

/-- While the data plane is stopped the host port writes records only (R418), and so it is with the writes of a slice in fault-stop
that have not been issued (R55, log 143). -/
def writeStopped (s : Dev) (w : LoggedWrite) : Bool :=
  (s.dataStopped || decide ((getSlice s w.slice).st = .faultStop)) && !w.record

/-- A write that may leave its port's queue. -/
def writeGoes (s : Dev) (w : LoggedWrite) : Bool := !writeHeld s w && !writeStopped s w

/-- The address on the link of one in the port's space: below a root port, accelerator memory lies where the image puts it (R374). -/
def busAddr (s : Dev) (k a : Nat) : Nat := if k < 8 ∧ fld (getIo s k).live 27 24 = 2 then (getIo s k).memBase + a else a

/-- A transaction of `n` data bytes in the stream of a ZAL link's virtual channel: its header, its data, and the zeros up to the next
8-byte boundary (R247, R372, R373). -/
def zalLay (k vc n : Nat) (s : Dev) : Dev := if linkIsZal s (64 + k) then sendStream (64 + k) vc (roundUp (16 + n) 8) s else s

/-- A memory write is transmitted. -/
def issueWrite (k : Nat) (w : LoggedWrite) (s : Dev) : Dev :=
  emit (.memWrite k w.space (busAddr s k w.addr) w.data w.poison w.ro w.ns w.slice w.pasid) (zalLay k 0 w.data.length s)

/-- Moves queued writes of a port into its log while the port can send and the log has room, in order (R363). -/
def pumpWrites (k : Nat) (s : Dev) : Dev :=
  (getIo s k).queued.foldl (fun s w =>
    let p := getIo s k
    if portReady s k 0 && decide (logBytes p.log + w.data.length ≤ logLimit k) && p.queued.find? (writeGoes s) == some w then
      endHolder w.token (issueWrite k w (setIo k { p with log := p.log ++ [w], queued := p.queued.erase w } s))
    else s) s

/-- A memory write is due at a port: it joins the queue behind earlier ones, and leaves when it may (R363, R366). -/
def portWrite (k : Nat) (w : LoggedWrite) (s : Dev) : Dev :=
  let ws := cutWrite (tlpBytes s k) w (w.data.length + 1)
  pumpWrites k (modIo k (fun p => { p with queued := p.queued ++ ws }) s)

/-- Two ranges of bytes meet. -/
def overlaps (a n b m : Nat) : Bool := decide (a < b + m) && decide (b < a + n)

/-- A range lock, or an AtomicOp outstanding, covers some byte of a write: it carries no RO (R359). A lock is on 128-byte line `l` of
space `l / 2^52`. -/
def coveredWrite (s : Dev) (sp a n : Nat) : Bool :=
  (s.locks.any fun l => decide (l.1 / 2 ^ 52 = sp) && overlaps a n (l.1 % 2 ^ 52 * 128) 128)
    || s.portReads.any fun r => r.kind != 0 && r.space == sp && overlaps a n r.addr 8

/-- The NS bit of the leaf that an access of a slice to host memory goes through (Table 4.4): that of the cached translation of its page
(R378, log 165). -/
def leafNs (s : Dev) (slice sp a : Nat) : Bool :=
  decide (sp = 0) && s.xlt.cache.any fun t =>
    t.ns && t.slice == slice && t.space == sp && decide (t.pfn ≤ a / 4096) && decide (a / 4096 ≤ t.pfn + t.run)

/-- Payload may carry RO at the port (R359). -/
def roAllowed (s : Dev) (k : Nat) : Bool := if k = 15 then s.host.cfg.getLsbD 2 else (getIo s k).live.getLsbD 18

/-- A write of the adapter's to a translated address in a space, which ends the holder `token` once ordered. Payload may
carry RO, a record never does (R359). -/
def storeFor (token : Option Nat) (sp a : Nat) (data : List Byte) (poisoned record : Bool) (slice : Nat)
    (qpn : Option Nat) (psn : Option U32) (owner : Option (Bool × U32)) (s : Dev) : Dev :=
  if data.isEmpty then endHolder token s
  else
    match portOfSpace sp with
    | none => endHolder token (smemWrite a data poisoned s)
    | some k =>
      portWrite k
        { space := sp, addr := a, data := data, poison := poisoned, record := record
          ro := !record && roAllowed s k && !coveredWrite s sp a data.length
          slice := slice, qpn := qpn, psn := psn, owner := owner, token := token, ns := leafNs s slice sp a
          pasid := pasidOf s slice sp, lost := false } s

/-- A write that no holder waits on. -/
def store (sp a : Nat) (data : List Byte) (poisoned record : Bool) (slice : Nat) (qpn : Option Nat) (s : Dev) : Dev :=
  storeFor none sp a data poisoned record slice qpn none none s

/-- A 32-byte record written to a ring at index `i`. -/
def storeRecord (sp base lg : Nat) (i : U32) (bits : BitVec 256) (slice : Nat) (s : Dev) : Dev :=
  store sp (base + i.toNat % 2 ^ lg * 32) (recBytes bits) false true slice none s

/-- A record stored to the space now leaves at once: its port can send, has room in its log, and no write that may leave waits before it.
Until it can, it waits on-die, so that no record and no notice of it comes before what it reports (R360, R366). -/
def recordRoom (s : Dev) (sp : Nat) : Bool :=
  match portOfSpace sp with
  | none => true
  | some k =>
    let p := getIo s k
    portReady s k 0 && !p.queued.any (writeGoes s) && decide (logBytes p.log + 32 ≤ logLimit k)

/-! ## Reads at ports -/

/-- Non-posted requests outstanding at once at a port: 10-bit tags, or 12-bit in ZAL mode (Tables 10.8, 10.9). -/
def tagLimit (s : Dev) (k : Nat) : Nat := if k ≠ 15 ∧ fld (getIo s k).live 27 24 = 1 then 4096 else 1024

/-- The work queue has a read of entries outstanding at the port. -/
def readsAt (k : Nat) (w : WorkQueue) : Bool := w.reading.isSome && portOfSpace w.ring.space == some k

/-- The admin queue has a read of commands outstanding at the port. -/
def aqReadsAt (k : Nat) (a : AdminQ) : Bool := a.reading.isSome && portOfSpace a.space == some k

/-- Reads that queues have given up and that have not returned to the port. -/
def staleAt (s : Dev) (k : Nat) : List StaleRead := s.staleReads.filter fun r => portOfSpace r.ring.space == some k

/-- Non-posted requests outstanding at a port. -/
def nonPosted (s : Dev) (k : Nat) : Nat :=
  s.portReads.countP (fun r => r.port == k) + (staleAt s k).length
    + s.qps.foldl (fun n q => n + b2n (readsAt k q.2.sq) + b2n (readsAt k q.2.rq)) 0
    + s.adminQ.foldl (fun n a => n + b2n (aqReadsAt k a.2)) 0
    + if k = 15 then s.xlt.walks.countP fun w => w.ats && w.asked else 0

/-- A write through BAR4 waits at the port (R357). -/
def windowQueued (p : IoPort) : Bool := p.queued.any fun w => !w.record && w.slice == deviceOwner

/-- A read can be issued at the port now: it can send, a tag is free, and every write through BAR4 has left (R357, R378). -/
def readsOpen (s : Dev) (k : Nat) : Bool :=
  portReady s k 1 && !windowQueued (getIo s k) && decide (nonPosted s k < tagLimit s k)

/-- A read bound for a space can be issued now. -/
def canRead (s : Dev) (sp : Nat) : Bool :=
  match portOfSpace sp with
  | none => true
  | some k => readsOpen s k

/-- The first tag from `t` on, in rotation, that no outstanding read has. -/
def freeTag (n : Nat) (used : Nat → Bool) : Nat → Nat → Nat
  | 0, t => t
  | f + 1, t => if used t then freeTag n used f ((t + 1) % n) else t

/-- Tags are taken in rotation, past those in use. -/
def takeTag (k : Nat) (s : Dev) : Nat × Dev :=
  let p := getIo s k
  let n := tagLimit s k
  let t := freeTag n (fun t => s.portReads.any fun r => r.port == k && r.tag == t) s.portReads.length (p.nextTag % n)
  (t, setIo k { p with nextTag := (t + 1) % n } s)

/-- The requests of a read or an AtomicOp go out at its port, one for each piece. -/
def issueRead (r : PortRead) (s : Dev) : Dev :=
  r.pieces.foldl (fun s x =>
    emit (.portRead r.port r.tag r.kind r.space (busAddr s r.port x.1) x.2 r.operand r.ep r.ns r.slice r.pasid)
      (zalLay r.port 1 r.operand.length s)) s

/-- A read takes its tag and is issued. -/
def sendRead (r : PortRead) (s : Dev) : Dev :=
  let (tag, s) := takeTag r.port s
  let r := { r with tag := tag, seq := s.readNo }
  issueRead r { s with portReads := s.portReads ++ [r], readNo := s.readNo + 1 }

/-- Issues a read (kind 0) or an AtomicOp (1 FetchAdd, 2 CAS, with its operand bytes and their EP) at a port over physical pieces of a
space, as soon as the port takes one. -/
def portRead (k kind sp slice : Nat) (pieces : List (Nat × Nat)) (use : PortUse) (qpn : Option Nat) (tokens : List Nat)
    (operand : List Byte) (ep : Bool) (s : Dev) : Dev :=
  let r : PortRead :=
    { port := k, tag := 0, space := sp, addr := (pieces.head?.map (·.1)).getD 0, length := pieces.foldl (fun n x => n + x.2) 0
      use := use, tokens := tokens, pieces := pieces, got := [], bad := false, kind := kind, operand := operand, ep := ep
      ns := leafNs s slice sp ((pieces.head?.map (·.1)).getD 0), slice := slice, pasid := pasidOf s slice sp, qpn := qpn, seq := 0 }
  if readsOpen s k && (getIo s k).reads.isEmpty then sendRead r s
  else modIo k (fun p => { p with reads := p.reads ++ [r] }) s

/-- The reads that wait at a port are issued, in order, while it takes them; those of a held queue pair wait on (R364). -/
def pumpReads (k : Nat) (s : Dev) : Dev :=
  (getIo s k).reads.foldl (fun s r =>
    if readsOpen s k && !r.qpn.any (qpHeld s) then sendRead r (modIo k (fun p => { p with reads := p.reads.erase r }) s) else s) s

/-- Every read at a port, outstanding or waiting to be issued. -/
def allReads (s : Dev) : List PortRead := s.portReads ++ s.host.reads ++ s.accs.flatMap fun p => p.2.reads

/-- Every read at a port, outstanding or waiting, changed by `f`. -/
def mapReads (f : PortRead → PortRead) (s : Dev) : Dev :=
  { s with
    portReads := s.portReads.map f
    host := { s.host with reads := s.host.reads.map f }
    accs := tmap s.accs fun _ p => { p with reads := p.reads.map f } }

/-- The reads at ports, outstanding or waiting, that satisfy `keep`. -/
def keepReads (keep : PortRead → Bool) (s : Dev) : Dev :=
  { s with
    portReads := s.portReads.filter keep
    host := { s.host with reads := s.host.reads.filter keep }
    accs := tmap s.accs fun _ p => { p with reads := p.reads.filter keep } }

/-- A read of `n` work entries of a queue, from an index, goes out (R49, R358). -/
def issueFetch (qpn : Nat) (rq : Bool) (slice sp : Nat) (first : U32) (n : Nat) (s : Dev) : Dev :=
  emit (.fetchEntries qpn rq first n (pasidOf s slice sp)) (match portOfSpace sp with
    | some k => zalLay k 1 0 s
    | none => s)

/-- Signals an MSI-X vector: a memory write at the host port, which waits while the port is closed (R366, R367, R424). -/
def signal (v : Nat) (s : Dev) : Dev :=
  if ioOpen s.host then emit (.msix v) s
  else if s.host.vectors.contains v then s
  else { s with host := { s.host with vectors := s.host.vectors ++ [v] } }

/-- Records in a ring that its consumer has not taken. -/
def ringUsed (r : Ring) : Nat := dist r.prod r.cons

/-- The ring has no free entry. -/
def ringFull (r : Ring) : Bool := decide (2 ^ r.lg ≤ ringUsed r)

/-- A record of the adapter's may be written to the ring now. -/
def ringOpen (s : Dev) (r : Ring) : Bool := !ringFull r && recordRoom s r.space

/-! ## Events (R421 to R425) -/

/-- An event as a rule raises it: its row of Table 12.12, the slice concerned, and whether it goes to the device queue
only. -/
structure Ev where
  type : Nat
  sev : Nat
  slice : Option Nat
  source : Nat
  a0 : Nat
  a1 : Nat
  a2 : Nat
  dev : Bool
  deriving DecidableEq, Repr

/-- The owner of an event queue's ring, for the PASID of its writes: the device, or a slice (R421). -/
def evqSlice (q : Nat) : Nat := if q = 0 then deviceOwner else q - 1

/-- Writes a record to an event queue's ring and signals an armed queue (R424). -/
def writeEvent (q : Nat) (e : EventRec) (s : Dev) : Dev :=
  let x := getEvq s q
  let bits := encEvent e (phaseOf x.ring.prod x.ring.lg)
  let s := storeRecord x.ring.space x.ring.base x.ring.lg x.ring.prod bits (evqSlice q) s
  let s := emit (.event q x.ring.prod x.ring.space (x.ring.base + x.ring.prod.toNat % 2 ^ x.ring.lg * 32) bits) s
  let s := setEvq q { x with ring := { x.ring with prod := x.ring.prod + 1 }, armed := false } s
  if x.armed then signal x.vector s else s

/-- The bit of ARG2 of EVQ_OVERFLOW for a dropped record (Table 12.12). -/
def dropBit (t : Nat) : BitVec 3 := if t = 0x1 then 1 else if t = 0x70 then 2 else if t = 0x10 then 4 else 0

/-- A record of an event queue is dropped (R423). -/
def dropEvent (q : Nat) (e : EventRec) (s : Dev) : Dev :=
  let x := getEvq s q
  bump 0x34 q (setEvq q { x with
    dropped := x.dropped + 1
    firstDrop := if x.dropped = 0 then e.seq else x.firstDrop
    dropMask := x.dropMask ||| dropBit e.type } s)

/-- Position, from the front, of the newest held record of lower severity. -/
def newestLower (sev : Nat) (l : List EventRec) : Option Nat :=
  (l.reverse.findIdx? fun e => decide (e.severity < sev)).map fun i => l.length - 1 - i

/-- A record goes to its queue's ring while that has room, else to its hold, else R423's order of severity. -/
def fileEvent (q : Nat) (e : EventRec) (s : Dev) : Dev :=
  let x := getEvq s q
  if x.en && x.hold.isEmpty && decide (x.dropped = 0) && ringOpen s x.ring then writeEvent q e s
  else if x.hold.length < 64 then setEvq q { x with hold := x.hold ++ [e] } s
  else if e.severity < 3 then dropEvent q e s
  else
    match newestLower e.severity x.hold with
    | none => dropEvent q e s
    | some i =>
      match x.hold[i]? with
      | none => dropEvent q e s
      | some old => dropEvent q old (setEvq q { x with hold := x.hold.set i e } s)

/-- A record reaches its queue. DEVICE_FATAL signals the queue's vector even where the queue is not armed (R418). -/
def placeEvent (q : Nat) (e : EventRec) (s : Dev) : Dev :=
  let x := getEvq s q
  let s := fileEvent q e s
  if e.type == 0x74 && x.en && !x.armed then signal x.vector s else s

/-- A control core reads the device queue's records before they are written there (R20, R425). -/
def triaged (s : Dev) (q : Nat) : Bool := decide (q = 0) && !s.evtHa && decide (s.cores ≠ 0)

/-- The EVQ_OVERFLOW record of a queue (R423), as a record that takes the queue's next SEQ. It is written ahead of the held ones, so
where a control core reads it first, it does so in the writing, with no action to take (R425, log 177). -/
def overflowRec (q : Nat) (x : EventQ) (s : Dev) : EventRec where
  type := 0x71
  severity := 0
  slice := if q = 0 then none else some (evqSlice q)
  source := 41
  action := 0
  untriaged := decide (q = 0) && !triaged s q
  time := time32 s
  arg0 := x.dropped
  arg1 := x.firstDrop
  arg2 := x.dropMask.toNat
  seq := x.seq

/-- One record leaves the hold, the overflow record first, if the ring has room. -/
def pumpEvent1 (q : Nat) (s : Dev) : Dev :=
  let x := getEvq s q
  if !(x.en && ringOpen s x.ring) then s
  else if x.dropped ≠ 0 then
    writeEvent q (overflowRec q x s)
      (setEvq q { x with seq := (x.seq + 1) % 65536, dropped := 0, firstDrop := 0, dropMask := 0 } s)
  else
    match x.hold with
    | [] => s
    | e :: r => writeEvent q e (setEvq q { x with hold := r } s)

/-- `f` applied `n` times. -/
def times (n : Nat) (f : Dev → Dev) (s : Dev) : Dev :=
  match n with
  | 0 => s
  | k + 1 => times k f (f s)

/-- Held records leave while the ring has room (R423). -/
def pumpEvents (q : Nat) (s : Dev) : Dev := times 65 (pumpEvent1 q) s

/-- An event is posted to one queue: it takes the queue's next SEQ; in hardware mode a control core takes a
device-queue record for triage first (R20, R425). -/
def postEvent (q : Nat) (e : Ev) (s : Dev) : Dev :=
  let x := getEvq s q
  let rec0 : EventRec :=
    { type := e.type, severity := e.sev, slice := e.slice, source := e.source, action := 0
      untriaged := decide (q = 0), time := time32 s, arg0 := e.a0 % 2 ^ 32, arg1 := e.a1, arg2 := e.a2, seq := x.seq }
  let s := setEvq q { x with seq := (x.seq + 1) % 65536 } s
  let s := if q = 0 ∧ x.en = false ∧ 2 ≤ e.sev then emit (.mctp "event" [e.type, e.a0, e.a1, e.a2]) s else s
  if triaged s q then
    match choose 6 (fun c => s.cores.getLsbD c) s with
    | (some c, s) => { s with triage := tset s.triage c (tgetD s.triage c [] ++ [{ rec0 with untriaged := false }]) }
    | (none, s) => placeEvent q rec0 s
  else placeEvent q rec0 s

/-- Raises an event on the queues of R421. A slice in fault-stop raises none but its SLICE_FAULT_STOP (R55). -/
def raise (e : Ev) (s : Dev) : Dev :=
  match e.slice with
  | none => postEvent 0 e s
  | some k =>
    if (getSlice s k).st = .faultStop ∧ e.dev = false ∧ e.type ≠ 0x7 then s
    else if e.dev then postEvent 0 e s
    else if (getEvq s (k + 1)).en then
      let s := postEvent (k + 1) e s
      if e.sev = 3 then postEvent 0 e s else s
    else postEvent 0 e s

/-- An event that concerns a slice. -/
def sliceEvent (k type sev source a0 a1 a2 : Nat) (s : Dev) : Dev :=
  raise ⟨type, sev, some k, source, a0, a1, a2, false⟩ s

/-- An event for the device queue. -/
def devEvent (type sev source a0 a1 a2 : Nat) (s : Dev) : Dev :=
  raise ⟨type, sev, none, source, a0, a1, a2, true⟩ s

/-- The error bank of the packet core, of pipeline `k`, of a port, of a stack, of an engine, of a translation unit
(R419). -/
def bankCore : Nat := 41
/-- SOURCE of what the management processor finds (Table 12.11). -/
def sourceMgmt : Nat := 0x7F
def bankPipe (k : Nat) : Nat := 42 + k
def bankIo (k : Nat) : Nat := if k = 15 then 40 else 32 + k
def bankFab (n : Nat) : Nat := n / 2
def bankEngine (n : Nat) : Nat := 46 + n
def bankXlt (u : Nat) : Nat := 70 + u
def bankSmc (k : Nat) : Nat := 78 + k

/-! ## Error latches (R419, R420) -/

/-- An error of severity 2 or higher reaches its bank. -/
def latch (k code sev : Nat) (slice : Option Nat) (l0 l1 l2 : Nat) (s : Dev) : Dev :=
  let b := tgetD s.errBanks k ErrBank.reset
  let b' :=
    if b.v then
      { b with nextV := true, nextCount := sat 32 (b.nextCount + 1), nextSeverity := Nat.max b.nextSeverity sev }
    else { b with v := true, severity := sev, slice := slice, code := code, time := time32 s, log0 := l0, log1 := l1, log2 := l2 }
  { s with errBanks := tset s.errBanks k b' }

/-- BLOCK_ERROR for an error with no event of its own (Table 12.12). -/
def blockError (k code sev : Nat) (slice : Option Nat) (s : Dev) : Dev :=
  raise ⟨0x73, sev, slice, k, k, code, 0, !(decide (sev = 3) && slice.isSome)⟩ s

/-- A latched error with no event of its own (R420, Table 12.12). -/
def latchEvent (bank code sev : Nat) (slice : Option Nat) (l0 l1 l2 : Nat) (s : Dev) : Dev :=
  blockError bank code sev slice (latch bank code sev slice l0 l1 l2 s)

/-- The completer refused a read or an AtomicOp with a tag and a status: counted and latched (R380). -/
def cplError (port addr tag status : Nat) (s : Dev) : Dev := latchEvent (bankIo port) 0x0203 2 none addr tag status (bump 0x36 port s)

/-- A read whose return a command brings came back refused. The command names neither the read's tag nor which of the two refusing
statuses came: both are free values (R380, log 5). -/
def refusedRead (port addr : Nat) (s : Dev) : Dev :=
  let (tag, s) := freshValue s
  let (st, s) := freshValue s
  cplError port addr (tag % tagLimit s port) (if st % 2 = 0 then 1 else if tagLimit s port = 4096 then 2 else 4) s

/-! ## Completions (R58 to R66) -/

/-- A counter trigger of a completion queue whose THRESHOLD the counter has reached adds its credit and disarms
(R238, R239). Credits past 65,535 are dropped and counted. -/
def addCredit (qpn : Nat) (s : Dev) : Dev :=
  match getQp s qpn with
  | none => s
  | some q =>
    if q.st = .error then s
    else if 65535 ≤ q.rqr.credits then bump 0x14 q.slice s
    else setQp qpn { q with rqr := { q.rqr with credits := q.rqr.credits + 1 } } s

/-- The counter triggers of completion queue `c` that have come due fire (R238). -/
def fireCounters (c : Nat) (ctr : U32) (s : Dev) : Dev :=
  s.triggers.foldl (fun s p =>
    if p.2.p.kind = 1 ∧ p.2.p.source = c ∧ p.2.armed = true ∧ dist ctr p.2.p.threshold < 2 ^ 31 then
      addCredit p.2.p.target { s with triggers := tset s.triggers p.1 { p.2 with armed := false } }
    else s) s

/-- The timestamp queue entry of a completion is free again (R316). -/
def freeStamp (g : Option Nat) (s : Dev) : Dev :=
  match g with
  | none => s
  | some g => { s with stamps := tset s.stamps g (tgetD s.stamps g 0 - 1) }

/-- The instants of completions that are discarded leave the timestamp queues (R316). -/
def freeHold (l : List (Completion × Bool)) (s : Dev) : Dev := l.foldl (fun s e => freeStamp e.1.stampGroup s) s

/-- Writes a completion to its ring, counts it, frees its instant, and notifies an armed queue (R59, R64, R238, R316). -/
def writeCompletion (c : Nat) (e : Completion) (s : Dev) : Dev :=
  match tget s.cqs c with
  | none => s
  | some x =>
    let i := x.ring.prod
    let bits := encCompletion e (phaseOf i x.ring.lg)
    let s := store x.ring.space (x.ring.base + i.toNat % 2 ^ x.ring.lg * 32) (recBytes bits) false true x.slice (some e.qpn) s
    let s := emit (.completion c i x.ring.space (x.ring.base + i.toNat % 2 ^ x.ring.lg * 32) bits) s
    let hit := match x.armed with
      | none => false
      | some a => seqLe a i
    let x' := { x with
      ring := { x.ring with prod := i + 1 }, counter := x.counter + 1, armed := if hit then none else x.armed
      writtenAt := x.writtenAt ++ [s.now] }
    let s := freeStamp e.stampGroup (setCq c x' s)
    let s := if hit then sliceEvent x.slice 0x1 0 bankCore c i.toNat 0 s else s
    fireCounters c x'.counter s

/-- Completions held for all queues of a slice (R65). -/
def heldOfSlice (s : Dev) (k : Nat) : Nat :=
  s.cqs.foldl (fun n p => if p.2.slice = k then n + p.2.hold.length else n) 0

/-- What became of a completion that is due. -/
inductive Placed where
  | written
  | held
  | discarded
  | refused
  deriving DecidableEq, Repr

/-- A completion is due (R59, R65, R66, R68): written, held, discarded for a failed queue, or not accepted, which
stalls the queue. That of a held queue pair waits for HOST_RESUME, as the payload that it reports may do (R360, R364). A held completion starts the stall timer, unless a reset owes it (R341). A slice in fault-stop writes and holds none (R55). -/
def deliver (c : Nat) (e : Completion) (owed : Bool) (s : Dev) : Placed × Dev :=
  match tget s.cqs c with
  | none => (.discarded, freeStamp e.stampGroup s)
  | some x =>
    if (getSlice s x.slice).st = .faultStop then (.refused, s)
    else if x.error then (.discarded, freeStamp e.stampGroup (bump 0x0B x.slice s))
    else if x.hold.isEmpty && ringOpen s x.ring && !qpHeld s e.qpn then (.written, writeCompletion c e s)
    else if x.hold.length < 64 ∧ heldOfSlice s x.slice < 64 then
      (.held, setCq c { x with
        hold := x.hold ++ [(e, owed)]
        stallSince := if owed then x.stallSince else some (x.stallSince.getD s.now) } s)
    else (.refused, setCq c { x with stalled := true } s)

/-- One held completion is written if the ring has room. -/
def pumpCq1 (c : Nat) (s : Dev) : Dev :=
  match tget s.cqs c with
  | none => s
  | some x =>
    match x.hold with
    | [] => s
    | (e, _) :: r =>
      if ringOpen s x.ring && !x.error && !qpHeld s e.qpn && !((getSlice s x.slice).st == .faultStop) then
        writeCompletion c e (setCq c { x with
          hold := r, stallSince := if r.all (·.2) then none else x.stallSince } s)
      else s

/-- The completion queue would take a completion now: into its ring, or into its hold and the slice's reserve (R59, R65). -/
def cqRoom (s : Dev) (x : Cq) : Bool :=
  (x.hold.isEmpty && ringOpen s x.ring) || (decide (x.hold.length < 64) && decide (heldOfSlice s x.slice < 64))

/-- The completion queues of a slice that would take a completion are no longer stalled (R66, R69). -/
def unstall (k : Nat) (s : Dev) : Dev :=
  { s with cqs := tmap s.cqs fun _ x => if x.stalled && x.slice == k && cqRoom s x then { x with stalled := false } else x }

/-- Held completions are written while the ring has room, in order (R65). The reserve that they leave serves every completion queue
of the slice. -/
def pumpCq (c : Nat) (s : Dev) : Dev :=
  let s := times 64 (pumpCq1 c) s
  match tget s.cqs c with
  | none => s
  | some x => unstall x.slice s

/-- The completion queue is stalled (R66). -/
def cqStalled (s : Dev) (c : Nat) : Bool :=
  match tget s.cqs c with
  | some x => x.stalled
  | none => false

/-! ## Commands (R459 to R477) -/

/-- Kinds of Key (Table 14.6). -/
inductive Key where
  | none
  | aq | dev | qp | cq | win | winSlice | slc | fq | prg | grp | str | trg | port | io | rtg | ep | shp | mon | time | evq | wm | key
  deriving DecidableEq, Repr

/-- A row of Table 14.6: its opcode, whether it is accepted on device queues only, its Key and the place and width of
the Key's number in the packet, whether it is fast, its bound in ns (none: a condition bounds it), whether it is a
query, and whether a slice that is being reset or removed still takes it (R343). -/
structure CmdInfo where
  op : Nat
  devOnly : Bool
  key : Key
  off : Nat
  bytes : Nat
  fast : Bool
  bound : Option Nat
  query : Bool
  deriving DecidableEq, Repr

/-- Table 14.6. -/
def cmdTable1 : List CmdInfo :=
  [⟨0x0001, true, .aq, 8, 2, false, some 1000000, false⟩, ⟨0x0002, true, .aq, 8, 2, false, none, false⟩,
   ⟨0x0003, true, .dev, 0, 0, false, some 1000000, false⟩, ⟨0x0004, false, .none, 0, 0, true, some 2000, true⟩,
   ⟨0x0005, true, .dev, 0, 0, false, some 1000000, false⟩, ⟨0x0006, true, .dev, 0, 0, false, some 1000000, false⟩,
   ⟨0x0101, false, .qp, 8, 4, true, some 2000, false⟩, ⟨0x0102, false, .qp, 8, 4, true, some 2000, false⟩,
   ⟨0x0103, false, .qp, 8, 4, true, some 2000, false⟩, ⟨0x0104, false, .qp, 8, 4, true, some 2000, true⟩,
   ⟨0x0105, false, .qp, 8, 4, true, some 2000, false⟩, ⟨0x0106, false, .qp, 8, 4, true, some 2000, false⟩,
   ⟨0x0107, false, .qp, 8, 4, true, some 2000, false⟩, ⟨0x0108, false, .cq, 8, 4, false, some 1000000, false⟩,
   ⟨0x0109, false, .cq, 8, 4, true, some 2000, false⟩, ⟨0x010A, false, .cq, 8, 4, false, some 1000000, false⟩,
   ⟨0x010B, false, .cq, 8, 4, true, some 2000, true⟩]
def cmdTable2 : List CmdInfo :=
  [⟨0x0201, false, .winSlice, 0, 0, false, some 1000000, false⟩, ⟨0x0202, false, .win, 9, 3, false, none, false⟩,
   ⟨0x0203, false, .win, 8, 4, true, some 2000, true⟩, ⟨0x0204, false, .slc, 0, 0, false, none, false⟩,
   ⟨0x0205, false, .slc, 0, 0, false, none, false⟩, ⟨0x0206, false, .slc, 0, 0, false, none, false⟩,
   ⟨0x0207, false, .fq, 0, 0, true, some 2000, false⟩, ⟨0x0208, false, .fq, 0, 0, false, some 1000000, false⟩,
   ⟨0x0301, false, .prg, 8, 2, false, some 2000000, false⟩, ⟨0x0302, false, .slc, 0, 0, false, some 20000000, false⟩,
   ⟨0x0303, false, .prg, 8, 2, false, none, false⟩, ⟨0x0304, false, .prg, 8, 2, false, some 1000000, false⟩,
   ⟨0x0305, true, .dev, 0, 0, false, some 1000000, false⟩, ⟨0x0401, false, .grp, 8, 2, false, some 1000000, false⟩,
   ⟨0x0402, false, .grp, 8, 2, false, none, false⟩, ⟨0x0403, false, .grp, 8, 2, false, some 1000000, false⟩,
   ⟨0x0404, false, .grp, 8, 2, false, some 1000000, false⟩, ⟨0x0405, false, .str, 8, 2, false, some 1000000, false⟩,
   ⟨0x0406, false, .str, 8, 2, false, none, false⟩, ⟨0x0407, false, .trg, 8, 2, false, some 1000000, false⟩,
   ⟨0x0408, false, .trg, 8, 2, false, some 1000000, false⟩, ⟨0x0409, false, .trg, 8, 2, false, some 1000000, false⟩,
   ⟨0x040A, false, .str, 8, 2, true, some 2000, true⟩]
def cmdTable3 : List CmdInfo :=
  [⟨0x0501, true, .port, 8, 2, false, some 100000, false⟩, ⟨0x0502, true, .rtg, 0, 0, false, some 1000000, false⟩,
   ⟨0x0503, true, .rtg, 0, 0, false, some 10000000, false⟩, ⟨0x0504, true, .rtg, 0, 0, true, some 2000, false⟩,
   ⟨0x0505, true, .ep, 0, 0, true, some 2000, false⟩, ⟨0x0506, true, .ep, 0, 0, false, some 1000000, false⟩,
   ⟨0x0601, true, .shp, 8, 4, false, some 1000000, false⟩, ⟨0x0602, true, .dev, 0, 0, false, some 1000000, false⟩,
   ⟨0x0603, true, .slc, 0, 0, false, some 1000000, false⟩, ⟨0x0604, false, .mon, 8, 2, false, some 1000000, false⟩,
   ⟨0x0605, false, .mon, 8, 2, false, some 1000000, false⟩, ⟨0x0606, false, .mon, 8, 2, true, some 2000, true⟩,
   ⟨0x0607, true, .time, 0, 0, false, some 1000000, false⟩, ⟨0x0608, true, .time, 0, 0, false, some 1000000, false⟩,
   ⟨0x0609, true, .port, 8, 2, false, some 1000000, false⟩, ⟨0x060A, false, .slc, 0, 0, false, some 1000000, false⟩,
   ⟨0x060B, false, .slc, 0, 0, true, some 2000, false⟩, ⟨0x0701, true, .slc, 0, 0, false, some 1000000, false⟩,
   ⟨0x0702, false, .slc, 0, 0, false, some 1000000, false⟩, ⟨0x0703, true, .slc, 0, 0, false, some 1000000, false⟩,
   ⟨0x0704, true, .slc, 0, 0, false, some 1000000, false⟩, ⟨0x0705, true, .slc, 0, 0, false, some 1000000, false⟩,
   ⟨0x0706, true, .slc, 0, 0, false, none, false⟩, ⟨0x0707, true, .slc, 0, 0, true, none, false⟩,
   ⟨0x0708, true, .slc, 0, 0, false, none, false⟩]
def cmdTable4 : List CmdInfo :=
  [⟨0x0801, true, .io, 8, 1, false, some 1000000, false⟩, ⟨0x0802, true, .slc, 0, 0, false, some 200000000, true⟩,
   ⟨0x0803, true, .dev, 0, 0, false, some 400000000, false⟩, ⟨0x0804, true, .slc, 0, 0, false, some 100000000, false⟩,
   ⟨0x0901, false, .evq, 8, 2, false, some 1000000, false⟩, ⟨0x0902, false, .evq, 8, 2, true, some 2000, false⟩,
   ⟨0x0903, false, .wm, 8, 2, false, some 1000000, false⟩, ⟨0x0904, false, .wm, 8, 2, true, some 2000, true⟩,
   ⟨0x0905, false, .wm, 8, 2, true, some 2000, false⟩, ⟨0x0906, false, .wm, 8, 2, false, some 1000000, false⟩,
   ⟨0x0A01, false, .key, 8, 2, false, some 1000000, false⟩, ⟨0x0A02, false, .key, 8, 2, false, some 1000000, false⟩,
   ⟨0x0A03, false, .key, 8, 2, true, some 2000, true⟩]

/-- The row of an opcode; none for a reserved opcode. The three management-plane commands are not here (R467). -/
def cmdInfo (op : Nat) : Option CmdInfo :=
  (cmdTable1 ++ cmdTable2 ++ cmdTable3 ++ cmdTable4).find? fun c => c.op == op

/-- The row of an opcode that Table 14.6 has. -/
def cmdRow (op : Nat) : CmdInfo := (cmdInfo op).getD ⟨op, false, .none, 0, 0, false, none, false⟩

/-- The Key is of device scope: such a command has SLICE 0 (R467). -/
def keyDevice (k : Key) : Bool := k == .dev || k == .port || k == .io || k == .rtg || k == .ep || k == .shp || k == .time

/-- The number of a Key kind, for State. -/
def keyNum : Key → Nat
  | .none => 0 | .aq => 1 | .dev => 2 | .qp => 3 | .cq => 4 | .win => 5 | .winSlice => 6 | .slc => 7 | .fq => 8
  | .prg => 9 | .grp => 10 | .str => 11 | .trg => 12 | .port => 13 | .io => 14 | .rtg => 15 | .ep => 16 | .shp => 17
  | .mon => 18 | .time => 19 | .evq => 20 | .wm => 21 | .key => 22

/-- The object on which a packet is serialised (R473): kind and number. Objects that a slice numbers for itself carry
the slice in the number. -/
def keyOf (c : CmdInfo) (raw : BitVec 512) : Nat × Nat :=
  let id := if c.bytes = 0 then 0 else cpField raw c.off c.bytes
  let own := c.key == .winSlice || c.key == .slc || c.key == .fq || c.key == .prg || c.key == .qp || c.key == .cq
  (keyNum c.key, if own then id * 512 + cpSlice raw else id)

/-- Commands of a queue started and not replied. -/
def startedOn (s : Dev) (n : Nat) : Nat := s.started.countP fun c => c.queue == n

/-- The control core that takes a firmware command: a running one (R19). -/
def runningCore (s : Dev) (k : Nat) : Option Nat :=
  let up := (List.range 6).filter fun c => s.cores.getLsbD c
  up[k % Nat.max up.length 1]?

/-- A record of replies that a queue writes: to its ring when it can, else it waits on-die (R461, R479). -/
def writeReply (n : Nat) (r : Reply) (s : Dev) : Dev :=
  let a := getAq s n
  let bits := encReply r (phaseOf a.rprod a.lg)
  let s := storeRecord a.space a.rbase a.lg a.rprod bits (aqOwner n) s
  let s := emit (.reply n a.rprod a.space (a.rbase + a.rprod.toNat % 2 ^ a.lg * 32) bits) s
  let s := setAq n { a with rprod := a.rprod + 1, armed := false } s
  if a.armed then signal a.vector s else s

/-- The queue can write a reply now. -/
def replyOpen (s : Dev) (n : Nat) : Bool :=
  let a := getAq s n
  decide (dist a.rprod a.rcons < 2 ^ a.lg) && recordRoom s a.space

/-- A reply ends its command: it leaves `started` and the reply is written, kept, or, on a queue that is not enabled,
discarded and counted (R479). A command that has replied TIMEOUT writes no second reply (R477). -/
def putReply (n : Nat) (r : Reply) (s : Dev) : Dev :=
  let lost := s.started.any fun c => c.queue == n && c.index == r.index && c.opcode == r.opcode && c.orphan
  let s := { s with started := s.started.filter fun c => !(c.queue == n && c.index == r.index && c.orphan == lost) }
  let a := getAq s n
  if s.timedOut.contains (n, r.index) then { s with timedOut := s.timedOut.filter fun p => !(p == (n, r.index)) }
  else if lost || (!a.en && !a.closing) then bump 0x33 n s
  else if a.owed.isEmpty && replyOpen s n then writeReply n r s
  else setAq n { a with owed := a.owed ++ [r] } s

/-- Replies that waited are written while the queue can write (R479). -/
def pumpReply1 (n : Nat) (s : Dev) : Dev :=
  let a := getAq s n
  match a.owed with
  | [] => s
  | r :: t => if replyOpen s n then writeReply n r (setAq n { a with owed := t } s) else s

def pumpReplies (n : Nat) (s : Dev) : Dev := times (getAq s n).owed.length (pumpReply1 n) s

/-- The record that a packet's start leaves (R473). -/
def startRec (n : Nat) (i : U32) (c : CmdInfo) (raw : BitVec 512) (core : Option Nat) (now : Nat) : Started :=
  let k := keyOf c raw
  ⟨n, i, c.op, cpSlice raw, cpTag raw, k.1, k.2, core, now, false, false⟩

/-- A refusal at the start, before any command row (R469): BAD_OPCODE, or NOT_PERMITTED for a management command. -/
def refuseRaw (n : Nat) (i : U32) (raw : BitVec 512) (st : Nat) (s : Dev) : Dev :=
  putReply n ⟨0, 0, i, false, false, cpSlice raw, cpTag raw, cpOpcode raw, st⟩ s

/-- What carries a waiting packet out is free: for a fast command one of the machine's 32 places (R471), for another a running core. -/
def carrierFree (s : Dev) (raw : BitVec 512) : Bool :=
  match cmdInfo (cpOpcode raw) with
  | none => true
  | some c => if c.fast then decide ((s.started.countP fun x => x.core.isNone) < 32) else decide (s.cores ≠ 0)

/-- No started command, and none that waits ahead, has the packet's Key (R473). -/
def keyFree (s : Dev) (ahead : List (BitVec 512 × U32)) (raw : BitVec 512) : Bool :=
  match cmdInfo (cpOpcode raw) with
  | none => true
  | some c =>
    let k := keyOf c raw
    k.1 == 0 || !((s.started.any fun x => x.keyKind == k.1 && x.keyId == k.2)
      || ahead.any fun p => (cmdInfo (cpOpcode p.1)).any fun d => keyOf d p.1 == k)

/-- Nothing but its Key may keep a waiting packet: R461's ring room, R472's FENCE, R474's limits, and what carries it out. `ahead` are the
packets of its queue that still wait before it. -/
def queueReady (s : Dev) (n : Nat) (ahead : List (BitVec 512 × U32)) (raw : BitVec 512) : Bool :=
  let a := getAq s n
  let st := startedOn s n
  decide (dist a.rprod a.rcons + a.owed.length + st < 2 ^ a.lg) && decide (st < 64) && decide (s.started.length < 1024)
    && (!cpFence raw || (decide (st = 0) && ahead.isEmpty)) && carrierFree s raw

/-- A packet that waits for its Key lets those behind it start, unless it has FENCE; any other that waits holds them back, since a queue's
commands start in ring order (R472, R473). -/
def holdsBack (s : Dev) (n : Nat) (ahead : List (BitVec 512 × U32)) (raw : BitVec 512) : Bool :=
  cpFence raw || !queueReady s n ahead raw

/-- The waiting packet starts. -/
def mayStart (s : Dev) (n : Nat) (ahead : List (BitVec 512 × U32)) (stuck : Bool) (raw : BitVec 512) : Bool :=
  !stuck && queueReady s n ahead raw && keyFree s ahead raw

/-- One waiting packet of a queue starts, or stays; `stuck` says that one before it holds it back. -/
def startOne (n : Nat) (acc : (List (BitVec 512 × U32) × Bool) × Dev) (p : BitVec 512 × U32) :
    (List (BitVec 512 × U32) × Bool) × Dev :=
  let ((kept, stuck), s) := acc
  if mayStart s n kept stuck p.1 then
    match cmdInfo (cpOpcode p.1) with
    | none =>
      ((kept, false), refuseRaw n p.2 p.1
        (if 0x0F01 ≤ cpOpcode p.1 ∧ cpOpcode p.1 ≤ 0x0F03 then csNotPermitted else csBadOpcode) s)
    | some c =>
      let core := if c.fast then none else runningCore s (Config.choice s.freeCtr)
      ((kept, false), { s with freeCtr := s.freeCtr + 1, started := s.started ++ [startRec n p.2 c p.1 core s.now] })
  else ((kept ++ [p], stuck || holdsBack s n kept p.1), s)

/-- The waiting packets of a queue start where they may (R472 to R474). -/
def startQueue (n : Nat) (s : Dev) : Dev :=
  let a := getAq s n
  if a.waiting.isEmpty || a.closing then s
  else
    let ((kept, _), s) := a.waiting.foldl (startOne n) (([], false), s)
    modAq n (fun a => { a with waiting := kept }) s

/-- The waiting packets of every queue start where they may. -/
def startAll (s : Dev) : Dev := s.adminQ.foldl (fun s p => startQueue p.1 s) s

/-- A disabled admin queue. Queue 0 keeps its registers (R456). -/
def disabledQ (n : Nat) (a : AdminQ) : AdminQ :=
  if n = 0 then { AdminQ.reset with
    lg := a.lg, space := a.space, vector := a.vector, pasid := a.pasid, pasidV := a.pasidV, cbase := a.cbase, rbase := a.rbase }
  else AdminQ.reset

/-- A closing admin queue is disabled once its started commands have replied (R457, R481). -/
def closeQueue (n : Nat) (s : Dev) : Dev :=
  let a := getAq s n
  if a.closing && decide (startedOn s n = 0) && a.owed.isEmpty then setAq n (disabledQ n a) s else s

/-- An AQ_DESTROY replies when its queue has closed. -/
def endClosing (w : Cmd × Nat × WaitOn) (s : Dev) : Dev :=
  match w.2.2 with
  | .adminQueue n =>
    if (getAq s n).closing then s
    else
      putReply w.1.aq ⟨0, 0, w.1.index, false, false, w.1.slice, w.1.tag, w.2.1, csOk⟩
        { s with waits := s.waits.filter fun x => !(x == w) }
  | _ => s

/-- Closing queues are disabled and their AQ_DESTROYs reply; each reply may let another queue close. -/
def closeQueues (s : Dev) : Dev :=
  times (s.waits.length + 1) (fun s =>
    let s := s.adminQ.foldl (fun s p => closeQueue p.1 s) s
    s.waits.foldl (fun s w => endClosing w s) s) s

/-- The command of a row replies: its reply is written, other commands that waited on it go on. -/
def reply (c : CmdInfo) (h : Cmd) (st detail : Nat) (result : Nat) (s : Dev) : Dev :=
  startAll (closeQueues (putReply h.aq
    ⟨BitVec.ofNat 128 result, detail, h.index, c.fast, false, h.slice, h.tag, c.op, st⟩ s))

/-- The command replies OK with no result. -/
def ok (c : CmdInfo) (h : Cmd) (s : Dev) : Dev := reply c h csOk 0 0 s

/-- The command is refused with a status and changes nothing (R470). -/
def refuse (c : CmdInfo) (h : Cmd) (st : Nat) (s : Dev) : Dev := reply c h st 0 0 s

/-- The command is refused with BAD_PARAM; DETAIL is the byte offset of the offending field (Table 14.4). -/
def badParam (c : CmdInfo) (h : Cmd) (off : Nat) (s : Dev) : Dev := reply c h csBadParam off 0 s

/-- RESULT values packed from bit 128 upwards, each aligned to its own width in bytes (R462). -/
def packResult (l : List (Nat × Nat)) : Nat :=
  (l.foldl (fun (acc : Nat × Nat) p =>
    let o := roundUp acc.2 p.2
    (acc.1 + low p.1 (8 * p.2) * 2 ^ (8 * o), o + p.2)) (0, 0)).1

/-- The first field, in packet order, that is out of range: pairs of a field's offset and whether it is good. -/
def firstBad (l : List (Nat × Bool)) : Option Nat := (l.find? fun p => !p.2).map (·.1)

/-- The smaller of two optional offsets. -/
def minOff : Option Nat → Option Nat → Option Nat
  | none, b => b
  | some a, none => some a
  | some a, some b => some (Nat.min a b)

/-- The commands R478 lets run while the data plane is stopped, besides the queries. -/
def runsStopped (op : Nat) : Bool := op == 0x0001 || op == 0x0002 || op == 0x0901 || op == 0x0902

/-- The commands that a slice takes while it is being reset or removed (R343): the queries. What R344 lets go on are commands that
were executing already. -/
def runsGoing (c : CmdInfo) : Bool := c.query

/-- The packet of the command has been read and has not started (R472 to R474). -/
def notStarted (s : Dev) (h : Cmd) : Bool := (getAq s h.aq).waiting.any fun p => p.2 == h.index

/-- Until the reset sequence has ended, and while its packet waits to start, a command does nothing. The checks that every command meets before its own rule (R467, R469, R478, R534 case 1, R343), then the rule.
`bad` is the first field of PARAMS that breaks a range; `needsSlice` says that the command acts on or for SLICE. -/
def command (op : Nat) (h : Cmd) (needsSlice : Bool) (bad : Option Nat) (body : CmdInfo → Dev → Dev) (s : Dev) : Dev :=
  let c := cmdRow op
  if !s.ready || notStarted s h then s
  else if s.timedOut.contains (h.aq, h.index) then
    { s with timedOut := s.timedOut.filter fun p => !(p == (h.aq, h.index)) }
  else if c.devOnly && decide (8 ≤ h.aq) then refuse c h csNotPermitted s
  else if decide (8 ≤ h.aq) && decide (h.aq ≠ 8 + h.slice) then refuse c h csNotPermitted s
  else if keyDevice c.key && decide (h.slice ≠ 0) then refuse c h csNotPermitted s
  else if s.dataStopped && !(c.query || runsStopped op) then refuse c h csNotPermitted s
  else
    match minOff h.rsvd bad with
    | some o => badParam c h o s
    | none =>
      if needsSlice && decide ((getSlice s h.slice).st = .free) then badParam c h 6 s
      else if needsSlice && sliceGoing s h.slice && !runsGoing c then refuse c h csBusy s
      else body c s

/-- The command reads its memory inputs: it starts now, and no check that needs none of them refuses it (R475). -/
def readsInputs (op : Nat) (h : Cmd) (s : Dev) : Bool :=
  let c := cmdRow op
  s.ready && !notStarted s h && !s.timedOut.contains (h.aq, h.index) && !(c.devOnly && decide (8 ≤ h.aq))
    && !(decide (8 ≤ h.aq) && decide (h.aq ≠ 8 + h.slice)) && !(keyDevice c.key && decide (h.slice ≠ 0))
    && !(s.dataStopped && !(c.query || runsStopped op)) && h.rsvd.isNone

/-- A command's read of its quota block in host memory, of which a refused one is counted (R380). -/
def readBlock (op : Nat) (h : Cmd) (b : QuotaRead) (s : Dev) : Dev :=
  if b.refused && readsInputs op h s then refusedRead 15 b.addr s else s

/-- The block's LIMITs cannot be used (R399, Table 10.10). -/
def blockBad (b : QuotaRead) : Bool := b.poisoned || b.refused

/-- The refusal of R534 case 3 for an object of another slice: NOT_PERMITTED on a slice queue, else BAD_PARAM. -/
def refuseOther (c : CmdInfo) (h : Cmd) (off : Nat) (s : Dev) : Dev :=
  if 8 ≤ h.aq then refuse c h csNotPermitted s else badParam c h off s

/-- The command waits on a condition its rule names, and has committed (R476, R477). -/
def waitOn (h : Cmd) (op : Nat) (w : WaitOn) (s : Dev) : Dev :=
  { s with
    waits := s.waits ++ [(h, op, w)]
    started := s.started.map fun c =>
      if c.queue = h.aq ∧ c.index = h.index then { c with committed := true } else c }

/-- The command's wait has ended. -/
def endWait (w : Cmd × Nat × WaitOn) (s : Dev) : Dev := { s with waits := s.waits.filter fun x => !(x == w) }

/-! ## Levels: watermarks and pending quotas (R335, R427) -/

/-- The slice that a watermark entry concerns: a slice entry its slice, a device entry none (R421, R426). -/
def wmSlice (e : Nat) : Option Nat := if e < 16384 then some (e / 32) else none

/-- The level a watermark of a KIND watches on an OBJECT, in the unit of the KIND (Table 12.14). -/
def wmLevel (s : Dev) (kind obj : Nat) : Nat :=
  match kind with
  | 0 => ((getQp s obj).map fun q => ringUsed q.sq.ring).getD 0
  | 1 => ((getQp s obj).map fun q => ringUsed q.rq.ring).getD 0
  | 2 => ((tget s.cqs obj).map fun c => ringUsed c.ring + c.hold.length).getD 0
  | 3 => ringUsed (getEvq s obj).ring
  | 4 => ((getSlice s obj).faultQ.map fun r => ringUsed r).getD 0
  | 5 => (getPort s obj).occupancy.foldl (· + ·) 0 / 1024
  | 6 => (tgetD s.miss obj []).length
  | 7 => quotaUsed s obj 3
  | 8 => logBytes (getIo s obj).log / 1024
  | 9 => s.ports.foldl (fun n p => p.2.queue.foldl (fun n e => n + e.p.payload.length) n) 0 / 1048576
  | _ => 0

/-- The level of one watermark has changed: an upward crossing counts, the first one raises the notice (R427). -/
def checkMark (e : Nat) (w : Watermark) (s : Dev) : Dev :=
  let l := wmLevel s w.kind w.object
  if l = w.last then s
  else
    let cross := w.armed && decide (w.last < w.level) && decide (w.level ≤ l)
    let w' := { w with
      last := l
      count := if cross then sat 16 (w.count + 1) else w.count
      peak := if w.armed then Nat.max w.peak l else w.peak
      latched := w.latched || cross }
    let s := { s with watermarks := tset s.watermarks e w' }
    if cross && !w.latched then raise ⟨0x70, 0, wmSlice e, bankCore, e, l, w.level, (wmSlice e).isNone⟩ s else s

/-- A pending shrink of a slice whose usage has fallen to LIMIT is met (R335). -/
def checkPend (k : Nat) (s : Dev) : Dev :=
  (List.range 13).foldl (fun s q =>
    let x := getSlice s k
    if x.pend.getD q false && decide (quotaUsed s k q ≤ quotaLimit s k q) then
      sliceEvent k 0xA 0 bankCore (0x40 + 8 * q) 0 0 (setSlice k { x with pend := x.pend.set q false } s)
    else s) s

/-- A program that no slot holds and nothing runs any more leaves the engines; a TXE_UNLOAD of it replies (R184, R185). -/
def dropDead (s : Dev) : Dev :=
  let s := { s with programs := s.programs.filter fun p => !p.dead || progUsed s p.id }
  s.waits.foldl (fun s w =>
    match w.2.2 with
    | .program id => if (progOf s id).isNone then ok (cmdRow w.2.1) w.1 (endWait w s) else s
    | _ => s) s

/-- The QP_ERROR of a queue pair waits to be written: in the hold of its event queue, or with a control core (R73, R423, R425). -/
def errorEventWaits (s : Dev) (qpn : Nat) : Bool :=
  let mine := fun (e : EventRec) => e.type == 0x3 && e.arg0 == qpn
  (s.eventQ.any fun x => x.2.hold.any mine) || s.triage.any fun t => t.2.any mine

/-- A queue pair in ERROR whose entries have completed and whose QP_ERROR is in its ring, or was dropped: a QP_MODIFY that waits for it
replies (R73, log 178). -/
def errorsTold (s : Dev) : Dev :=
  s.waits.foldl (fun s w =>
    match w.2.2 with
    | .qpError n =>
      if ((getQp s n).any fun q => q.st == .error && q.err.isSome) || errorEventWaits s n then s
      else ok (cmdRow w.2.1) w.1 (endWait w s)
    | _ => s) s

/-- A collective, or a phase of a mixture-of-experts layer, runs on the group. -/
def groupBusy (g : Group) : Bool := g.run.isSome || g.moe.any fun m => m.run.isSome

/-- Groups whose destruction waits go, with its reply, once they run nothing any more (R199). -/
def groupsGone (s : Dev) : Dev :=
  s.waits.foldl (fun s w =>
    match w.2.2 with
    | .group gid =>
      if (tget s.groups gid).any groupBusy then s
      else ok (cmdRow w.2.1) w.1 (endWait w { s with groups := tdel s.groups gid })
    | _ => s) s

/-- Every watermark is compared with its level (R427). A command that lowers a level and raises it again compares in between. -/
def compareMarks (s : Dev) : Dev := s.watermarks.foldl (fun s p => checkMark p.1 p.2 s) s

/-- After a command that moves levels: dead programs and destroyed groups leave, failed queue pairs are told of, and every watermark and
pending shrink is compared (R73, R199, R335, R427). -/
def settle (s : Dev) : Dev :=
  let s := compareMarks (errorsTold (groupsGone (dropDead s)))
  s.slices.foldl (fun s p => if p.2.pend.any id then checkPend p.1 s else s) s

end Sys2Proof.Machine
end

