-- ==== Sys2Proof/Machine/Route.lean ====
section
/-!
DEFINITION. Sys2Proof/Machine/Route.lean: logical ports, route tables and the choice of a port (R263 to R268, R277),
the egress queues of a port's scheduler with their virtual-time tags (R283 to R287), shapers (R289) and gates (R320).
-/
namespace Sys2Proof.Machine

/-! ## The state of a port -/

/-- The port is parked (R492), or still wakes from it. -/
def parked (s : Dev) (n : Nat) : Bool := (getPower s (.fab n)).st == .meringue

/-- A new packet may start at the port: its lane group is ACTIVE, and no parking has begun (R491, R492). -/
def portAwake (s : Dev) (n : Nat) : Bool :=
  (getPower s (.fab n)).st == .active && (getPort s n).parkAt.all fun t => decide (timeNs s < t)

/-! ## Packet lengths -/

/-- Wire length of a packet in bytes (R82, R437). -/
def wireLen (p : Packet) : Nat :=
  16 + (if p.desc.isSome then 16 else 0) + p.payload.length + 8 + (if p.cipher.isSome then 16 else 0)

/-- Wire length padded to 8 (R247). -/
def padLen (p : Packet) : Nat := roundUp (wireLen p) 8

/-- Bytes of a list of queued packets. -/
def queueBytes (l : List EgressPkt) : Nat := l.foldl (fun n e => n + padLen e.p) 0

/-! ## Route tables (Table 7.10) -/

def rtMin (e : BitVec 256) : U64 := BitVec.ofNat 64 (fld e 63 0)
def rtNonMin (e : BitVec 256) : U64 := BitVec.ofNat 64 (fld e 127 64)
def rtEscPort (e : BitVec 256) : Nat := fld e 133 128
def rtEscV (e : BitVec 256) : Bool := bit e 134

/-- Table level (0 group, 1 member) and index of a destination under a split G (R264). -/
def routeKey (g self dst : Nat) : Nat × Nat :=
  if dst / 2 ^ (18 - g) = self / 2 ^ (18 - g) then (1, dst % 2 ^ (18 - g)) else (0, dst / 2 ^ (18 - g))

/-- The entry of the active bank at a level and index. -/
def routeEntry (r : Routing) (k : Nat × Nat) : BitVec 256 :=
  let t := if k.1 = 0 then (if r.bank then r.groupB else r.groupA) else (if r.bank then r.memberB else r.memberA)
  tgetD t k.2 0

/-- The route-set entry of a slice (Table 7.9a). -/
def routeSetOf (s : Dev) (k : Nat) : BitVec 128 := tgetD s.routing.routeSets (getSlice s k).routeSet 0

def rsPorts (e : BitVec 128) : U64 := BitVec.ofNat 64 (fld e 63 0)
def rsReqVc (e : BitVec 128) : Nat := fld e 66 64
def rsRspVc (e : BitVec 128) : Nat := fld e 70 68
def rsV (e : BitVec 128) : Bool := bit e 71

/-- A port of a candidate mask is up, not withdrawn for the destination, and not an Ethernet port (R266, R280). -/
def candidateUp (s : Dev) (key : Nat × Nat) (n : Nat) : Bool :=
  let p := getPort s n
  p.up && isZfl s n && !p.withdrawn.contains key

/-- The port may take a packet on VC `v` now: RTG_VC_PORTS and the peer's ON (R257, R266). VC1 is in every mask. -/
def vcOpen (s : Dev) (v n : Nat) : Bool :=
  (v == 1 || (tgetD s.routing.vcPorts v 0xFFFFFFFFFFFFFFFF).getLsbD n) && !(getPort s n).peerOff.getLsbD v

/-- The eligible ports of a mask for a packet on VC `v` (R266); `within` is the route set's PORTS at a source. A parked port is
eligible only where no other is (R493). -/
def eligiblePorts (s : Dev) (key : Nat × Nat) (v : Nat) (mask within : U64) : List Nat :=
  let l := (List.range 64).filter fun n => mask.getLsbD n && within.getLsbD n && candidateUp s key n && vcOpen s v n
  let awake := l.filter fun n => !parked s n
  if awake.isEmpty then l else awake

/-- Bytes queued for egress at a port. -/
def portBytes (s : Dev) (n : Nat) : Nat := queueBytes (getPort s n).queue

/-- The port with the fewest bytes queued; a tie goes to the next after the last one chosen, in rotation (R266). -/
def bestPort (s : Dev) (l : List Nat) : Option Nat :=
  let rot := fun n => (n + 63 - s.routing.lastPort) % 64
  l.foldl (fun b n =>
    match b with
    | none => some n
    | some m =>
      if portBytes s n < portBytes s m ∨ (portBytes s n = portBytes s m ∧ rot n < rot m) then some n else b) none

/-- What routing finds for a packet. -/
inductive RouteTo where
  /-- This adapter's own endpoint (R266). -/
  | here
  | port (n vc : Nat)
  /-- No eligible adaptive port now: ESC_WAIT runs (R267). -/
  | wait
  /-- Every candidate is down or withdrawn (R267, R268). -/
  | none
  deriving DecidableEq, Repr

/-- Some candidate of the entry remains after masking out down and withdrawn ports (R267). -/
def anyCandidate (s : Dev) (key : Nat × Nat) (e : BitVec 256) : Bool :=
  (List.range 64).any fun n => (rtMin e ||| rtNonMin e).getLsbD n && candidateUp s key n

/-- The route of a transit packet on VC `v` (R264, R266). -/
def routeTransit (s : Dev) (v dst : Nat) : RouteTo :=
  let r := s.routing
  if dst = r.selfEpid then .here
  else
    let key := routeKey r.gActive r.selfEpid dst
    let e := routeEntry r key
    if v = 1 ∧ rtEscV e = true ∧ (getPort s (rtEscPort e)).up = true ∧ isZfl s (rtEscPort e) = true then .port (rtEscPort e) 1
    else if !anyCandidate s key e then .none
    else if v = 1 then .wait
    else
      match bestPort s (eligiblePorts s key v (rtMin e) 0xFFFFFFFFFFFFFFFF) with
      | some n => .port n v
      | none => .wait

/-- The route of a packet that this adapter builds for a slice (R263, R266, R277). A destination in the neighbour table
leaves on its Ethernet port (log 20). -/
def routeSource (s : Dev) (slice v dst : Nat) : RouteTo :=
  let r := s.routing
  let rs := routeSetOf s slice
  if dst = r.selfEpid then .here
  else if !rsV rs then .none
  else
    match tget r.neigh dst with
    | some nb => if isEth s nb.port && portUp s nb.port && (rsPorts rs).getLsbD nb.port then .port nb.port v else .none
    | none =>
      let key := routeKey r.gActive r.selfEpid dst
      let e := routeEntry r key
      if !anyCandidate s key e then .none
      else
        let best := bestPort s (eligiblePorts s key v (rtMin e) (rsPorts rs))
        let other := bestPort s (eligiblePorts s key v (rtNonMin e) (rsPorts rs))
        match best, other with
        | some m, some n => if 2 * portBytes s n + r.nmBias < portBytes s m then .port n v else .port m v
        | some m, none => .port m v
        | none, some n => .port n v
        | none, none => .wait

/-- The escape of a packet whose ESC_WAIT has passed (R267). -/
def escapePort (s : Dev) (e : EgressPkt) : Option Nat :=
  let r := s.routing
  let key := routeKey r.gActive r.selfEpid (phDst e.p.hdr)
  let x := routeEntry r key
  let inSet := match e.slice with
    | some k => (rsPorts (routeSetOf s k)).getLsbD (rtEscPort x)
    | none => true
  if rtEscV x && (getPort s (rtEscPort x)).up && isZfl s (rtEscPort x) && inSet then some (rtEscPort x) else none

/-- The physical endpoint of a logical one (R268). -/
def epOf (s : Dev) (l : Nat) : Option Nat :=
  match tget s.routing.epMap l with
  | some e => if bit e 31 then some (fld e 17 0) else none
  | none => none

/-! ## Scheduler queues and tags (R283 to R287) -/

/-- The number of a level-2 queue within its class: a slice's queue, or 512 + v for the transit queue of VC v. The
manual numbers no queues; this order decides a tie of R285 (log 21). -/
def queueNo (e : EgressPkt) : Nat :=
  match e.slice with
  | some k => k
  | none => 512 + e.vc

/-- The packets of a level-2 queue, in order. -/
def queueOf (p : FPort) (tc q : Nat) : List EgressPkt := p.queue.filter fun e => e.tc == tc && queueNo e == q

/-- The level-2 queues of a class that hold packets, in rising order. -/
def queuesOf (p : FPort) (tc : Nat) : List Nat :=
  (List.range 519).filter fun q => p.queue.any fun e => e.tc == tc && queueNo e == q

/-- The weight of a class, of a level-2 queue (R284). -/
def classWeight (p : FPort) (tc : Nat) : Nat := Nat.max 1 (fld p.tcWeight (8 * tc + 7) (8 * tc))
def queueWeight (s : Dev) (p : FPort) (q : Nat) : Nat :=
  Nat.max 1 (if q < 512 then (getSlice s q).bwWeight else p.transitWeight)

/-- The finish tag of a packet of length `l` that starts at `st` (R285). -/
def finishTag (st l w : Nat) : Nat := st + l * 65536 / w

/-- Key of a level-2 queue's tags in a port. -/
def tagKey (tc q : Nat) : Nat := tc * 1024 + q

/-- A packet may be sent: those of a slice in fault-stop, of a held and of a frozen queue pair may not, but for the NAKs that answer
its peers (R55, R365, R411). -/
def sendable (s : Dev) (e : EgressPkt) : Bool :=
  match e.slice with
  | none => true
  | some k =>
    phOp e.p.hdr == pkNak
      || (sliceLive s k && (getQp s e.qpn).all fun q => q.held.isNone && q.frozen.isNone)

/-- The packet of a level-2 queue that may leave next: one of a stopped queue pair keeps its place, and those behind pass it (log 115). -/
def headOf (s : Dev) (p : FPort) (tc q : Nat) : Option EgressPkt := (queueOf p tc q).find? (sendable s)

/-- Finish tag of a level-2 queue, for that packet. -/
def queueFinish (s : Dev) (p : FPort) (tc q : Nat) : Nat :=
  finishTag (tgetD p.tags2 (tagKey tc q) ⟨0, 0⟩).s (((headOf s p tc q).map fun e => padLen e.p).getD 0) (queueWeight s p q)

/-- The level-2 queue of a class with the smallest finish tag among `qs`; on a tie the lowest number (R285). -/
def minTag2 (s : Dev) (p : FPort) (tc : Nat) (qs : List Nat) : Option Nat :=
  qs.foldl (fun b q =>
    match b with
    | none => some q
    | some m =>
      if queueFinish s p tc q < queueFinish s p tc m then some q else b) none

/-- Tags of a level-2 queue whose head has just become its present one: `woke` after it was empty (R285, R286). -/
def tagQueue (s : Dev) (p : FPort) (tc q : Nat) (woke : Bool) : FPort :=
  match (queueOf p tc q).head? with
  | none => { p with tags2 := tdel p.tags2 (tagKey tc q) }
  | some e =>
    let st := if woke then tgetD p.v2 tc 0 else (tgetD p.tags2 (tagKey tc q) ⟨0, 0⟩).f
    { p with tags2 := tset p.tags2 (tagKey tc q) ⟨st, finishTag st (padLen e.p) (queueWeight s p q)⟩ }

/-- Start tag of a class at level 1, which begins at `st`; its finish tag follows at the choice, from the packet that the class would
send then (R285). A class without packets has no tags. -/
def tagClass (p : FPort) (tc st : Nat) : FPort :=
  if p.queue.any fun e => e.tc == tc then { p with tags1 := tset p.tags1 tc ⟨st, st⟩ }
  else { p with tags1 := tdel p.tags1 tc }

/-- Tags of a port from which packets were removed: a queue with another head takes its length, an emptied one loses its tags (R285 to
R287). -/
def retag (s : Dev) (p : FPort) : FPort :=
  let head := fun (k : Nat) (t : Tags) => match (queueOf p (k / 1024) (k % 1024)).head? with
    | some e => { t with f := finishTag t.s (padLen e.p) (queueWeight s p (k % 1024)) }
    | none => t
  { p with
    tags2 := tmap (tfilter p.tags2 fun k _ => !(queueOf p (k / 1024) (k % 1024)).isEmpty) head
    tags1 := tfilter p.tags1 fun tc _ => p.queue.any fun e => e.tc == tc }

/-- Sets CE in a packet's header. -/
def setCe (p : Packet) : Packet := { p with hdr := p.hdr ||| (1 <<< 71) }

/-- Queues a packet at a port: CE under R291, tags under R285 and R286. -/
def enqueue (n : Nat) (e : EgressPkt) (s : Dev) : Dev :=
  let p := getPort s n
  let classBytes := queueBytes (p.queue.filter fun x => x.tc == e.tc)
  let e := { e with
    p := if pkIsReq (phOp e.p.hdr) && decide (s.ceThresh ≤ classBytes) then setCe e.p else e.p
    since := s.now }
  let wokeQ := (queueOf p e.tc (queueNo e)).isEmpty
  let wokeC := !(p.queue.any fun x => x.tc == e.tc)
  let p := { p with queue := p.queue ++ [e] }
  let p := if wokeQ then tagQueue s p e.tc (queueNo e) true else p
  let p := if wokeC then tagClass p e.tc p.v1 else p
  { setPort n p s with routing := { s.routing with lastPort := n } }

/-- Index of a looped-back packet's link (R266): it uses no port and returns as a received packet of this number
(log 22). -/
def loopLink : Nat := 255

/-- A packet waits out ESC_WAIT (R267). -/
def waitEscape (from_ : Option (Nat × Nat)) (e : EgressPkt) (s : Dev) : Dev :=
  { s with escWaiting := s.escWaiting ++ [⟨s.freeCtr, e, s.now, from_⟩], freeCtr := s.freeCtr + 1 }

/-- The VC of a packet that a slice sends (R263). -/
def sliceVc (s : Dev) (slice op : Nat) : Nat :=
  let rs := routeSetOf s slice
  if pkIsResp op then rsRspVc rs else rsReqVc rs

/-- ACK_DELAY of an ACK that leaves now (Table 3.7). -/
def stampAck (s : Dev) (e : EgressPkt) : Packet :=
  match e.ackAt with
  | none => e.p
  | some t =>
    let b := e.p.payload
    let body := mkAck (ackSack b) (sat 32 (s.now - t)) (ackCe b)
    { e.p with payload := body, glaze := glaze body }

/-- Sends a packet of a slice: false where the destination has no route (R268), and then nothing is sent. -/
def sendPkt (slice qpn tc : Nat) (firstTx : Bool) (ackAt : Option Nat) (p : Packet) (s : Dev) : Bool × Dev :=
  let v := sliceVc s slice (phOp p.hdr)
  let e : EgressPkt := ⟨p, v, tc, some slice, s.now, qpn, firstTx, ackAt⟩
  match routeSource s slice v (phDst p.hdr) with
  | .here => (true, emit (.packet loopLink v (stampAck s e)) s)
  | .port n w => (true, enqueue n { e with vc := w } s)
  | .wait => (true, waitEscape none e s)
  | .none => (false, s)

/-- The route of a packet that this adapter has queued already: one on VC1 stays there (R260, R267). -/
def routeAgain (s : Dev) (e : EgressPkt) : RouteTo :=
  let dst := phDst e.p.hdr
  match e.slice with
  | none => routeTransit s e.vc dst
  | some k =>
    if e.vc ≠ 1 then routeSource s k (sliceVc s k (phOp e.p.hdr)) dst
    else if dst = s.routing.selfEpid then .here
    else
      match escapePort s e with
      | some n => .port n 1
      | none =>
        let key := routeKey s.routing.gActive s.routing.selfEpid dst
        if anyCandidate s key (routeEntry s.routing key) then .wait else .none

/-! ## Shapers (R288, R289) -/

/-- Number of a class shaper, of a slice shaper. -/
def classShaper (n tc : Nat) : Nat := n * 8 + tc
def sliceShaper (k tc : Nat) : Nat := 4096 + k * 8 + tc

/-- Tokens of a shaper now, in bytes × 1,000: RATE / 1,000 bytes in each ns, up to BURST. -/
def shaperTokens (now : Nat) (x : Shaper) : Nat := Nat.min (x.burst * 1000) (x.tokens + x.rate * (now - x.at_))

/-- A shaper lets a packet of length `l` start. -/
def shaperOpen (s : Dev) (k l : Nat) : Bool :=
  let x := tgetD s.shapers k Shaper.reset
  decide (x.rate = 0) || decide (l * 1000 ≤ shaperTokens s.now x)

/-- A shaper pays for a packet that starts. -/
def shaperPay (k l : Nat) (s : Dev) : Dev :=
  let x := tgetD s.shapers k Shaper.reset
  if x.rate = 0 then s
  else { s with shapers := tset s.shapers k { x with tokens := shaperTokens s.now x - l * 1000, at_ := s.now } }

/-- The shapers that cover a packet at a port. -/
def shapersOf (n : Nat) (e : EgressPkt) : List Nat :=
  classShaper n e.tc :: (match e.slice with | some k => [sliceShaper k e.tc] | none => [])

/-! ## Gates (R318 to R322) -/

/-- OPEN and INTERVAL of a gate entry (Table 8.10). -/
def gateOpen (e : U64) (tc : Nat) : Bool := bit e (56 + tc)
def gateLen (e : U64) : Nat := fld e 31 0

/-- ns for which a class stays open from the start of the list, going round at most once. -/
def openRun (tc : Nat) : List U64 → Nat
  | [] => 0
  | e :: r => if gateOpen e tc then gateLen e + openRun tc r else 0

/-- The list rotated to begin at entry `i`. -/
def rotateList {α : Type} (l : List α) (i : Nat) : List α := l.drop i ++ l.take i

/-- The longest span for which a class stays open, or none where it never closes (R319, R322). -/
def longestOpen (l : List U64) (tc : Nat) : Option Nat :=
  if l.all fun e => gateOpen e tc then none
  else some ((List.range l.length).foldl (fun m i => Nat.max m (openRun tc (rotateList l i))) 0)

/-- The entry in force at offset `o` of the cycle, and the offset within it. -/
def gateAt : List U64 → Nat → Nat → Nat × Nat
  | [], _, i => (i, 0)
  | e :: r, o, i => if o < gateLen e then (i, o) else gateAt r (o - gateLen e) (i + 1)

/-- Position of fabric time in an active list. -/
def gatePosition (s : Dev) (p : FPort) : Nat × Nat :=
  let t := timeNs s
  let o := if p.gateCycle = 0 then 0 else (Int.ofNat t - Int.ofNat p.gateBase).emod (Int.ofNat p.gateCycle) |>.toNat
  gateAt p.gateActive o 0

/-- How long a class stays open from now under the active list, in units of 2^-16 ns; none where it never closes. -/
def openActive (s : Dev) (p : FPort) (tc : Nat) : Option Nat :=
  if p.gateActive.all fun e => gateOpen e tc then none
  else
    let (i, o) := gatePosition s p
    some ((openRun tc (rotateList p.gateActive i) - o) * 65536 - s.time.time % 65536)

/-- How long a class stays open from now: the active list runs until the pending one becomes active (R319, R320). -/
def openLeft (s : Dev) (p : FPort) (tc : Nat) : Option Nat :=
  let old := openActive s p tc
  match p.gatePending with
  | none => old
  | some (l, _, _, t) =>
    let till := t * 65536 - s.time.time
    if old.any fun x => decide (x < till) then old
    else if l.all fun e => gateOpen e tc then none
    else some (till + openRun tc l * 65536)

/-- The packet passes at the port's current width and FEC within `t`, in units of 2^-16 ns (R320): bytes on the line against the line's
bytes a ns. -/
def passesIn (s : Dev) (n : Nat) (p : Packet) (t : Nat) : Bool :=
  let w := Nat.max 1 (getPort s n).width
  if isEth s n then decide ((wireLen p + 90) * 8 * 65536 ≤ t * w * 100)
  else if fullFec s n then decide (wireLen p * 1355 * 65536 ≤ t * 1280 * w * 16)
  else decide (wireLen p * 264 * 65536 ≤ t * 256 * w * 16)

/-- The packet passes every span for which its class stays open (R322). -/
def passesNoSpan (s : Dev) (n : Nat) (e : EgressPkt) : Bool :=
  (longestOpen (getPort s n).gateActive e.tc).any fun best => !passesIn s n e.p (best * 65536)

/-- Gates act on the packet (R318, R321). -/
def gated (p : FPort) (vc : Nat) : Bool :=
  p.gateEn && (!p.gateActive.isEmpty || p.gatePending.isSome) && decide (vc ≠ 1)

/-- R320 and R322 let a packet start: its class is open for long enough, or its time passes every span and this is the
start of the first longest one. -/
def gateLets (s : Dev) (n : Nat) (e : EgressPkt) : Bool :=
  let p := getPort s n
  if !gated p e.vc then true
  else
    if passesNoSpan s n e then
      let (i, o) := gatePosition s p
      let first := (List.range p.gateActive.length).find? fun j =>
        some (openRun e.tc (rotateList p.gateActive j)) == longestOpen p.gateActive e.tc
      decide (o = 0) && first == some i
    else (openLeft s p e.tc).all (passesIn s n e.p)

/-- The packet starts under R322: it passes the longest span of its class. -/
def gateOverrun (s : Dev) (n : Nat) (e : EgressPkt) : Bool := gated (getPort s n) e.vc && passesNoSpan s n e

/-! ## The choice of the next packet (R283 to R285) -/

/-- PFC has stopped the packet's priority on an Ethernet port (R275, R278). -/
def pfcStopped (s : Dev) (n tc : Nat) : Bool :=
  let pcp := fld (getFab s (n / 2)).pcp (8 * tc + 2) (8 * tc)
  isEth s n && decide (s.now < tgetD (getPort s n).pfc pcp 0)

/-- A packet that is being forwarded cut-through takes the stream of a VC at a port (R247, R272). -/
def streamTaken (s : Dev) (n vc : Nat) : Bool :=
  s.ports.any fun p => (tgetD p.2.forwarding vc []).any fun f => f.port == n && f.left != 0

/-- The head packet of a level-2 queue may start now (R252, R257, R283). -/
def headEligible (s : Dev) (n : Nat) (e : EgressPkt) : Bool :=
  let p := getPort s n
  p.up && p.awaiting.isNone && p.narrowSince.isNone && portAwake s n
    && (isEth s n || !p.peerOff.getLsbD e.vc) && !streamTaken s n e.vc
    && (shapersOf n e).all (fun k => shaperOpen s k (padLen e.p))
    && gateLets s n e && !pfcStopped s n e.tc

/-- The eligible level-2 queues of a class. -/
def eligibleQueues (s : Dev) (n tc : Nat) : List Nat :=
  let p := getPort s n
  (queuesOf p tc).filter fun q => (headOf s p tc q).any (headEligible s n)

/-- The packet that a class would send next, with its level-2 queue. -/
def classNext (s : Dev) (n tc : Nat) : Option (Nat × EgressPkt) :=
  let p := getPort s n
  (minTag2 s p tc (eligibleQueues s n tc)).bind fun q => (headOf s p tc q).map fun e => (q, e)

/-- Finish tag of a class, from the packet that it would send next (R285). -/
def classFinish (s : Dev) (n tc : Nat) : Nat :=
  let p := getPort s n
  finishTag (tgetD p.tags1 tc ⟨0, 0⟩).s (((classNext s n tc).map fun x => padLen x.2.p).getD 0) (classWeight p tc)

/-- The class that R284 serves. -/
def nextClass (s : Dev) (n : Nat) : Option Nat :=
  let el := (List.range 8).filter fun tc => (classNext s n tc).isSome
  if el.contains 7 then some 7
  else if el.contains 6 then some 6
  else el.foldl (fun b tc =>
    match b with
    | none => some tc
    | some m => if classFinish s n tc < classFinish s n m then some tc else b) none

/-- The packet that leaves next at a port, with its class and level-2 queue. -/
def nextPacket (s : Dev) (n : Nat) : Option (Nat × Nat × EgressPkt) :=
  (nextClass s n).bind fun tc => (classNext s n tc).map fun x => (tc, x.1, x.2)

/-- A port's queues after a packet has left: virtual times move to the start tags, new heads take tags (R285). -/
def afterLeave (s : Dev) (tc q : Nat) (e : EgressPkt) (p : FPort) : FPort :=
  let t := tgetD p.tags1 tc ⟨0, 0⟩
  let x := tgetD p.tags2 (tagKey tc q) ⟨0, 0⟩
  let v2 := Nat.max (tgetD p.v2 tc 0) x.s
  let v1 := if tc < 6 then Nat.max p.v1 t.s else p.v1
  let p := { p with
    queue := p.queue.erase e, v2 := tset p.v2 tc v2, v1 := v1
    tags2 := tset p.tags2 (tagKey tc q) { x with f := finishTag x.s (padLen e.p) (queueWeight s p q) } }
  tagClass (tagQueue s p tc q false) tc (finishTag t.s (padLen e.p) (classWeight p tc))

end Sys2Proof.Machine
end

