-- ==== Sys2Proof/Machine/Ingress.lean ====
section
/-!
DEFINITION. Sys2Proof/Machine/Ingress.lean: how packets and control flits go onto a link, with the replay buffer (R246 to R250), the
flow-control state that a port shows for its ingress allocation (R257, R258, R278, R279), and the bytes of packets that are forwarded
cut-through (R272).
-/
namespace Sys2Proof.Machine

/-! ## Links -/

/-- Configured width, ingress allocation, headroom and data VCs of a link (R258, R372). -/
def linkWidth (s : Dev) (n : Nat) : Nat := if n < 64 then cfgWidth s n else 16
def linkAlloc (s : Dev) (n : Nat) : Nat := if n < 64 then allocBytes s n else 2097152
def linkHeadroom (s : Dev) (n : Nat) : Nat := if n < 64 then headroomBytes s n else 524288
def linkVcs (s : Dev) (n : Nat) : Nat := if n < 64 then (if isEth s n then 8 else 7) else 3

/-- Threshold of a VC, or of a priority, in bytes (R258, R511). A ZAL link has no thresholds of its own (R372). -/
def vcThresh (s : Dev) (n v : Nat) : Nat :=
  let most := linkAlloc s n - linkHeadroom s n
  if 64 ≤ n then most
  else
    let f := getFab s (n / 2)
    let r := if n % 2 = 0 then f.threshA else f.threshB
    Nat.min most (fld r (8 * v + 7) (8 * v) * (if isSplit s n then 2048 else 4096))

/-- Bytes of the ingress allocation in use. -/
def ingressUsed (p : FPort) : Nat := p.occupancy.foldl (· + ·) 0

/-! ## Control flits and replays (R250) -/

/-- A packet, or `k` more bytes that complete it, or a control flit goes onto the lanes of a native link. -/
def putFlits (n : Nat) (s : Dev) (o : Out × Nat) : Dev :=
  match o.1 with
  | .packet _ vc _ => sendStream n vc o.2 (emit o.1 s)
  | _ => sendFlits n 1 (emit o.1 s)

/-- The same, while the port may send flits; else it waits. -/
def sendBytes (n k : Nat) (o : Out) (s : Dev) : Dev :=
  if txOn s n then putFlits n s (o, k) else modPort n (fun p => { p with heldCtl := p.heldCtl ++ [(o, k)] }) s

/-- A packet or a control flit leaves a native link. -/
def sendOut (n : Nat) (o : Out) (s : Dev) : Dev :=
  sendBytes n (match o with | .packet _ _ p => padLen p | _ => 0) o s

/-- What waited leaves. -/
def releaseHeld (n : Nat) (s : Dev) : Dev :=
  if txOn s n then (getPort s n).heldCtl.foldl (putFlits n) (modPort n (fun p => { p with heldCtl := [] }) s) else s

/-- Flits from a sequence number on are sent again, as far as they are held, and kept for another 2.0 µs (R250). -/
def replayFrom (n : Nat) (seq : BitVec 16) (s : Dev) : Dev :=
  let s := layIdle n s
  emit (.replayFrom n seq) (modPort n (fun p =>
    let all := runFlits p.replay
    let k := Nat.min all (p.txSeq - seq).toNat
    let until_ := p.txAt + k * flitTicks s n
    { p with
      replay := takeRuns (all - k) p.replay ++ (if k = 0 then [] else [⟨p.txSeq - BitVec.ofNat 16 k, k, p.txAt, flitTicks s n⟩])
      txAt := until_, replayTill := until_, openFlit := none }) s)

/-- The port still holds the flit of a sequence number: it was last sent no more than 2.0 µs ago. -/
def replayHolds (s : Dev) (p : FPort) (seq : BitVec 16) : Bool :=
  p.replay.any fun r => decide ((seq - r.seq).toNat < r.n) && decide (linkTime s < r.at_ + (seq - r.seq).toNat * r.gap + keepTicks)

/-- A replay that the peer requested is under way (R492). -/
def replaying (s : Dev) (n : Nat) : Bool := decide (linkTime s < (getPort s n).replayTill)

/-! ## Flow control (R257, R258, R278, R279) -/

/-- A FLOW flit with the OFF vector (Table 7.4). -/
def sendFlow (n : Nat) (s : Dev) : Dev :=
  let p := getPort s n
  let off : BitVec 7 := if p.offAll then 0x7F else p.offVc.setWidth 7
  sendOut n (.flowFlit n off) (modPort n (fun p => { p with flowAt := s.now }) s)

/-- An ABORT for a VC (R251). -/
def sendAbort (n vc : Nat) (s : Dev) : Dev := sendOut n (.abortFlit n vc) s

/-- The OFF state of one VC, or the XOFF of one priority: OFF at its threshold, ON 8 KiB below it. -/
def offOne (s : Dev) (n : Nat) (p : FPort) (v : Nat) : Bool :=
  let o := p.occupancy.getD v 0
  decide (v < linkVcs s n) && decide (n < 64)
    && (decide (vcThresh s n v ≤ o) || (p.offVc.getLsbD v && decide (vcThresh s n v < o + 8192)))

/-- The OFF state of all together: OFF at the headroom, ON with 8 KiB more. -/
def offAll (s : Dev) (n : Nat) (p : FPort) : Bool :=
  let free := linkAlloc s n - ingressUsed p
  decide (free ≤ linkHeadroom s n) || (p.offAll && decide (free < linkHeadroom s n + 8192))

/-- Bits of a list of numbers below 8. -/
def mask8 (l : List Nat) : BitVec 8 := l.foldl (fun m v => m ||| (1 <<< v)) 0

/-- The vector that a port shows to its peer. -/
def offShown (p : FPort) : BitVec 8 := if p.offAll then 0xFF else p.offVc

/-- The state of some priorities goes to the peer in one frame: XOFF with time 0xFFFF, or a time of 0 (R278, R279). -/
def sendPfc (n : Nat) (enable off : BitVec 8) (s : Dev) : Dev :=
  let times := (List.range 8).map fun i => if enable.getLsbD i && off.getLsbD i then 0xFFFF else 0
  emit (.pfcFrame n enable times)
    (modPort n (fun p => { p with
      xoffAt := (List.range 8).foldl (fun t i => if enable.getLsbD i then tset t i s.now else t) p.xoffAt }) s)

/-- After the ingress allocation of a port has changed: OFF, ON, XOFF and resume go out where the state changes; on an Ethernet port
the cause of R279 acts on all eight priorities together. -/
def updateOff (n : Nat) (s : Dev) : Dev :=
  let p := getPort s n
  if !p.up || p.narrowSince.isSome then s
  else
    let p' := { p with offVc := mask8 ((List.range 8).filter (offOne s n p)), offAll := offAll s n p }
    let s' := setPort n p' s
    if n < 64 ∧ isEth s n = true then
      if p.offAll ≠ p'.offAll then sendPfc n 0xFF (offShown p') s'
      else if offShown p = offShown p' then s'
      else sendPfc n (offShown p ^^^ offShown p') (offShown p') s'
    else if offShown p = offShown p' then s' else sendFlow n s'

/-- Bytes join or leave the ingress allocation of a VC. -/
def addIngress (n vc k : Nat) (s : Dev) : Dev :=
  modPort n (fun p => { p with occupancy := p.occupancy.set vc (p.occupancy.getD vc 0 + k) }) s
def freeIngress (n vc k : Nat) (s : Dev) : Dev :=
  updateOff n (modPort n (fun p => { p with occupancy := p.occupancy.set vc (p.occupancy.getD vc 0 - k) }) s)

/-- The bytes of frames whose moment has come leave the ingress allocation (R261, log 157). -/
def pumpLeaving (n : Nat) (s : Dev) : Dev :=
  let due := (getPort s n).leaving.filter fun x => decide (x.2.2 ≤ s.now)
  if due.isEmpty then s
  else compareMarks <| due.foldl (fun s x => freeIngress n x.1 x.2.1 s)
    (modPort n (fun p => { p with leaving := p.leaving.filter fun x => !decide (x.2.2 ≤ s.now) }) s)

/-- The same at every port, at the moments that have come (R278, R279). -/
def pumpIngress (s : Dev) : Dev := s.ports.foldl (fun s p => if p.2.leaving.isEmpty then s else pumpLeaving p.1 s) s

/-! ## Cut-through (R272) -/

/-- The header at the front of a stream. -/
def headerOf (bs : List Byte) : BitVec 128 := BitVec.ofNat 128 (leNat (bs.take 16))

/-- The packets of a VC that a port forwards cut-through. -/
def forwardsOf (p : FPort) (vc : Nat) : List Forward := tgetD p.forwarding vc []
def setForwards (vc : Nat) (l : List Forward) (p : FPort) : FPort :=
  { p with forwarding := if l.isEmpty then tdel p.forwarding vc else tset p.forwarding vc l }

/-- The forwarding of the packet that is still arriving on a VC. -/
def openForward (p : FPort) (vc : Nat) : Option Forward :=
  match tget p.partials vc with
  | some bs => if bs.length < 16 then none else (forwardsOf p vc).find? fun f => f.hdr == headerOf bs && f.left != 0
  | none => none

/-- What has arrived of a packet of `k` bytes that is being forwarded follows on its way, `have_` bytes in all (R247). -/
def forwardBytes (n vc k have_ : Nat) (h : BitVec 128) (s : Dev) : Dev :=
  let l := forwardsOf (getPort s n) vc
  match l.find? fun f => f.hdr == h && f.left != 0 with
  | none => s
  | some f =>
    let d := f.left - (k - have_)
    if d = 0 ∨ 64 ≤ f.port ∨ txOn s f.port = false then s
    else sendStream f.port vc d (modPort n (setForwards vc (l.map fun x => if x = f then { f with left := f.left - d } else x)) s)

end Sys2Proof.Machine
end

