-- ==== Sys2Proof/Machine/Xlt.lean ====
section
/-!
DEFINITION. Sys2Proof/Machine/Xlt.lean: translation: table walks (R118 to R121), the translation cache (R124), faults
and Crumbs (R128 to R136), holders (R142), and the window check (R116).
-/
namespace Sys2Proof.Machine

/-! ## Accesses -/

/-- ACCESS bits (Table 4.5): read, write, atomic. -/
def accRead : BitVec 3 := 1
def accWrite : BitVec 3 := 2
def accAtomic : BitVec 3 := 4

/-- The access needs R, needs W (R119). -/
def needsR (a : BitVec 3) : Bool := bit a 0 || bit a 2
def needsW (a : BitVec 3) : Bool := bit a 1 || bit a 2

/-- The pages that `[a, a + n)` touches. -/
def pagesOf (a n : Nat) : List Nat :=
  if n = 0 then [] else (List.range ((a + n - 1) / 4096 + 1 - a / 4096)).map fun i => a / 4096 + i

/-- The translation unit of an address (R11). -/
def unitOf (slice page : Nat) : Nat := bitsN page 11 9 ^^^ (slice % 8)

/-! ## Table entries (Table 4.4) -/

def teV (e : Nat) : Bool := e.testBit 63
def teLeaf (e : Nat) : Bool := e.testBit 62
def teW (e : Nat) : Bool := e.testBit 61
def teR (e : Nat) : Bool := e.testBit 60
def tePfn (e : Nat) : Nat := bitsN e 51 12
def teRun (e : Nat) : Nat := bitsN e 11 3
def teNs (e : Nat) : Bool := e.testBit 2

/-- A reserved bit of an entry of a level is set. -/
def teRsvd (leaf : Bool) (space e : Nat) : Bool :=
  decide (bitsN e 59 52 ≠ 0) || decide (bitsN e 1 0 ≠ 0)
    || (if leaf then teNs e && decide (space ≠ 0) else teW e || teR e || teNs e || decide (teRun e ≠ 0))

/-- What a walk finds: a leaf, or a fault's REASON (Table 4.7). -/
inductive WalkEnd where
  | leaf (pfn run : Nat) (r w ns : Bool)
  | fault (reason : Nat)
  deriving DecidableEq, Repr

/-- The entry at index `i` of a table page: none where it reads poisoned (Table 11.8). -/
def tableEntry (s : Dev) (addr i : Nat) : Option Nat :=
  if poisonedAt s (addr + 8 * i) 8 then none else some (leNat (memRead s.mem (addr + 8 * i) 8))

/-- The leaf level of a walk. -/
def walkLeaf (s : Dev) (slice space page addr : Nat) (acc : BitVec 3) : WalkEnd :=
  match tableEntry s addr (page % 512) with
  | none => .fault 4
  | some e =>
    if !teV e then .fault 1
    else if !teLeaf e || teRsvd true space e || decide (511 < page % 512 + teRun e) then .fault 4
    else if space = 1 ∧ !inAllocation s slice (tePfn e * 4096) 4096 then .fault 5
    else if needsW acc && (!teW e || (bit acc 2 && !teR e)) then .fault 3
    else if needsR acc && !teR e then .fault 2
    else .leaf (tePfn e) (teRun e) (teR e) (teW e) (teNs e)

/-- A pointer level of a walk: the next table page. -/
def walkStep (s : Dev) (slice space addr i : Nat) : Nat ⊕ Nat :=
  match tableEntry s addr i with
  | none => .inr 4
  | some e =>
    if !teV e then .inr 1
    else if teLeaf e || teRsvd false space e then .inr 4
    else if !inAllocation s slice (tePfn e * 4096) 4096 then .inr 5
    else .inl (tePfn e * 4096)

/-- The address bits by which the entry of level `k` of a page's walk is chosen. -/
def levelBits (page k : Nat) : Nat := page / 2 ^ (9 * (4 - k))

/-- The table page that the walk cache of the page's unit gives for level `k` (R124), if it lies in the slice's allocation. -/
def cachedPtr (s : Dev) (slice space page k : Nat) : Option Nat :=
  ((s.xlt.ptrs.find? fun x => x.unit == unitOf slice page && x.slice == slice && x.space == space && x.level == k
    && x.at_ == levelBits page k).map (·.table)).filter fun a => inAllocation s slice a 4096

/-- The pointer levels of a walk that are read from memory, from a table page on: the leaf's table page or the fault's REASON, with
the entries read. -/
def readPtrs (s : Dev) (slice space page : Nat) : List Nat → Nat → List (Nat × Nat) → (Nat ⊕ Nat) × List (Nat × Nat)
  | [], a, l => (.inl a, l)
  | k :: r, a, l =>
    match walkStep s slice space a (levelBits page k % 512) with
    | .inr e => (.inr e, l)
    | .inl t => readPtrs s slice space page r t (l ++ [(k, t)])

/-- The pointer levels of a page's walk (R118, R121): the walk cache supplies what it holds, the deepest level first (R125). -/
def walkPtrs (s : Dev) (slice space page : Nat) : (Nat ⊕ Nat) × List (Nat × Nat) :=
  match cachedPtr s slice space page 3, cachedPtr s slice space page 2, cachedPtr s slice space page 1 with
  | some a, _, _ => (.inl a, [])
  | none, some a, _ => readPtrs s slice space page [3] a []
  | none, none, some a => readPtrs s slice space page [2, 3] a []
  | none, none, none =>
    let root := tgetD s.xlt.roots (slice * 16 + space) 0
    if root = 0 then (.inr 1, [])
    else if !inAllocation s slice root 4096 then (.inr 5, [])
    else readPtrs s slice space page [1, 2, 3] root []

/-- The walk of a page. -/
def walk (s : Dev) (slice space page : Nat) (acc : BitVec 3) : WalkEnd :=
  match (walkPtrs s slice space page).1 with
  | .inr r => .fault r
  | .inl t => walkLeaf s slice space page t acc

/-- One entry read enters the unit's walk cache, which gives up one of its 1,024 if it is full (R124, log 145). -/
def addPtr (slice space page : Nat) (s : Dev) (x : Nat × Nat) : Dev :=
  let u := unitOf slice page
  let old := s.xlt.ptrs.filter fun p =>
    !(p.unit == u && p.slice == slice && p.space == space && p.level == x.1 && p.at_ == levelBits page x.1)
  let mine := old.filter fun p => p.unit == u
  let s' := { s with freeCtr := s.freeCtr + 1 }
  let kept := if mine.length < 1024 then old
    else match mine[Config.choice s.freeCtr % 1024]? with
      | some p => old.erase p
      | none => old
  { s' with xlt := { s.xlt with ptrs := kept ++ [⟨u, slice, space, x.1, levelBits page x.1, x.2⟩] } }

/-- The pointer entries that a page's walk read enter the walk cache. -/
def fillPtrs (slice space page : Nat) (s : Dev) : Dev := (walkPtrs s slice space page).2.foldl (addPtr slice space page) s

/-! ## The translation cache -/

/-- A cached translation covers a page. One filled before the slice's present epoch is not used (R143 step 1). A run of space 0x1 is
used only for pages whose frame lies in the allocation (R120). -/
def transCovers (s : Dev) (slice space page : Nat) (t : Trans) : Bool :=
  t.slice == slice && t.space == space && t.epoch == (getSlice s slice).epoch && decide (t.page ≤ page) && decide (page ≤ t.page + t.run)
    && (decide (space ≠ 1) || inAllocation s slice ((t.pfn + (page - t.page)) * 4096) 4096)

/-- It covers the page and grants the access. -/
def transHits (s : Dev) (slice space page : Nat) (acc : BitVec 3) (t : Trans) : Bool :=
  transCovers s slice space page t && (!needsR acc || t.r) && (!needsW acc || t.w)

/-- The cached translation that covers a page. -/
def heldTrans (s : Dev) (slice space page : Nat) : Option Trans := s.xlt.cache.find? (transCovers s slice space page)

/-- REASON for which a leaf's permissions refuse an access (R119, Table 4.7). -/
def lacksPerm (acc : BitVec 3) (r w : Bool) : Option Nat :=
  if needsW acc && (!w || (bit acc 2 && !r)) then some 3 else if needsR acc && !r then some 2 else none

/-- The set of a unit's cache that a translation lies in (R124). -/
def transSet (t : Trans) : Nat × Nat := (unitOf t.slice t.page, Config.xltSet t.slice t.space (t.page / 4096) % 1024)

/-- A translation of page `page` enters its unit's cache: it takes the place of what covered the page, and where its set's 16 ways are
taken the least recently used goes (R124). -/
def addTrans (page : Nat) (t : Trans) (s : Dev) : Dev :=
  let kept := s.xlt.cache.filter fun x => !(x.slice == t.slice && x.space == t.space && decide (x.page ≤ page) && decide (page ≤ x.page + x.run))
  let mine := kept.filter fun x => transSet x == transSet t
  let kept := if mine.length < 16 then kept
    else match mine.head? with
      | some x => kept.erase x
      | none => kept
  { s with xlt := { s.xlt with cache := kept ++ [t] } }

/-- The cached translations of a page go: the page is walked again (R134, log 30). -/
def dropTrans (slice space page : Nat) (s : Dev) : Dev :=
  { s with xlt := { s.xlt with cache := s.xlt.cache.filter fun t => !(transCovers s slice space page t) } }

/-- The translation of a page, if cached. -/
def lookup (s : Dev) (slice space page : Nat) (acc : BitVec 3) : Option Trans :=
  s.xlt.cache.find? (transHits s slice space page acc)

/-- The translation of `[a, a + n)`: its physical pieces, or the first page that misses. -/
def translate (s : Dev) (slice space a n : Nat) (acc : BitVec 3) : List (Nat × Nat) ⊕ Nat :=
  (pagesOf a n).foldl (fun r p =>
    match r with
    | .inr m => .inr m
    | .inl l =>
      match lookup s slice space p acc with
      | none => .inr p
      | some t =>
        let lo := Nat.max a (p * 4096)
        let hi := Nat.min (a + n) (p * 4096 + 4096)
        .inl (l ++ [((t.pfn + (p - t.page)) * 4096 + lo % 4096, hi - lo)])) (.inl [])

/-- A read of a slice came back refused from a port's memory: the work entry, fragment table, image or other input at an address (R380). -/
def refusedIn (slice sp a : Nat) (s : Dev) : Dev :=
  match portOfSpace sp with
  | none => s
  | some k =>
    refusedRead k (match translate s slice sp a 1 accRead with
      | .inl l => (l.head?.map (·.1)).getD a
      | .inr _ => a) s

/-- The slice's translation of host memory goes through ATS (R148). -/
def viaAts (s : Dev) (slice space : Nat) : Bool := decide (space = 0) && (getSlice s slice).xltHa && s.pasidEn

/-- Lookups of the bytes `[a, a + n)` have hit: what they used is the most recently used (R124). -/
def touchTrans (slice space a n : Nat) (acc : BitVec 3) (s : Dev) : Dev :=
  (pagesOf a n).foldl (fun s p =>
    match lookup s slice space p acc with
    | some t => { s with xlt := { s.xlt with cache := s.xlt.cache.erase t ++ [t] } }
    | none => s) s

/-- The same for a list of pieces. -/
def touchPieces (slice : Nat) (acc : BitVec 3) (l : List (Nat × Nat × Nat)) (s : Dev) : Dev :=
  l.foldl (fun s p => touchTrans slice p.1 p.2.1 p.2.2 acc s) s

/-- The requester is responder-side. -/
def isRespond : Requestor → Bool
  | .respond _ _ _ => true
  | .engine _ _ _ r => r.isSome
  | _ => false

/-- One more waiter of a walk: each parked packet is a waiter; a requester that waits already adds its access. -/
def joinWalk (who : Requestor) (acc : BitVec 3) (l : List (Requestor × BitVec 3)) : List (Requestor × BitVec 3) :=
  if isRespond who then l ++ [(who, acc)]
  else if l.any fun w => w.1 == who then l.map fun w => if w.1 = who then (who, w.2 ||| acc) else w
  else l ++ [(who, acc)]

/-- The walk is of the page. -/
def walkOf (slice space page : Nat) (w : Walk) : Bool := w.slice == slice && w.space == space && w.page == page

/-- The walk is one of the 32 that its unit carries; later ones wait their turn (R125). -/
def walkRuns (s : Dev) (w : Walk) : Bool :=
  let u := unitOf w.slice w.page
  ((s.xlt.walks.filter fun x => !x.ats && unitOf x.slice x.page == u).take 32).contains w

/-- The ATS requests that have not been sent leave, while the host port takes them (R150, R366). -/
def pumpAts (s : Dev) : Dev :=
  s.xlt.walks.foldl (fun s w =>
    if w.ats && !w.asked && readsOpen s 15 then
      emit (.atsRequest w.slice w.page (pasidOf s w.slice 0))
        { s with xlt := { s.xlt with walks := s.xlt.walks.map fun x => if x == w then { x with asked := true } else x } }
    else s) s

/-- A lookup that missed waits on a walk of its page, or on an ATS request (R125, R126, R150). -/
def startWalk (slice space page : Nat) (acc : BitVec 3) (who : Requestor) (s : Dev) : Dev :=
  let x := s.xlt
  if x.walks.any (walkOf slice space page) then
    let add := fun (w : Walk) => if walkOf slice space page w then { w with waiters := joinWalk who acc w.waiters } else w
    { s with xlt := { x with walks := x.walks.map add } }
  else
    let ats := viaAts s slice space
    let s := { s with xlt := { x with walks := x.walks ++ [⟨slice, space, page, ats, false, joinWalk who acc []⟩] } }
    if ats then pumpAts s else s

/-- The outstanding fault on a page. -/
def faultOf (s : Dev) (slice space page : Nat) : Option Fault1 :=
  s.xlt.faults.find? fun f => f.outstanding && f.crumb.slice == slice && f.crumb.space == space && f.crumb.page == page

/-- A FAILED record covers the page now (R136). -/
def failedAt (s : Dev) (slice space page : Nat) : Bool :=
  s.xlt.failed.any fun f => f.slice == slice && f.space == space && f.page == page

/-! ## Crumbs (R129 to R132) -/

/-- REQ_MASK bit of a requester (Table 4.6). -/
def reqBit : Requestor → BitVec 33
  | .fetch _ _ => 1 <<< 32
  | .send q _ => 1 <<< pipeOf q
  | .respond q _ _ => 1 <<< (4 + pipeOf q)
  | .engine n _ _ _ => 1 <<< (8 + n)
  | .load _ _ => 0

/-- QPN of a requester; of the entry or packet that dispatched engine work. -/
def reqQpn : Requestor → Nat
  | .fetch q _ => q
  | .send q _ => q
  | .respond q _ _ => q
  | .engine _ _ q _ => q
  | .load _ _ => 0

/-- A Crumb with one more waiter (R129). -/
def crumbJoin (c : Crumb) (seenResp : Bool) (acc : BitVec 3) (who : Requestor) : Crumb :=
  let c := { c with reqMask := c.reqMask ||| reqBit who, waiters := c.waiters + 1, access := c.access ||| acc }
  match who with
  | .respond _ e w => if seenResp then c else { c with window := w, firstEpid := e }
  | .engine _ _ _ (some (e, w)) => if seenResp then c else { c with window := w, firstEpid := e }
  | _ => c

/-- A new fault's Crumb. -/
def crumbNew (s : Dev) (slice space page reason id : Nat) (acc : BitVec 3) (who : Requestor) : Crumb :=
  crumbJoin
    { window := 0, reqMask := 0, slice := slice, resp := isRespond who, firstQpn := reqQpn who, firstEpid := 0
      faultId := id, waiters := 0, time := time32 s, reason := reason, access := 0, space := space
      unit := unitOf slice page, page := page } false acc who

/-- The fault is one whose Crumb still waits for the slice's batch or hold. -/
def crumbWaits (slice : Nat) (f : Fault1) : Bool := f.hasCrumb && f.unwritten && f.crumb.slice == slice

/-- Writes one Crumb at the fault queue's producer index. -/
def writeCrumb (slice : Nat) (f : Fault1) (s : Dev) : Dev :=
  match (getSlice s slice).faultQ with
  | none => s
  | some r =>
    let bits := encCrumb f.crumb (phaseOf r.prod r.lg)
    let s := storeRecord r.space r.base r.lg r.prod bits slice s
    let s := emit (.crumb slice r.prod r.space (r.base + r.prod.toNat % 2 ^ r.lg * 32) bits) s
    let s := modSlice slice (fun x => { x with faultQ := some { r with prod := r.prod + 1 } }) s
    let fs := s.xlt.faults.map fun g => if g == f then { g with unwritten := false } else g
    { s with xlt := { s.xlt with faults := fs.filter fun g => g.outstanding || (g.hasCrumb && g.unwritten) } }

/-- Writes the Crumbs that have come due, in creation order, while the fault queue has room; then FAULT_BATCH (R132). -/
def pumpCrumbs (slice : Nat) (s : Dev) : Dev :=
  match (getSlice s slice).faultQ with
  | none => s
  | some r =>
    let due := s.xlt.faults.filter fun f => crumbWaits slice f && f.due
    let s' := due.foldl (fun s f =>
      match (getSlice s slice).faultQ with
      | none => s
      | some q => if ringOpen s q then writeCrumb slice f s else s) s
    let n := match (getSlice s' slice).faultQ with
      | none => 0
      | some q => dist q.prod r.prod
    if n = 0 then s' else sliceEvent slice 0x10 0 (bankXlt 0) r.prod.toNat n 0 s'

/-- The slice's batch is due: every waiting Crumb may be written (R132). -/
def deliverBatch (slice : Nat) (s : Dev) : Dev :=
  let fs := s.xlt.faults.map fun f => if crumbWaits slice f then { f with due := true } else f
  let s := { s with xlt := { s.xlt with faults := fs } }
  pumpCrumbs slice (modSlice slice (fun x => { x with crumbsFrom := none }) s)

/-- Crumbs of the batch that is gathering. -/
def batchCount (s : Dev) (slice : Nat) : Nat := s.xlt.faults.countP fun f => crumbWaits slice f && !f.due

/-- The moment the FAULT_TIMEOUT of a wait that begins now ends (R137). -/
def faultDue (s : Dev) (slice : Nat) : Nat := s.now + (getSlice s slice).faultTimeout

/-- Outstanding faults of a unit. -/
def unitFaults (s : Dev) (u : Nat) : Nat := s.xlt.faults.countP fun f => f.outstanding && f.crumb.unit == u

/-- A FAILED record on a page for 10 ms (R136). -/
def addFailed (slice space page : Nat) (s : Dev) : Dev :=
  let x := s.xlt
  { s with xlt := { x with
    failed := (x.failed.filter fun f => !(f.slice == slice && f.space == space && f.page == page))
      ++ [⟨slice, space, page, s.now + 10000000⟩] } }

/-- The faults whose Page Requests are outstanding (R149). -/
def pagesAsked (s : Dev) : Nat := s.xlt.faults.countP fun f => f.outstanding && f.asked

/-- The Page Requests of faults that have sent none leave, oldest first, within the 512 that the adapter can have outstanding and the
allocation that host software has programmed (R149). A slice whose page requests are stopped sends none (R150), nor does the adapter
while the host port is closed or PASID is disabled (R367, R379). -/
def pumpPages (s : Dev) : Dev :=
  s.xlt.faults.foldl (fun s f =>
    if f.outstanding && !f.hasCrumb && !f.asked && !(getSlice s f.crumb.slice).priStopped && s.pasidEn && portReady s 15 0
        && decide (pagesAsked s < Nat.min 512 s.xlt.priAlloc) then
      emit (.pageRequest f.crumb.slice f.crumb.page f.id (pasidOf s f.crumb.slice 0))
        { s with xlt := { s.xlt with faults := s.xlt.faults.map fun g => if g == f then { g with asked := true } else g } }
    else s) s

/-- Opens a new fault (R128, R130); in host-assisted mode without a Crumb, with its Page Request (R150). A FAULT_ID is not one of a
fault of the slice that is outstanding, or whose Crumb has still to be written (R132). -/
def openFault (w : WaitingFault) (s : Dev) : Dev :=
  let free := fun i => !(s.xlt.faults.any fun f => f.crumb.slice == w.slice && f.id == i)
  match choose 65536 free s with
  | (none, s) => s
  | (some id, s) =>
    let f : Fault1 :=
      { id := id, crumb := crumbNew s w.slice w.space w.page w.reason id w.access w.who, outstanding := true
        unwritten := !w.ats, due := false, hasCrumb := !w.ats, asked := false, waiters := [(w.who, w.access, w.due)] }
    let s := { s with xlt := { s.xlt with faults := s.xlt.faults ++ [f] } }
    if w.ats then pumpPages s
    else
      let s := modSlice w.slice (fun x => { x with crumbsFrom := some (x.crumbsFrom.getD s.now) }) s
      if 64 ≤ batchCount s w.slice then deliverBatch w.slice s else s

/-- A requester joins an outstanding fault (R129). -/
def joinFault (f : Fault1) (acc : BitVec 3) (who : Requestor) (due : Nat) (s : Dev) : Dev :=
  let seen := f.waiters.any fun w => isRespond w.1
  let f' := { f with
    crumb := if f.unwritten then crumbJoin f.crumb seen acc who else f.crumb
    waiters := f.waiters ++ [(who, acc, due)] }
  { s with xlt := { s.xlt with faults := s.xlt.faults.map fun g => if g == f then f' else g } }

/-- A lookup of a page has faulted for a requester: it joins the outstanding fault, or opens one, or waits for a free
place in the unit's fault table (R128, R129, R135). `ats` says that host translation denied it (R150). -/
def fault (slice space page reason : Nat) (ats : Bool) (acc : BitVec 3) (who : Requestor) (s : Dev) : Dev :=
  let due := faultDue s slice
  match faultOf s slice space page with
  | some f => joinFault f acc who due s
  | none =>
    if 1024 ≤ unitFaults s (unitOf slice page) then
      if isRespond who then s
      else { s with xlt := { s.xlt with waiting := s.xlt.waiting ++ [⟨slice, space, page, reason, ats, acc, who, due⟩] } }
    else openFault ⟨slice, space, page, reason, ats, acc, who, due⟩ s

/-- A fault that waits for a place in a unit's table takes one, while there is one (R135). It is opened, with its Crumb, whether or
not its requester still stands: the adapter does not look (log 146). -/
def pumpWaiting1 (u : Nat) (s : Dev) : Dev :=
  match s.xlt.waiting.find? fun w => unitOf w.slice w.page == u with
  | none => s
  | some w =>
    let s' := { s with xlt := { s.xlt with waiting := s.xlt.waiting.erase w } }
    match faultOf s w.slice w.space w.page with
    | some f => joinFault f w.access w.who w.due s'
    | none => if 1024 ≤ unitFaults s u then s else openFault w s'

/-- The faults that wait for a unit's table take the places that are free. -/
def pumpWaiting (u : Nat) (s : Dev) : Dev := times s.xlt.waiting.length (pumpWaiting1 u) s

/-- DELAY of the PAGE_WAIT NAK for a page, in units of 100 ns (R135, R140, R150). -/
def pageWaitDelay (s : Dev) (slice space page : Nat) : Nat :=
  let x := getSlice s slice
  let left := match faultOf s slice space page with
    | none => 0
    | some f =>
      if f.hasCrumb && f.unwritten && !f.due then
        (match x.crumbsFrom with | some t => t + 20000 - s.now | none => 0)
      else 0
  Nat.min 0xFFFF (ceilDiv (left + x.pageWaitBase) 100)

/-! ## Holders (R142) -/

/-- One more access of operation `op`; its token is the first part. An operation's number is `freeCtr` as it begins. -/
def addHolder (op slice : Nat) (window : Option Nat) (kind : HolderKind) (id : Nat) (s : Dev) : Nat × Dev :=
  let t := s.freeCtr
  (t, { s with
    freeCtr := t + 1
    xlt := { s.xlt with holders := s.xlt.holders ++ [⟨t, slice, (getSlice s slice).epoch, window, kind, id, op⟩] } })

/-- An access for each piece of a list, with their tokens. -/
def addHolders (op slice : Nat) (kind : HolderKind) (id : Nat) (l : List (Nat × Nat × Nat)) (s : Dev) : List Nat × Dev :=
  l.foldl (fun a _ =>
    let (t, s) := addHolder op slice none kind id a.2
    (a.1 ++ [t], s)) ([], s)

/-- Number of holders: an operation counts once (Table 4.10). -/
def holderCount (l : List Holder) : Nat := (l.map (·.op)).eraseDups.length

/-- `a` is epoch `e` or an earlier one, within 2^15 epochs. -/
def epochLe (a e : BitVec 16) : Bool := decide ((e - a).toNat < 2 ^ 15)

/-- The holders of a slice of epoch `e` or earlier (R143 step 4). -/
def holdersOf (s : Dev) (slice : Nat) (e : BitVec 16) : List Holder :=
  s.xlt.holders.filter fun h => h.slice == slice && epochLe h.epoch e

/-- The holders of a window (R114). -/
def holdersOfWindow (s : Dev) (w : Nat) : List Holder := s.xlt.holders.filter fun h => h.window == some w

/-- Closed epochs of a slice that have holders (R146). -/
def closedEpochs (s : Dev) (slice : Nat) : List (BitVec 16) :=
  ((s.xlt.holders.filter fun h => h.slice == slice && !(h.epoch == (getSlice s slice).epoch)).map (·.epoch)).eraseDups

/-- Number of a holder's kind (INVAL_HOLDER in Table 12.12). -/
def holderKindNo : HolderKind → Nat
  | .qp => 0
  | .engine => 1
  | .port => 2

/-- The INVAL_HOLDER events for the holding objects, at most 64 (R114, R145). An event names one epoch, so an object that holds
translations of two closed epochs gives one event for each (log 147). -/
def holderEvents (slice : Nat) (l : List Holder) (byWindow : Bool) (s : Dev) : Dev :=
  let objs := (l.map fun h =>
    (if byWindow then 2 ^ 31 + h.window.getD 0 else h.epoch.toNat, holderKindNo h.kind, h.id)).eraseDups
  (objs.take 64).foldl (fun s o => sliceEvent slice 0x11 0 (bankXlt 0) o.1 (o.2.1 * 2 ^ 56 + low o.2.2 24) 0 s) s

/-! ## Invalidation (R143) -/

/-- Steps 1 to 3 of R143 over pages `[lo, hi)` of a space of a slice: the epoch advances, translations and FAILED records
go, and with them what an earlier turn of the 16-bit epoch filled under the number that now comes. The epoch closed is the first part. -/
def invalidate (slice space lo hi : Nat) (s : Dev) : BitVec 16 × Dev :=
  let e := (getSlice s slice).epoch
  let x := s.xlt
  (e, modSlice slice (fun y => { y with epoch := y.epoch + 1 }) { s with xlt := { x with
    ptrs := x.ptrs.filter fun p =>
      let n := 2 ^ (9 * (4 - p.level))
      !(p.slice == slice && p.space == space && decide (p.at_ * n < hi) && decide (lo < (p.at_ + 1) * n))
    cache := x.cache.filter fun t =>
      !(t.slice == slice && (t.epoch == e + 1 || (t.space == space && decide (t.page < hi) && decide (lo ≤ t.page + t.run))))
    failed := x.failed.filter fun f =>
      !(f.slice == slice && f.space == space && decide (lo ≤ f.page) && decide (f.page < hi)) } })

/-- Pages of the whole untranslated space (R118). -/
def allPages : Nat := 2 ^ 36

/-! ## Windows (Table 4.2, R116) -/

/-- INDEX and TAG of a WKEY (Table 4.1). -/
def wkIndex (k : Nat) : Nat := k / 256 % 2 ^ 24
def wkTag (k : Nat) : BitVec 8 := BitVec.ofNat 8 k

/-- The window's permission for a packet opcode (Table 4.2). -/
def winPermits (w : Window) (op : Nat) : Bool :=
  if op = pkWrite ∨ op = pkWriteImm then w.rw
  else if op = pkReadReq then w.rr
  else if pkAtomic op then w.ra
  else if 8 ≤ op then w.rt
  else false

/-- Checks 1 to 3 and 6 of R116: the window of a key, for a request of a slice. -/
def windowOf (s : Dev) (slice op wkey off : Nat) : Option Window :=
  match tget s.windows (wkIndex wkey) with
  | none => none
  | some w =>
    if wkIndex wkey ≠ 0 ∧ w.v = true ∧ w.tag = wkTag wkey ∧ w.owner = slice ∧ winPermits w op = true
        ∧ (pkAtomic op = false ∨ off % 8 = 0) then some w
    else none

/-- The entry of a window in the format of Table 4.2. -/
def encWindow (w : Window) : Nat :=
  pack [(w.base, 48), (w.length, 48), (0, 4), (w.space, 4), (0, 2), (b2n w.rt, 1), (b2n w.ra, 1), (b2n w.rr, 1),
    (b2n w.rw, 1), (b2n w.v, 1), (w.owner, 9), (w.tag.toNat, 8)]

/-- The slice has an outstanding Crumb (Table 1.5). -/
def crumbsOut (s : Dev) (slice : Nat) : Bool :=
  s.xlt.faults.any fun f => f.crumb.slice == slice && f.hasCrumb && (f.outstanding || f.unwritten)

/-- The slice's translation mode switches at the point of Table 1.5. Moving back into host-assisted mode ends a stop of its page
requests (R150). -/
def trySwitch (slice : Nat) (s : Dev) : Dev :=
  match (getSlice s slice).xltHaNext with
  | some (v, _, true) =>
    if crumbsOut s slice then s
    else modSlice slice (fun x => { x with xltHa := v, xltHaNext := none, priStopped := x.priStopped && !(v && !x.xltHa) }) s
  | _ => s

end Sys2Proof.Machine
end

