-- ==== Sys2Proof/Machine/QpOps.lean ====
section
/-!
DEFINITION. Sys2Proof/Machine/QpOps.lean: operations on a queue pair: fetching of work entries (R49), retirement and
flushing (R60, R62, R73), encryption (R437 to R442), and the building of packets, ACKs and NAKs (R82 to R102).
-/
namespace Sys2Proof.Machine

/-! ## Outstanding PSNs -/

/-- The PSN counts as acknowledged although it is still listed: its response is placed, or an ACK's SACK_MAP named it
(R98, R104). -/
def ackedOut (o : OutPkt) : Bool := if opFetchesPk o.opcode then o.placed else o.sacked
where
  /-- The packet opcode asks for a response. -/
  opFetchesPk (op : Nat) : Bool := op == pkReadReq || pkAtomic op

/-- The PSNs of an outstanding packet: those of its READ_REQ, or its own. -/
def groupOf (q : Qp) (o : OutPkt) : List OutPkt := q.rqr.out.filter fun x => decide (dist x.psn o.psn < o.nPsn)

/-- Some PSN of an outstanding packet is not acknowledged. -/
def groupOpen (q : Qp) (o : OutPkt) : Bool := (groupOf q o).any fun x => !ackedOut x

/-- The first outstanding PSN that is to be resent. -/
def nextResend (q : Qp) : Option OutPkt := q.rqr.out.find? fun o => o.resend && o.head && groupOpen q o

/-! ## Items -/

/-- An item changes. -/
def modItem (id : Nat) (f : Item → Item) (s : Dev) : Dev :=
  { s with items := s.items.map fun i => if i.id = id then f i else i }

def findItem (s : Dev) (id : Nat) : Option Item := s.items.find? fun i => i.id == id

/-- Items leave the adapter, and their holders end. -/
def dropItems (f : Item → Bool) (s : Dev) : Dev :=
  (s.items.filter f).foldl (fun s i => endHolder i.srcToken (endHolder i.token s)) { s with items := s.items.filter fun i => !f i }

/-- The item has not started on an engine, or stands aside. -/
def itemIdle (i : Item) : Bool :=
  match i.stage with
  | .queued => true
  | .waiting _ => true
  | .aside _ => true
  | _ => false

/-- Items of a queue pair that end with its work: those of packets that are not accepted, and those of its requester side that run on
no engine (R73). -/
def dropQpItems (qpn : Nat) (s : Dev) : Dev :=
  dropItems (fun i => i.qpn == qpn && (i.arr.isSome || (itemIdle i && match i.dest with
    | .target _ _ _ _ _ => false
    | _ => true))) s

/-- Entry for which an item works on the requester side. -/
def itemEntry (s : Dev) (i : Item) : Option (Nat × U32) :=
  match i.dest with
  | .wire qpn entry _ => some (qpn, entry)
  | .own g _ => (((tget s.groups g).bind fun x => x.moe).bind fun m => m.run).map fun r => (r.qpn, r.index)
  | .target _ _ _ _ _ => none

/-! ## The work queues -/

/-- The send or receive queue of a queue pair. -/
def wq (q : Qp) (rq : Bool) : WorkQueue := if rq then q.rq else q.sq
def setWq (q : Qp) (rq : Bool) (w : WorkQueue) : Qp := if rq then { q with rq := w } else { q with sq := w }
def modWq (qpn : Nat) (rq : Bool) (f : WorkQueue → WorkQueue) (s : Dev) : Dev :=
  modQp qpn (fun q => setWq q rq (f (wq q rq))) s

/-- A queue's completion queue. -/
def cqOf (q : Qp) (rq : Bool) : Nat := if rq then q.p.rcqn else q.p.scqn

/-- An empty work queue with a ring. -/
def newQueue (r : Ring) : WorkQueue where
  ring := r
  next := r.cons
  cache := []
  reading := none
  readNo := 0
  rereads := 0
  rereadAt := 0
  rereadDue := none
  stopped := false
  paused := false
  faultDue := none
  posted := []

/-- Index of the first entry of a queue that has not started (R50): for the receive queue, the first that no message in
progress has taken, nor any before it. -/
def firstUnstarted (q : Qp) (rq : Bool) : U32 :=
  if rq then q.rsp.msgs.foldl (fun i m =>
    match m.recvIndex with
    | some r => if seqLe i r then r + 1 else i
    | none => i) q.rq.ring.cons
  else match q.rqr.started.getLast? with
    | some e => e.e.index + 1
    | none => q.sq.ring.cons

/-- The cached entries of a queue that have not started: a receive entry that a message has taken has left the cache. -/
def unstartedIn (q : Qp) (rq : Bool) : List CachedEntry :=
  (wq q rq).cache.filter fun c => !seqLt c.index (firstUnstarted q rq)

/-- Entries in the entry cache (R49): 32,768 places for all queues. -/
def cacheUsed (s : Dev) : Nat :=
  s.qps.foldl (fun n p => n + (unstartedIn p.2 false).length + (unstartedIn p.2 true).length) 0

/-- A queue pair that is held or frozen, or whose transmit key slot is stopped, starts and sends nothing (R365, R411,
R442). -/
def keyStopped (s : Dev) (q : Qp) : Bool :=
  match q.p.txKey with
  | none => false
  | some k => ((tget s.keySlots k).map fun x => x.stoppedSince.isSome).getD false

def quiet (s : Dev) (q : Qp) : Bool := q.held.isSome || q.frozen.isSome || keyStopped s q

/-- The queue may read entries now: R42's state, a LIVE slice, and no stop, pause, hold, read or fault in the way. The entry that
waits to be read again is read by its re-read only. -/
def mayFetch (s : Dev) (q : Qp) (rq : Bool) : Bool :=
  let w := wq q rq
  canRead s w.ring.space &&
  (q.st == .live || (rq && q.st == .drain)) && sliceLive s q.slice && q.held.isNone && q.frozen.isNone
    && !w.stopped && !w.paused && w.reading.isNone && (w.rereadDue.isNone || w.next != w.rereadAt) && w.faultDue.isNone

/-- Untranslated address of a ring's entry at an index. -/
def entryAddr (r : Ring) (i : U32) : Nat := r.base + i.toNat % 2 ^ r.lg * 64

/-- The next index to read, past entries that pushes have placed in the cache (R45). -/
def skipCached (w : WorkQueue) : Nat → WorkQueue
  | 0 => w
  | n + 1 => if w.cache.any fun c => c.index == w.next && !c.tablePending then skipCached { w with next := w.next + 1 } n else w

/-- Entries that the next read asks for: at most `cap` unstarted ones in the cache, contiguous, below the producer index, below the next
pushed entry and below one that waits to be read again, within one page so that one translation serves it (R49). -/
def fetchCount (s : Dev) (q : Qp) (rq : Bool) (cap : Nat) (w : WorkQueue) : Nat :=
  let n := 2 ^ w.ring.lg
  let last := if w.rereadDue.isSome then Nat.min (dist w.rereadAt w.next) (dist w.ring.prod w.next) else dist w.ring.prod w.next
  let upTo := w.cache.foldl (fun m c => if seqLe w.next c.index && !c.tablePending then Nat.min m (dist c.index w.next) else m) last
  Nat.min (Nat.min (cap - ((unstartedIn q rq).countP fun c => !c.tablePending)) upTo)
    (Nat.min (Nat.min (n - w.next.toNat % n) (32768 - cacheUsed s)) ((4096 - entryAddr w.ring w.next % 4096) / 64))

/-! ## Lookups that do not hit -/

/-- A started entry changes. -/
def modSend (qpn : Nat) (i : U32) (f : SendEntry → SendEntry) (s : Dev) : Dev :=
  modQp qpn (fun q => { q with rqr := { q.rqr with
    started := q.rqr.started.map fun e => if e.e.index = i then f e else e } }) s

/-- The started entry that a requester-side fault stops changes. -/
def modOwner (own : Option (Nat × U32)) (f : SendEntry → SendEntry) (s : Dev) : Dev :=
  match own with
  | some (n, i) => modSend n i f s
  | none => s

/-- A requester-side fault begins: the queue or the entry stops until `due`, a resend's timer stops, and an engine sets its item aside
(R137 to R139, R539). -/
def stopWaiter (who : Requestor) (due : Nat) (s : Dev) : Dev :=
  match who with
  | .fetch qpn rq => modWq qpn rq (fun w => { w with faultDue := some due }) s
  | .send qpn own =>
    modQp qpn (fun q =>
      if (nextResend q).isSome then { q with rqr := { q.rqr with rtoStopped := true, rtoDue := none } } else q)
      (modOwner own (fun e => { e with faultDue := some due }) s)
  | .engine n id _ none => modItem id (fun i => { i with stage := .aside n, faultDue := some due }) s
  | _ => s

/-- The items that a fault has set aside for entries of a queue pair: the end of each FAULT_TIMEOUT, with the entry. -/
def itemFaults (s : Dev) (qpn : Nat) : List (Nat × U32) :=
  s.items.filterMap fun i =>
    i.faultDue.bind fun t => (itemEntry s i).bind fun o => if o.1 = qpn then some (t, o.2) else none

/-- A requester-side fault stops the queue (R138). -/
def queueFaulted (s : Dev) (qpn : Nat) (q : Qp) : Bool :=
  (q.rqr.started.any fun x => x.faultDue.isSome) || !(itemFaults s qpn).isEmpty

/-- A requester-side lookup that has no translation for its access: one whose page is cached without the permission faults (R119, R124);
else the page is walked. Where translation goes through ATS, the host is asked again (log 30). -/
def missWalk (slice space page : Nat) (acc : BitVec 3) (who : Requestor) (s : Dev) : Dev :=
  match (heldTrans s slice space page).bind fun t => lacksPerm acc t.r t.w with
  | some reason =>
    if viaAts s slice space then startWalk slice space page acc who s
    else stopWaiter who (faultDue s slice) (fault slice space page reason false acc who s)
  | none => startWalk slice space page acc who s

/-- A read of `n` entries of a queue begins. -/
def startFetch (qpn : Nat) (rq : Bool) (slice n : Nat) (w : WorkQueue) (s : Dev) : Dev :=
  issueFetch qpn rq slice w.ring.space w.next n
    (modWq qpn rq (fun _ => { w with reading := some (w.next, n), readNo := s.readNo }) { s with readNo := s.readNo + 1 })

/-- The queue gives up its outstanding read: what returns is discarded, and a reset of the slice still awaits it (R340). The caller
clears the read from the queue. -/
def addStale (qpn : Nat) (rq : Bool) (q : Qp) (s : Dev) : Dev :=
  let w := wq q rq
  match w.reading with
  | some (i, n) => { s with staleReads := s.staleReads ++ [⟨q.slice, qpn, rq, i, n, w.ring, w.readNo⟩] }
  | none => s

/-- Issues a read of entries where the queue may, for up to `cap` unstarted ones in the cache (R49, R358). The ring is read through the
slice's translation; a miss walks on behalf of the fetch (R126, R539). -/
def fetchUpTo (cap qpn : Nat) (rq : Bool) (s : Dev) : Dev :=
  match getQp s qpn with
  | none => s
  | some q =>
    let w := skipCached (wq q rq) 8
    let n := fetchCount s q rq cap w
    if !mayFetch s q rq || decide (n = 0) then s
    else
      match translate s q.slice w.ring.space (entryAddr w.ring w.next) (64 * n) accRead with
      | .inr page => missWalk q.slice w.ring.space page accRead (.fetch qpn rq) s
      | .inl _ =>
        startFetch qpn rq q.slice n w (touchTrans q.slice w.ring.space (entryAddr w.ring w.next) (64 * n) accRead s)

/-- The prefetch of up to 8 entries (R49). -/
def fetchQueue (qpn : Nat) (rq : Bool) (s : Dev) : Dev := fetchUpTo 8 qpn rq s

/-- Stops fetching at an index with DB_AHEAD; `byFault` sets its FETCH_FAULT bit (R49, R539). -/
def stopFetch (qpn : Nat) (rq byFault : Bool) (i : U32) (s : Dev) : Dev :=
  match getQp s qpn with
  | none => s
  | some q =>
    let w := { wq q rq with stopped := true, reading := none, rereadDue := none, rereads := 0, faultDue := none, next := i }
    sliceEvent q.slice 0x6 0 bankCore qpn (b2n byFault * 2 ^ 33 + b2n rq * 2 ^ 32 + i.toNat) 0
      (setQp qpn (setWq q rq w) (addStale qpn rq q s))

/-- Spaces that the entry names. -/
def entrySpaces (e : CachedEntry) : List Nat :=
  (if weTable e.raw then [weTableSpace e.raw] else []) ++ (weFrags e.raw e.table).map fragSpace

/-- The cached entry at an index. -/
def cachedAt (w : WorkQueue) (i : U32) : Option CachedEntry := w.cache.find? fun e => e.index == i

/-- The cached entries from an index on are discarded and read again from there (R52). A re-read sequence goes on: it neither
starts again nor gains re-reads (R49). -/
def dropCached (w : WorkQueue) (i : U32) : WorkQueue :=
  { w with cache := w.cache.filter (fun e => seqLt e.index i), next := i, reading := none }

/-- The same where fetching pauses as well (R51). -/
def dropUnstarted (w : WorkQueue) (i : U32) : WorkQueue := { dropCached w i with rereadDue := none, rereads := 0 }

/-! ## Completions of entries -/

/-- WR_TAG that a completion without a reading of the ring carries (R62). -/
def tagOf (e : Option CachedEntry) : U32 :=
  match e with
  | some e => if e.poisoned then 0 else weTag e.raw
  | none => 0

/-- The status of a flushed entry: the owner of the failing PSN takes the status of the cause (R73). -/
def flushStatus (q : Qp) (rq : Bool) (i : U32) : BitVec 8 :=
  match q.err with
  | some e => if e.owner.contains (rq, i) then e.status else stFlushed
  | none => stFlushed

/-- A completion with no immediate and no timestamp. -/
def plainCompletion (qpn : Nat) (rq : Bool) (i : U32) (tag : U32) (st : BitVec 8) (bytes : Nat) : Completion where
  wqIndex := i
  srcEpid := 0
  timestamp := 0
  imm := 0
  byteCount := bytes
  rq := rq
  tsMissing := false
  immValid := false
  status := st
  qpn := qpn
  wrTag := tag
  stampGroup := none

/-- The timestamp queue entries that a queue pair's messages and entries hold are free again (R316). -/
def freeStamps (q : Qp) (s : Dev) : Dev :=
  q.rqr.started.foldl (fun s e => freeStamp e.stampGroup s) (q.rsp.msgs.foldl (fun s m => freeStamp m.stampGroup s) s)

/-! ## The context cache (R76 to R80) -/

/-- Contexts that a pipeline caches. -/
def cachedIn (s : Dev) (k : Nat) : Nat := s.qps.countP fun p => p.2.cached && pipeOf p.1 == k

/-- A context that R80 may evict from pipeline `k`: cached, not pinned, with no packet parked. -/
def evictable (s : Dev) (k : Nat) (p : Nat × Qp) : Bool :=
  p.2.cached && !p.2.pinned && pipeOf p.1 == k && !((tgetD s.miss k []).any fun x => x.qpn == p.1)

/-- The least recently used context that may be evicted; of equals the lowest QPN. -/
def evictChoice (s : Dev) (k : Nat) : Option (Nat × Qp) :=
  s.qps.foldl (fun b p =>
    if evictable s k p then
      match b with
      | none => some p
      | some m => if p.2.usedAt < m.2.usedAt then some p else b
    else b) none

/-- A full pipeline evicts one context, which is written back (R80, R391). -/
def evictOne (k : Nat) (s : Dev) : Dev :=
  if cachedIn s k < 16384 then s
  else match evictChoice s k with
    | some p => writeBack (contextAddr p.1) 512 (setQp p.1 { p.2 with cached := false } s)
    | none => s

/-- A queue pair's context is on-die and has just been used (R76, R80). -/
def cacheContext (qpn : Nat) (s : Dev) : Dev :=
  match getQp s qpn with
  | none => s
  | some q =>
    let s := if q.cached then s else evictOne (pipeOf qpn) s
    modQp qpn (fun q => { q with cached := true, usedAt := s.now }) s

/-- Ends every holder of a list of tokens. -/
def endHolders (l : List Nat) (s : Dev) : Dev := l.foldl (fun s t => endHolder (some t) s) s

/-- What retirement of a STAGE_SEND entry does to its stream: one fewer unretired (R231). -/
def stageRetired (q : Qp) (e : SendEntry) (s : Dev) : Dev :=
  match q.stream, e.mbSeq with
  | some n, some _ =>
    match tget s.streams n with
    | some x => { s with streams := tset s.streams n { x with unretired := x.unretired - 1 } }
    | none => s
  | _, _ => s

/-- The timestamp fields of a completion: the instant that was captured, with the queue that holds it, or that its capture was dropped
(R316, R317). -/
def stamped (c : Completion) (stamp : Option Nat) (lost : Bool) (g : Option Nat) : Completion :=
  { c with timestamp := if lost then 0 else stamp.getD 0, tsMissing := lost, stampGroup := g }

/-- The completion of a send entry with a status (Table 2.9, R315, R317). An entry of which no packet has left the lanes takes its
timestamp as the completion is built, unless it is flushed. -/
def sendCompletionAs (s : Dev) (qpn : Nat) (e : SendEntry) (st : BitVec 8) (bytes : Nat) : Completion :=
  let c := plainCompletion qpn false e.e.index (tagOf (some e.e)) st bytes
  if weTsReq e.e.raw && !e.e.poisoned then
    stamped c (if e.stamp.isNone && st != stFlushed then some (timeNs s) else e.stamp) e.stampLost e.stampGroup
  else { c with stampGroup := e.stampGroup }

/-- The completion of a send entry that has ended. -/
def sendCompletion (s : Dev) (qpn : Nat) (e : SendEntry) : Completion := sendCompletionAs s qpn e e.status e.bytes

/-- QP_DRAINED when the last started send entry of a draining queue pair has retired (R72). -/
def checkDrained (qpn : Nat) (s : Dev) : Dev :=
  match getQp s qpn with
  | none => s
  | some q =>
    if q.st = .drain ∧ q.rqr.started = [] ∧ q.rqr.drained = false then
      sliceEvent q.slice 0x4 0 (bankPipe (pipeOf qpn)) qpn q.sq.ring.cons.toNat 0
        (setQp qpn { q with rqr := { q.rqr with drained := true } } s)
    else s

/-- The head started entry retires if its work is done and its completion, where R60 asks for one, is accepted. -/
def retireSend1 (qpn : Nat) (s : Dev) : Dev :=
  match getQp s qpn with
  | none => s
  | some q =>
    match q.rqr.started with
    | [] => s
    | e :: r =>
      if !e.done then s
      else
        let signal := weSignal e.e.raw || e.status != stOk
        let (ok, s) :=
          if signal then
            let (p, s) := deliver q.p.scqn (sendCompletion s qpn e) false s
            (p != .refused, s)
          else (true, freeStamp e.stampGroup s)
        if !ok then s
        else
          let s := modQp qpn (fun q => { q with
            rqr := { q.rqr with started := r }
            sq := { q.sq with ring := { q.sq.ring with cons := e.e.index + 1 } } }) s
          endHolders e.tokens (stageRetired q e s)

/-- Send entries retire in ring order while they are done (R60, R97). -/
def retireSends (qpn : Nat) (s : Dev) : Dev :=
  let n := ((getQp s qpn).map fun q => q.rqr.started.length).getD 0
  checkDrained qpn (times n (retireSend1 qpn) s)

/-- A started entry's work is done with a status; earlier poison makes an OK one DATA_POISONED (R400). An entry that was not
carried out transferred no bytes (log 38). -/
def finishSend (qpn : Nat) (i : U32) (st : BitVec 8) (s : Dev) : Dev :=
  modSend qpn i (fun e =>
    if e.done then e
    else { e with
      done := true, bytes := if st = stOk then e.bytes else 0
      status := if st = stOk && e.poisoned then stPoisoned else st }) s

/-! ## Flushing (R62, R73) -/

/-- The message that has taken a receive entry. -/
def msgAt (q : Qp) (i : U32) : Option RxMsg := q.rsp.msgs.find? fun m => m.recvIndex == some i

/-- The started send entry at an index. -/
def startedAt (q : Qp) (i : U32) : Option SendEntry := q.rqr.started.find? fun e => e.e.index == i

/-- The completion of the oldest entry of a queue, as it ends with a status that did not come from its own work (R58, R62, R315 to R317).
A receive entry names the sender of the message that has taken it, or of the packet that failed with it. -/
def flushCompletion (s : Dev) (qpn : Nat) (q : Qp) (rq : Bool) (i : U32) (st : BitVec 8) : Completion :=
  if rq then
    let c := plainCompletion qpn true i (tagOf (cachedAt q.rq i)) st 0
    match msgAt q i with
    | some m => { stamped c m.stamp m.stampLost m.stampGroup with srcEpid := q.p.remEpid }
    | none => { c with srcEpid := if q.err.any fun e => e.owner.contains (rq, i) then q.p.remEpid else 0 }
  else
    match startedAt q i with
    | some e => sendCompletionAs s qpn e st 0
    | none =>
      let e := cachedAt q.sq i
      let now := st != stFlushed && e.any fun e => weTsReq e.raw && !e.poisoned
      { plainCompletion qpn false i (tagOf e) st 0 with timestamp := if now then timeNs s else 0 }

/-- The oldest unretired entry of a queue completes; false where its completion is not accepted (R66). -/
def flush1 (qpn : Nat) (rq : Bool) (s : Dev) : Bool × Dev :=
  match getQp s qpn with
  | none => (false, s)
  | some q =>
    let w := wq q rq
    if w.ring.prod = w.ring.cons then (false, s)
    else
      let i := w.ring.cons
      let started := if rq then none else startedAt q i
      let (p, s) := deliver (cqOf q rq) (flushCompletion s qpn q rq i (flushStatus q rq i)) false s
      if p = .refused then (false, s)
      else
        let s := match started with
          | some x => endHolders x.tokens (stageRetired q x s)
          | none => s
        (true, modQp qpn (fun q =>
          let w := wq q rq
          let q := setWq q rq { w with
            ring := { w.ring with cons := i + 1 }, cache := w.cache.filter fun x => !(x.index == i) }
          if rq then { q with rsp := { q.rsp with msgs := q.rsp.msgs.filter fun m => !(m.recvIndex == some i) } }
          else { q with rqr := { q.rqr with started := q.rqr.started.filter fun x => !(x.e.index == i) } }) s)

/-- A queue's entries complete until it is empty or a completion is not accepted. -/
def flushQueue (qpn : Nat) (rq : Bool) : Nat → Dev → Dev
  | 0, s => s
  | n + 1, s =>
    match flush1 qpn rq s with
    | (true, s) => flushQueue qpn rq n s
    | (false, s) => s

/-- Both queues of the queue pair are empty. -/
def flushed (q : Qp) : Bool := q.sq.ring.prod == q.sq.ring.cons && q.rq.ring.prod == q.rq.ring.cons

/-- QP_ERROR as step 4 of R73 writes it (Table 12.12). -/
def qpErrorEvent (qpn : Nat) (q : Qp) (e : ErrInfo) (s : Dev) : Dev :=
  let psn := match e.psn with | some p => p.toNat * 2 ^ 32 + 2 ^ 8 | none => 0
  sliceEvent q.slice 0x3 2 (bankPipe (pipeOf qpn)) qpn (psn + e.cause) e.arg2 s

/-- Flushes a queue pair in ERROR as far as its completion queues accept; at the end QP_ERROR is written (R42, R73). A slice in
fault-stop writes neither: its reset does (R55, R73). -/
def flushQp (qpn : Nat) (s : Dev) : Dev :=
  match getQp s qpn with
  | none => s
  | some q =>
    if q.st ≠ .error ∨ (getSlice s q.slice).st = .faultStop then s
    else
      let s := flushQueue qpn false (ringUsed q.sq.ring) s
      let s := flushQueue qpn true (ringUsed q.rq.ring) s
      match getQp s qpn with
      | none => s
      | some q =>
        if flushed q then
          match q.err with
          | some e => qpErrorEvent qpn q e (setQp qpn { q with err := none } s)
          | none => s
        else s

/-! ## Removing a queue pair's packets -/

/-- Removes queued packets that have not started, at every port and among those that wait for an escape. -/
def dropQueued (f : EgressPkt → Bool) (s : Dev) : Dev :=
  { s with
    ports := tmap s.ports fun _ p => retag s { p with queue := p.queue.filter fun e => !f e }
    escWaiting := s.escWaiting.filter fun w => !f w.e }

/-- The parked packets that `f` picks leave the miss buffers (R78, R339). -/
def dropParked (f : Parked → Bool) (s : Dev) : Dev :=
  { s with miss := tmap s.miss fun _ l => l.filter fun x => !f x }

/-! ## Collectives that a queue pair carries (R210) -/

def mbWkey (m : BitVec 128) : Nat := fld m 127 96
def mbEpid (m : BitVec 128) : Nat := fld m 81 64
def mbQv (m : BitVec 128) : Bool := bit m 63
def mbQpn (m : BitVec 128) : Nat := fld m 51 32

/-- The member entry of a rank and channel (R198). -/
def memberAt (g : Group) (r c : Nat) : BitVec 128 := g.members.getD (r * g.p.channels + c) 0

/-- The rank's position counted from ROOT for a BROADCAST (OP 4), and back (R204). -/
def vrank (g : Group) (r : CollRun) : Nat :=
  if r.op = 4 then (g.p.rank + g.p.n - r.root) % g.p.n else g.p.rank
def realRank (g : Group) (r : CollRun) (v : Nat) : Nat := if r.op = 4 then (v + r.root) % g.p.n else v

/-- Ranks with which a collective's algorithm exchanges data: 1 ring, 2 tree, else direct (R204). -/
def runPeers (g : Group) (r : CollRun) : List Nat :=
  let n := g.p.n
  let v := vrank g r
  if r.algo = 1 then
    (if r.op = 4 ∧ v = n - 1 then [] else [(g.p.rank + 1) % n]) ++ (if r.op = 4 ∧ v = 0 then [] else [(g.p.rank + n - 1) % n])
  else if r.algo = 2 then
    (if v = 0 then [] else [realRank g r ((v - 1) / 2)])
      ++ ([2 * v + 1, 2 * v + 2].filter fun k => decide (k < n)).map (realRank g r)
  else if r.op = 4 ∧ v ≠ 0 then [r.root]
  else (List.range n).filter fun k => k != g.p.rank

/-- A collective uses the queue pair: of a channel, to a rank with which its algorithm exchanges data (R210). -/
def runUses (g : Group) (r : CollRun) (qpn : Nat) : Bool :=
  (runPeers g r).any fun k => (List.range g.p.channels).any fun c =>
    let m := memberAt g k c
    mbQv m && mbQpn m == qpn

/-- The sequencer's message is one of a collective, or of a mixture-of-experts phase, of the group. -/
def collKind (g : Nat) : SeqKind → Bool
  | .coll k _ => k == g
  | _ => false
def moeKind (g : Nat) : SeqKind → Bool
  | .moe k _ => k == g
  | _ => false

/-- The collective, or the mixture-of-experts phase, that a message or a read was made for, if it still runs. -/
def runOf (s : Dev) (g id : Nat) : Option CollRun := ((tget s.groups g).bind fun x => x.run).filter fun r => r.id == id
def moeRunOf (s : Dev) (g id : Nat) : Option MoeRun :=
  (((tget s.groups g).bind fun x => x.moe).bind fun m => m.run).filter fun r => r.id == id

/-- Progress of every collective that uses the queue pair (R210). -/
def collProgress (qpn : Nat) (s : Dev) : Dev :=
  let moves := fun (g : Group) (r : CollRun) => if runUses g r qpn then { r with lastProgress := s.now } else r
  { s with groups := tmap s.groups fun _ g => { g with run := g.run.map (moves g) } }

/-- A reduction mode that was set while a collective of the slice ran is in force once none runs (Table 1.5). -/
def switchReduction (k : Nat) (s : Dev) : Dev :=
  match (getSlice s k).redHaNext with
  | none => s
  | some v =>
    if s.groups.any fun g => g.2.slice == k && g.2.run.isSome then s
    else modSlice k (fun x => { x with redHa := v, redHaNext := none }) s

/-- A group's collective has ended: the next OP_SEQ is current, and no message of it is built any more. -/
def endColl (broken : Bool) (gid : Nat) (g : Group) (s : Dev) : Dev :=
  let g' := { g with broken := g.broken || broken, run := none, opSeq := (g.opSeq + 1) % 4096 }
  switchReduction g.slice
    { s with groups := tset s.groups gid g', seqMsgs := s.seqMsgs.filter fun m => !(collKind gid m.kind) }

/-- The groups that carry levels of one entry's collective (R211). -/
def levelsOf (s : Dev) (r : CollRun) : Tbl Group :=
  tfilter s.groups fun _ g => match g.run with
    | some x => x.qpn == r.qpn && x.index == r.index
    | none => false

/-- A collective fails (R210): its entry completes with FLUSHED, COLL_ABORT is written for the group, and every level of it
is BROKEN. -/
def abortColl (gid qpn cause : Nat) (s : Dev) : Dev :=
  match tget s.groups gid with
  | none => s
  | some g =>
    match g.run with
    | none => s
    | some r =>
      let s := (levelsOf s r).foldl (fun s p => endColl true p.1 p.2 s) s
      let failing := (getQp s r.qpn).any fun q => q.st == .error
      let s := if failing then s else retireSends r.qpn (finishSend r.qpn r.index stFlushed s)
      sliceEvent g.slice 0x20 2 bankCore gid (g.opSeq * 2 ^ 32 + low r.step 13) (qpn * 256 + low cause 8) s

/-- Every collective that uses a queue pair, or whose entry stands on it, fails with its cause. -/
def abortColls (qpn cause : Nat) (s : Dev) : Dev :=
  s.groups.foldl (fun s p => if p.2.run.any fun r => runUses p.2 r qpn || r.qpn == qpn then abortColl p.1 qpn cause s else s) s

/-- The phase of a binding's entry ends: the phase after it is the next (R222). -/
def endMoePhase (m : MoeState) : MoeState :=
  match m.run with
  | none => m
  | some r => { m with run := none, combining := !r.combine, seq := if r.combine then (m.seq + 1) % 4096 else m.seq, tickets := [] }

/-- The mixture-of-experts entries of a queue pair that fails end with it, and with each its phase (R222, log 37). -/
def abortMoes (qpn : Nat) (s : Dev) : Dev :=
  let end_ := fun (m : MoeState) => if m.run.any fun r => r.qpn == qpn then endMoePhase m else m
  let goes := fun (k : SeqKind) => match k with
    | .moe g i => (moeRunOf s g i).any fun r => r.qpn == qpn
    | _ => false
  { s with
    groups := tmap s.groups fun _ g => { g with moe := g.moe.map end_ }
    seqMsgs := s.seqMsgs.filter fun m => !goes m.kind }

/-! ## Entering ERROR (R73) -/

/-- Requester state with nothing outstanding and no timer. -/
def idleReq (r : Requester) : Requester :=
  { r with out := [], retries := 0, rtoDue := none, busySince := none, waitDue := none, authFails := 0, keyWaiting := false, credits := 0, rtoStopped := false }

/-- Responder state with nothing in progress: of a message only what the completion of its entry says of it stays (R58, R316, R317). -/
def idleRsp (r : Responder) : Responder :=
  { r with msgs := r.msgs.filter fun m => m.recvIndex.isSome, deferred := [], unsent := [], ackPending := 0, ackFirstAt := none }

/-- The status of the owning entry for the causes that are codes of Table 2.10; the other causes have the status the
rule gives. -/
def enterErrorOf (qpn cause : Nat) (psn : Option U32) (arg2 : Nat) (owner : List (Bool × U32)) (st : BitVec 8)
    (s : Dev) : Dev :=
  match getQp s qpn with
  | none => s
  | some q =>
    if q.st = .error ∨ q.st = .reset then s
    else
      let q' := { q with
        st := .error
        err := some ⟨cause, psn, arg2, owner, st⟩
        rqr := idleReq q.rqr
        rsp := idleRsp q.rsp
        sq := { q.sq with reading := none, rereadDue := none, faultDue := none }
        rq := { q.rq with reading := none, rereadDue := none, faultDue := none } }
      let s := dropQpItems qpn (endHolders (q.rqr.out.flatMap fun o => o.tokens) (setQp qpn q' s))
      let s := dropQueued (fun e => e.qpn == qpn && e.slice == some q.slice) s
      let s := dropParked (fun x => x.qpn == qpn) s
      let give := fun (r : PortRead) => match r.use with
        | .respRead n _ _ => if n = qpn then { r with use := .dropped q.slice, qpn := none } else r
        | .respAtomic n _ => if n = qpn then { r with use := .dropped q.slice, qpn := none } else r
        | _ => r
      let s := addStale qpn true q (addStale qpn false q (mapReads give { s with seqMsgs := s.seqMsgs.filter fun m => !(m.qpn == qpn) }))
      flushQp qpn (abortMoes qpn (abortColls qpn cause s))

/-- The same where at most one entry owns what failed. -/
def enterError (qpn cause : Nat) (psn : Option U32) (arg2 : Nat) (owner : Option (Bool × U32)) (st : BitVec 8) (s : Dev) : Dev :=
  enterErrorOf qpn cause psn arg2 owner.toList st s

/-- The send entry that owns a PSN. -/
def ownerOf (q : Qp) (psn : U32) : Option (Bool × U32) :=
  match q.rqr.out.find? fun o => o.psn == psn with
  | some o => o.entry.map fun i => (false, i)
  | none => none

/-! ## Encryption (R437 to R442) -/

/-- The slot stops (R442): KEY_STOPPED with the queue pairs that name it. -/
def stopSlot (k : Nat) (x : KeySlot) (s : Dev) : Dev :=
  let n := s.qps.countP fun p => p.2.p.txKey == some k
  sliceEvent x.owner 0x101 2 bankCore k n 0
    { s with keySlots := tset s.keySlots k { x with stoppedSince := some s.now, waitOver := false, keyHa := (getSlice s x.owner).keyHa } }

/-- A transmit slot takes one packet: the key and IV_COUNT for it, or none where the slot is stopped or holds no key. At a usage
limit the slot rolls to NEXT, or stops (R440). -/
def takeKey (k pay : Nat) (s : Dev) : Option (FabKey × U32) × Dev :=
  match tget s.keySlots k with
  | none => (none, s)
  | some x =>
    match x.cur with
    | none => (none, s)
    | some c =>
      if x.stoppedSince.isSome then (none, s)
      else if decide (x.pkts < 2 ^ 32) && decide (x.bytes + pay ≤ 2 ^ 40) then
        (some (c, u32 x.pkts),
          { s with keySlots := tset s.keySlots k { x with pkts := x.pkts + 1, bytes := x.bytes + pay } })
      else
        match x.next with
        | none => (none, stopSlot k x s)
        | some n =>
          let x' := { x with
            cur := some n, next := none, pkts := 1, bytes := pay, keyHa := (getSlice s x.owner).keyHa }
          (some (n, 0),
            sliceEvent x.owner 0x100 0 bankCore k n.serial.toNat 0 { s with keySlots := tset s.keySlots k x' })

/-- The IV of R437: NONCE_BASE, then IV_COUNT most significant byte first. -/
def gcmIv (c : FabKey) (n : U32) : List Nat := vals (natLe c.nonce.toNat 8) ++ beBytes n.toNat 4

/-- The additional authenticated data: header and descriptor as the adapter that built the packet sent them, with CE clear (log 162). -/
def gcmAad (p : Packet) : List Nat :=
  vals (natLe (p.hdr &&& ~~~((1 : BitVec 128) <<< 71)).toNat 16 ++ (p.desc.map fun d => natLe d.toNat 16).getD [])

/-- The payload and the Glaze of a packet as one text. -/
def gcmBody (p : Packet) : List Nat := vals (p.payload ++ natLe p.glaze.toNat 8)

/-- The packet with another text in the place of its payload and Glaze. -/
def withBody (p : Packet) (l : List Nat) : Packet :=
  { p with payload := ofVals (l.take p.payload.length), glaze := BitVec.ofNat 64 (leNat (ofVals (l.drop p.payload.length))) }

/-- A packet encrypted under a key with an IV_COUNT, and its trailer (R437, R438). -/
def sealPacket (c : FabKey) (n : U32) (p : Packet) : Packet :=
  let ks := keySchedule c.key
  let l := gcmText ks (gcmIv c n) (gcmBody p)
  { withBody p l with cipher := some (BitVec.ofNat 128 (n.toNat + 2 ^ 32 * leNat (ofVals (gcmTag ks (gcmIv c n) (gcmAad p) l)))) }

/-- The packet in plain text, where its tag passes under a key (R441). -/
def openPacket (c : FabKey) (p : Packet) : Option Packet :=
  p.cipher.bind fun t =>
    let n := u32 (fld t 31 0)
    let ks := keySchedule c.key
    if leNat (ofVals (gcmTag ks (gcmIv c n) (gcmAad p) (gcmBody p))) = fld t 127 32 then some (withBody p (gcmText ks (gcmIv c n) (gcmBody p)))
    else none

/-! ## Packets (R82 to R86, R396) -/

/-- A packet with its Glaze; poison at its source gives the poison Glaze (R396). -/
def mkPacket (h : Hdr) (desc : Option (BitVec 128)) (payload : List Byte) (poisoned : Bool) : Packet where
  hdr := mkHdr h
  desc := desc
  payload := payload
  glaze := if poisoned then glaze payload ^^^ poisonMark else glaze payload
  cipher := none
  flaw := false

/-- ACK and NAK packets carry TC 7 if the queue pair's TC is 7, else TC 6 (R281). -/
def ackTc (q : Qp) : Nat := if q.p.tc = 7 then 7 else 6

/-- Sends a packet of a queue pair to its remote end, encrypted where the queue pair has a transmit slot and the class
asks for it (R439): what became of it. -/
inductive Sent where
  | sent
  | noRoute
  | noKey
  deriving DecidableEq, Repr

def sendFrom (qpn : Nat) (op tc : Nat) (last areq firstTx : Bool) (psn : U32) (index : Nat) (desc : Option (BitVec 128))
    (payload : List Byte) (poisoned : Bool) (ackAt : Option Nat) (s : Dev) : Sent × Dev :=
  match getQp s qpn with
  | none => (.noRoute, s)
  | some q =>
    match epOf s q.p.remEpid with
    | none => (.noRoute, s)
    | some ep =>
      let enc := q.p.txKey.isSome && !(op == pkAck || op == pkNak)
      let h : Hdr := ⟨ep, q.p.remQpn, q.p.remGen, op, tc, last, areq, enc, psn, index, payload.length⟩
      let plain := mkPacket h desc payload poisoned
      let go := fun (p : Packet) (s : Dev) =>
        let (sent, s') := sendPkt q.slice qpn tc firstTx ackAt p s
        if sent then (.sent, bumpBy 0x02 q.slice payload.length (bump 0x01 q.slice s')) else (Sent.noRoute, s)
      if enc then
        match takeKey (q.p.txKey.getD 0) payload.length s with
        | (none, s) => (.noKey, s)
        | (some (c, n), s) => go (sealPacket c n plain) s
      else go plain s

/-- A response-class packet that has no route waits for 1 µs, as after a BUSY NAK (R268); of ACKs the latest waits. -/
def keepUnsent (qpn : Nat) (u : Unsent) (s : Dev) : Dev :=
  modQp qpn (fun q => { q with rsp := { q.rsp with
    unsent := (q.rsp.unsent.filter fun x => !(x.op == pkAck && u.op == pkAck)) ++ [{ u with due := s.now + 1000 }] } }) s

/-- Sends a response-class packet of a queue pair, or keeps it while it has no route: whether it was sent. One without a key is not
sent. -/
def sendRsp (qpn : Nat) (u : Unsent) (s : Dev) : Bool × Dev :=
  match getQp s qpn with
  | none => (false, s)
  | some q =>
    let tc := if u.op = pkAck ∨ u.op = pkNak then ackTc q else q.p.tc
    match sendFrom qpn u.op tc u.last false false u.psn u.index none u.bytes u.bad u.ackAt s with
    | (.sent, s) => (true, s)
    | (.noRoute, s) => (false, keepUnsent qpn u s)
    | (.noKey, s) => (false, s)

/-- NAK_DELAY_EXPIRY for responses that had no route: those of the PSN are sent again, while the queue pair may send (R55, R365,
R411). -/
def resendUnsent (qpn : Nat) (psn : U32) (s : Dev) : Dev :=
  match getQp s qpn with
  | none => s
  | some q =>
    match q.rsp.unsent.filter fun u => u.psn == psn with
    | [] => s
    | u :: r =>
      if !sliceLive s q.slice || q.held.isSome || q.frozen.isSome then s
      else
        atExpiry (some u.due) (fun s =>
          (u :: r).foldl (fun s u => (sendRsp qpn u s).2)
            (modQp qpn (fun q => { q with rsp := { q.rsp with unsent := q.rsp.unsent.filter fun u => !(u.psn == psn) } }) s)) s

/-! ## ACKs and NAKs (R96, R98, R102) -/

/-- The data of an accepted PSN of a queue pair is not yet ordered at its target (R92, R96): a queued write, an engine
item, or an accumulate still has it. -/
def unplaced (s : Dev) (qpn : Nat) (psn : U32) : Bool :=
  let inQueue := fun (p : IoPort) => p.queued.any fun w => w.qpn == some qpn && w.psn == some psn
  inQueue s.host || (s.accs.any fun p => inQueue p.2)
    || (s.items.any fun i => match i.dest with
        | .target q p _ _ _ => q == qpn && p == psn
        | _ => false)
    || s.accums.any fun a => a.qpn == qpn && a.psn == psn

/-- PSNs of a queue pair whose data is not yet ordered. -/
def unplacedPsns (s : Dev) (qpn : Nat) : List U32 :=
  let inQueue := fun (p : IoPort) => p.queued.filterMap fun w => if w.qpn = some qpn then w.psn else none
  inQueue s.host ++ (s.accs.flatMap fun p => inQueue p.2)
    ++ (s.items.filterMap fun i => match i.dest with
        | .target q p _ _ _ => if q = qpn then some p else none
        | _ => none)
    ++ s.accums.filterMap fun a => if a.qpn = qpn then some a.psn else none

/-- The PSN that an ACK may carry: ePSN, or the first PSN below it whose data is not ordered (R96). -/
def ackPsn (s : Dev) (qpn : Nat) (q : Qp) : U32 :=
  (unplacedPsns s qpn).foldl (fun m p => if seqLt p m then p else m) q.rsp.epsn

/-- PSN `p` has been accepted. -/
def acceptedPsn (r : Responder) (p : U32) : Bool :=
  let d := dist p r.epsn
  if 2 ^ 31 ≤ d then true else decide (d < 512) && r.accMap.getLsbD d

/-- SACK_MAP for an ACK whose PSN is `x` (Table 3.7). -/
def sackMap (r : Responder) (x : U32) : U64 :=
  BitVec.ofNat 64 ((List.range 64).foldl (fun n j => if acceptedPsn r (x + 1 + u32 j) then n + 2 ^ j else n) 0)

/-- Sends an ACK (R98), unless the slice is in fault-stop or the queue pair is held or frozen (R55, R365, R411). Without a
route it waits for one (R268). -/
def sendAck (qpn : Nat) (s : Dev) : Dev :=
  match getQp s qpn with
  | none => s
  | some q =>
    if !sliceLive s q.slice || q.held.isSome || q.frozen.isSome || !(q.st == .live || q.st == .drain) then s
    else
    let x := ackPsn s qpn q
    let blk := mkAck (sackMap q.rsp x) 0 q.rsp.ceCount
    let s := (sendRsp qpn ⟨pkAck, x, 0, false, blk, false, some q.rsp.ackCause, 0⟩ s).2
    modQp qpn (fun q => { q with rsp := { q.rsp with ackPending := 0, ackFirstAt := none, ceCount := 0 } }) s

/-- Sends a NAK of a code and DELAY for a PSN (R102), counted for the slice. -/
def sendNak (qpn code delay : Nat) (psn : U32) (s : Dev) : Dev :=
  match getQp s qpn with
  | none => s
  | some q =>
    match sendRsp qpn ⟨pkNak, psn, 0, false, mkNak code delay, false, none, 0⟩ s with
    | (true, s) => bump 0x05 q.slice s
    | (false, s) => s

/-- A BUSY NAK with a DELAY in units of 100 ns. -/
def nakBusyFor (qpn delay : Nat) (psn : U32) (s : Dev) : Dev := sendNak qpn nakBusy delay psn s

/-! ## Completion queues that fail or resume -/

/-- Queue pairs that feed a completion queue. -/
def feeders (s : Dev) (c : Nat) : List Nat :=
  (s.qps.filter fun p => p.2.p.scqn == c || p.2.p.rcqn == c).map (·.1)

end Sys2Proof.Machine
end

