-- ==== Sys2Proof/Machine/Squash.lean ====
section
/-!
DEFINITION. Sys2Proof/Machine/Squash.lean: the start of a slice reset (R338 steps 1 and 2, R339, R344), and the end of
every command that may let one start.
-/
namespace Sys2Proof.Machine

/-- A command that waits and that a reset of its slice lets finish first (R344): not those that wait on holders by XLT_INVAL,
XLT_INVAL_WAIT or WIN_DESTROY, not the resets themselves, and not a move to ERROR in fault-stop, whose completions and event the reset
writes (R73). -/
def delaysReset (s : Dev) (w : Cmd × Nat × WaitOn) : Bool :=
  match w.2.2 with
  | .epoch _ _ _ => w.2.1 == 0x0204
  | .window _ _ => false
  | .ats _ _ _ _ _ => false
  | .sliceReset _ _ _ => false
  | .sliceDestroy _ _ _ => false
  | .qpError _ => !((getSlice s w.1.slice).st == .faultStop)
  | _ => true

/-- Commands for the slice that are executing, by admin queue and index: those started, and those that wait. -/
def executing (s : Dev) (k : Nat) : List (Nat × U32) :=
  let mine := fun (op slice : Nat) => slice == k && !keyDevice (cmdRow op).key && !((cmdRow op).key == .aq)
  ((s.started.filter fun c => mine c.opcode c.slice).map fun c => (c.queue, c.index))
    ++ (s.waits.filter fun w => mine w.2.1 w.1.slice).map fun w => (w.1.aq, w.1.index)

/-- A command that was executing when the reset arrived has still to finish before step 1 (R344). -/
def holdsReset (s : Dev) (c : Nat × U32) : Bool :=
  match s.waits.find? fun w => (w.1.aq, w.1.index) == c with
  | some w => delaysReset s w
  | none => s.started.any fun x => (x.queue, x.index) == c

/-- A work queue that fetches nothing any more. A read that is out is awaited, and its data discarded (R340). -/
def haltQueue (w : WorkQueue) : WorkQueue := { w with rereadDue := none, faultDue := none }

/-- A queue pair whose clocks have stopped and which has nothing outstanding; its entries remain to be accounted for. -/
def haltQp (q : Qp) : Qp :=
  let free := fun (e : SendEntry) => { e with tokens := [], faultDue := none }
  let r := idleReq q.rqr
  { q with
    sq := haltQueue q.sq, rq := haltQueue q.rq, rqr := { r with started := r.started.map free }, rsp := idleRsp q.rsp }

/-- Tokens that a queue pair holds. -/
def qpTokens (q : Qp) : List Nat := (q.rqr.out.flatMap fun o => o.tokens) ++ q.rqr.started.flatMap fun e => e.tokens

/-- The queue pairs of a slice halt. -/
def haltQps (k : Nat) (s : Dev) : Dev :=
  let mine := s.qps.filter fun p => p.2.slice == k
  let s := endHolders (mine.flatMap fun p => qpTokens p.2) s
  { s with qps := tmap s.qps fun _ q => if q.slice = k then haltQp q else q }

/-- The packets of a slice are dropped: those parked count as inbound ones (R338), those queued at ports and waiting for an
escape do not. -/
def dropSlicePkts (k : Nat) (s : Dev) : Dev :=
  let parked := fun (x : Parked) => (getQp s x.qpn).any fun q => q.slice == k
  let queued := fun (e : EgressPkt) => e.slice == some k
  let n := s.miss.foldl (fun n p => n + p.2.countP parked) 0
  let m := s.ports.foldl (fun n p => n + p.2.queue.countP queued) 0 + (s.escWaiting.countP fun w => queued w.e)
  let s := bumpBy 0x0A k n (dropParked parked (dropQueued queued s))
  modSlice k (fun x => { x with counts := { x.counts with pkts := x.counts.pkts + n + m } }) s

/-- Engine items of a slice are removed, queued or resident, and their range locks released. -/
def dropSliceItems (k : Nat) (s : Dev) : Dev :=
  let mine := s.items.filter fun i => i.slice == k
  let keys := mine.map fun i => i.token.getD i.id
  let s := dropItems (fun i => i.slice == k) { s with
    locks := s.locks.filter fun l => !keys.contains l.2
    lockQ := s.lockQ.filter fun l => !keys.contains l.2 }
  modSlice k (fun x => { x with counts := { x.counts with items := x.counts.items + mine.length } }) s

/-- Walks, faults, unwritten Crumbs and FAILED records of a slice are removed; faults of others take the places. -/
def dropSliceXlt (k : Nat) (s : Dev) : Dev :=
  let x := s.xlt
  let s := { s with xlt := { x with
    walks := x.walks.filter fun w => !(w.slice == k)
    faults := x.faults.filter fun f => !(f.crumb.slice == k)
    waiting := x.waiting.filter fun w => !(w.slice == k)
    failed := x.failed.filter fun f => !(f.slice == k) } }
  trySwitch k (pumpPages ((List.range 8).foldl (fun s u => pumpWaiting u s) (modSlice k (fun x => { x with crumbsFrom := none }) s)))

/-- The collective sequencer and the trigger table forget a slice; its staged pushes go. -/
def dropSliceSeq (k : Nat) (s : Dev) : Dev :=
  let mine := fun (qpn : Nat) => (getQp s qpn).any fun q => q.slice == k
  switchReduction k { s with
    seqMsgs := s.seqMsgs.filter fun m => !mine m.qpn
    groups := tmap s.groups fun _ g => if g.slice = k then { g with run := none, moe := g.moe.map fun m => { m with run := none, tickets := [] } } else g
    triggers := tfilter s.triggers fun _ t => !(t.slice == k)
    pushPages := tfilter s.pushPages fun i _ => !(i / 16 % 512 == k) }

/-- The slice for which a read at a port is made. -/
def useSlice (s : Dev) : PortUse → Option Nat
  | .respRead q _ _ => (getQp s q).map (·.slice)
  | .respAtomic q _ => (getQp s q).map (·.slice)
  | .collInput g _ _ => (tget s.groups g).map (·.slice)
  | .moeTable g _ _ => (tget s.groups g).map (·.slice)
  | .moeRow g _ _ _ _ => (tget s.groups g).map (·.slice)
  | .dropped k => some k
  | .bar _ => none

/-- Reads of a slice that are outstanding will be discarded (R340); transfers that a port lost have no owner any more. -/
def dropSliceReads (k : Nat) (s : Dev) : Dev :=
  let mine := fun (o : Nat × Bool × U32) => (getQp s o.1).any fun q => q.slice == k
  let clean := fun (p : IoPort) => { p with lostOwners := p.lostOwners.filter fun o => !mine o }
  mapReads (fun r => if useSlice s r.use = some k then { r with use := .dropped k, qpn := none } else r)
    { s with host := clean s.host, accs := tmap s.accs fun _ p => clean p }

/-! ## Pins (R495): the path of a latency-critical slice -/

/-- The logical ports of a mask. -/
def portsOf (m : U64) : List Nat := (List.range 64).filter fun n => m.getLsbD n

/-- A slice pins its path: LIVE or FAULT_STOP with LAT_CRIT (R495). -/
def slicePins (s : Dev) (k : Nat) : Bool :=
  let x := getSlice s k
  x.latCrit && (x.st == .live || x.st == .faultStop)

/-- The objects of a slice's path. -/
def pathOf (s : Dev) (k : Nat) : List PowerObj :=
  let x := getSlice s k
  let engines := (List.range 24).filter fun n => s.programs.any fun p => p.slice == k && !p.dead && p.engines.contains n
  let rs := routeSetOf s k
  engines.map .engine ++ (if rsV rs then (portsOf (rsPorts rs)).map .fab else [])
    ++ (((List.range 8).filter fun a => x.accMask.getLsbD a).map .acc) ++ (List.range 4).map .stack

/-- Every object that some slice pins. -/
def pinnedObjs (s : Dev) : List PowerObj :=
  (s.slices.flatMap fun p => if slicePins s p.1 then pathOf s p.1 else []).eraseDups

/-- A slice pins the object. -/
def pinned (s : Dev) (o : PowerObj) : Bool := (pinnedObjs s).contains o

/-- An object whose pin has ended: its idle timers start from zero. -/
def unpinned (before : List PowerObj) (s : Dev) : Dev :=
  before.foldl (fun s o => if pinned s o then s else setPower o { getPower s o with idleSince := s.now } s) s

/-- Steps 1 and 2 of R338: the slice admits nothing, and its work leaves every shared structure. -/
def squash (k : Nat) (st : SliceState) (s : Dev) : Dev :=
  let s := unpinned (pinnedObjs s) (modSlice k (fun x => { x with st := st, counts := ⟨0, 0, 0, 0, 0, 0, 0⟩ }) s)
  dropSliceXlt k (dropSliceItems k (haltQps k (dropSliceSeq k (dropSliceReads k (dropSlicePkts k s)))))

/-- A reset that was ordered begins once the commands that were executing then have finished. -/
def beginReset (w : Cmd × Nat × WaitOn) (s : Dev) : Dev :=
  let go := fun (k : Nat) (st : SliceState) (on : WaitOn) =>
    if (getSlice s k).finishing.any (holdsReset s) then s
    else squash k st { s with waits := s.waits.map fun x => if x == w then (w.1, w.2.1, on) else x }
  match w.2.2 with
  | .sliceReset k r none => go k .resetting (.sliceReset k r (some s.now))
  | .sliceDestroy k r none => go k .destroying (.sliceDestroy k r (some s.now))
  | _ => s

/-- A reset that has not begun. -/
def resetPending (w : Cmd × Nat × WaitOn) : Bool :=
  match w.2.2 with
  | .sliceReset _ _ none => true
  | .sliceDestroy _ _ none => true
  | _ => false

/-- What follows a command that moves levels or may end a wait, or that has let time pass. -/
def settleAll (s : Dev) : Dev :=
  let s := settle (pumpIngress s)
  if s.waits.any resetPending then settle (s.waits.foldl (fun s w => beginReset w s) s) else s

/-- A command whose effect `f` moves levels. -/
def runLevels (f : Dev → Dev) (s : State) : Res := run (fun d => settleAll (f d)) s

end Sys2Proof.Machine
end

