-- ==== Sys2Proof/Machine/QueuePair.lean ====
section
/-!
DEFINITION. Sys2Proof/Machine/QueuePair.lean: the commands on queue pairs: QP_CREATE, QP_MODIFY, QP_DESTROY, QP_QUERY,
QP_PIN, QP_UNPIN and WQ_INVALIDATE (R51, R71 to R75, R81, R465, R482).
-/
namespace Sys2Proof.Machine

/-! ## A new queue pair -/

/-- Congestion state at INIT (R293): W is W_INIT, srtt and last_rtt are TARGET. The pacing rate follows R293's formula
(log 31) and the bucket is full (log 32). `burst0` is the PACE_BURST of profile 0. -/
def ccInit (p : CcProfile) (burst0 : Nat) (psn : U32) (now : Nat) : CcState where
  prof := p
  burst0 := burst0
  w := p.wInit
  rate := p.wInit * 1000 / Nat.max 1 p.target
  srtt := p.target
  lastRtt := p.target
  alpha := 0
  marked := 0
  acked := 0
  epochEnd := psn
  sample := none
  bucket := p.paceBurst * 1000
  bucketAt := now
  tableAt := none
  unlimited := false
  unpaced := false

/-- A requester with nothing sent. -/
def newRequester (rto : Nat) : Requester where
  nextPsn := 0
  unaPsn := 0
  out := []
  started := []
  rto := rto
  retries := 0
  rtoDue := none
  busySince := none
  waitDue := none
  sendSeq := 0
  authFails := 0
  keyWaiting := false
  drained := false
  credits := 0
  rtoStopped := false

/-- A responder with nothing accepted. -/
def newResponder : Responder where
  epsn := 0
  accMap := 0
  lastMap := 0
  msgs := []
  deferred := []
  unsent := []
  recvSeq := 0
  cache := []
  ackPending := 0
  ackFirstAt := none
  ackCause := 0
  ceCount := 0

/-- A CQN that names no completion queue, before QP_MODIFY gives one (log 33). -/
def noCq : Nat := 2 ^ 18

/-- The parameters that QP_CREATE gives (Table 3.10, R281, R294, R432). -/
def newParams (s : Dev) : QpParams where
  remEpid := 0
  remQpn := 0
  remGen := 0
  scqn := noCq
  rcqn := noCq
  mtu8k := true
  rtoBase := s.rtoBase
  retryLimit := 7
  busyLimit := 1000000
  ackCount := 8
  ackTimer := 500
  tc := 0
  ccProfile := 0
  rxTs := false
  txKey := none
  rxKey := none

/-- A new queue pair in RESET (Table 3.2). -/
def newQp (s : Dev) (slice : Nat) (gen : BitVec 8) (sq rq : Ring) : Qp where
  slice := slice
  st := .reset
  gen := gen
  sq := newQueue sq
  rq := newQueue rq
  p := newParams s
  rqr := newRequester s.rtoBase
  rsp := newResponder
  cc := ccInit (getProfile s 0) (getProfile s 0).paceBurst 0 s.now
  feedback := none
  fbAcked := false
  merged := none
  pinned := false
  cached := false
  usedAt := s.now
  held := none
  heldBy := []
  frozen := none
  authFailed := 0
  err := none
  stream := none

/-- A ring with both indices at its initial index (R27, R28). -/
def newRing (space base lg : Nat) (i : U32) : Ring := ⟨space, base, lg, i, i⟩

/-- What R27 asks of a ring of a slice beyond its ranges: BAD_PARAM for a base that is not aligned, or for a work ring past
the 2^48 bytes that translation reaches (R118); NOT_PERMITTED for a space that is not the slice's (log 24). The base of a work ring is
untranslated: its walk finds whether its pages lie in the slice's Millefeuille (R120). -/
def ringStatus (s : Dev) (slice space base lg entryBytes : Nat) : Nat :=
  if !ringAligned base lg entryBytes then csBadParam
  else if entryBytes = 64 ∧ 2 ^ 48 < base + 2 ^ lg * 64 then csBadParam
  else if !pasidOk s slice space then csNotPermitted
  else if space = 1 then (if entryBytes = 64 ∨ inAllocation s slice base (2 ^ lg * entryBytes) = true then csOk else csNotPermitted)
  else if 2 ≤ space then (if (getSlice s slice).accMask.getLsbD (space - 2) then csOk else csNotPermitted)
  else csOk

/-- A ring that breaks R27 is refused; DETAIL is the offset of its base. -/
def refuseRing (c : CmdInfo) (h : Cmd) (st off : Nat) (s : Dev) : Dev :=
  if st = csBadParam then badParam c h off s else refuse c h st s

/-- Ranges of QP_CREATE's fields (Table 14.12). -/
def qpCreateBad (p : QpCreateP) : Option Nat :=
  firstBad [(8, decide (p.qpn < 2 ^ 20)), (12, spaceOk p.sqSpace), (24, decide (4 ≤ p.sqLg ∧ p.sqLg ≤ 20)),
    (32, spaceOk p.rqSpace), (48, decide (4 ≤ p.rqLg ∧ p.rqLg ≤ 20))]

/-- The generation that a creation of a QPN takes (R74). -/
def nextGen (s : Dev) (qpn : Nat) : BitVec 8 :=
  match tget s.gens qpn with
  | some g => g + 1
  | none => 0

/-- The QPN was destroyed less than 8 ms ago (R75). -/
def inQuarantine (s : Dev) (qpn : Nat) : Bool :=
  match tget s.qpFreed qpn with
  | some t => decide (s.now < t + 8000000)
  | none => false

/-- QP_CREATE past its checks: the queue pair exists in RESET with its new generation. -/
def qpAdd (slice : Nat) (p : QpCreateP) (s : Dev) : Dev :=
  let g := nextGen s p.qpn
  cacheContext p.qpn <| setQp p.qpn (newQp s slice g (newRing p.sqSpace p.sqBase p.sqLg p.sqIndex) (newRing p.rqSpace p.rqBase p.rqLg p.rqIndex))
    { s with gens := tset s.gens p.qpn g, qpFreed := tdel s.qpFreed p.qpn }

/-- QP_CREATE (R71, R74, R75, R534 case 4). -/
def qpCreateBody (p : QpCreateP) (h : Cmd) (c : CmdInfo) (s : Dev) : Dev :=
  let sq := ringStatus s h.slice p.sqSpace p.sqBase p.sqLg 64
  let rq := ringStatus s h.slice p.rqSpace p.rqBase p.rqLg 64
  if (getQp s p.qpn).isSome || inQuarantine s p.qpn then refuse c h csBusy s
  else if sq ≠ csOk then refuseRing c h sq 16 s
  else if rq ≠ csOk then refuseRing c h rq 40 s
  else if quotaFull s h.slice 0 then refuse c h csNoFit s
  else reply c h csOk 0 (packResult [((nextGen s p.qpn).toNat, 1)]) (qpAdd h.slice p s)

def qpCreateEffect (h : Cmd) (p : QpCreateP) : Dev → Dev :=
  command 0x0101 h true (qpCreateBad p) (qpCreateBody p h)

/-- QP_CREATE. -/
def execQpCreate (h : Cmd) (p : QpCreateP) (s : State) : Res := runLevels (qpCreateEffect h p) s

/-- A command on a queue pair that must exist and belong to SLICE (R534 cases 2 and 3). -/
def onQp (c : CmdInfo) (h : Cmd) (qpn : Nat) (body : Qp → Dev → Dev) (s : Dev) : Dev :=
  match getQp s qpn with
  | none => badParam c h 8 s
  | some q => if q.slice ≠ h.slice then refuseOther c h 8 s else body q s

/-! ## QP_MODIFY -/

/-- The state that a NEW_STATE value names; 7 names none (Table 14.5). -/
def stateOf (n : Nat) : Option QpState :=
  match n with
  | 0 => some .reset
  | 1 => some .init
  | 2 => some .live
  | 3 => some .drain
  | 4 => some .error
  | _ => none

/-- Transitions that a QP_MODIFY may ask for (Table 3.2). -/
def transitionOk : QpState → QpState → Bool
  | .reset, .init => true
  | .init, .live => true
  | .live, .drain => true
  | .drain, .live => true
  | .init, .error => true
  | .live, .error => true
  | .drain, .error => true
  | .init, .reset => true
  | .drain, .reset => true
  | .error, .reset => true
  | _, _ => false

/-- Ranges of the fields that MASK selects (Table 14.5, Table 3.10). -/
def qpModifyBad (p : QpModifyP) : Option Nat :=
  let on := fun (i : Nat) (ok : Bool) => !p.mask.getLsbD i || ok
  firstBad [(8, decide (p.qpn < 2 ^ 20)), (12, decide (p.newState ≤ 4 ∨ p.newState = 7)), (13, decide (p.mask.toNat < 2 ^ 13)),
    (27, on 7 (decide (1 ≤ p.ackCount ∧ p.ackCount ≤ 64))), (28, on 5 (decide (1 ≤ p.retryLimit ∧ p.retryLimit ≤ 15))),
    (40, on 6 (decide (1000 ≤ p.busyLimit ∧ p.busyLimit ≤ 60000000))),
    (44, on 4 (decide (8000 ≤ p.rtoBase ∧ p.rtoBase ≤ 4000000))),
    (54, on 8 (decide (100 ≤ p.ackTimer ∧ p.ackTimer ≤ 2000)))]

/-- The refusal of a CQN of QP_MODIFY that does not exist or belongs to another slice (R534 cases 2 and 3). -/
def cqRefusal (s : Dev) (h : Cmd) (cqn off : Nat) : Option (Nat × Nat) :=
  match tget s.cqs cqn with
  | none => some (csBadParam, off)
  | some x =>
    if x.slice = h.slice then none else some (if 8 ≤ h.aq then (csNotPermitted, 0) else (csBadParam, off))

/-- The slot may serve a queue pair of the slice in a direction: 0xFFFF names none (R432). -/
def slotFits (s : Dev) (slice k : Nat) (rx : Bool) : Bool :=
  decide (k = 0xFFFF) || ((tget s.keySlots k).map fun x => x.owner == slice && x.rx == rx && x.cur.isSome).getD false

/-- The first refusal that QP_MODIFY meets (R71, R282, R432, R465, R534): a status and its DETAIL. -/
def qpModifyRefusal (s : Dev) (h : Cmd) (p : QpModifyP) (q : Qp) : Option (Nat × Nat) :=
  let new := stateOf p.newState
  let cq := if p.mask.getLsbD 1 then (cqRefusal s h p.scqn 16 <|> cqRefusal s h p.rcqn 29) else none
  let low := decide (p.mask.toNat % 16 ≠ 0)
  let move :=
    match new with
    | none => if low && q.st != .reset then some (csBadParam, 13) else none
    | some t =>
      if !transitionOk q.st t then some (csBadParam, 12)
      else if low && !(q.st == .reset) && !(t == .init) then some (csBadParam, 13)
      else if q.st = .reset ∧ t = .init ∧ p.mask.toNat % 16 ≠ 15 then some (csBadParam, 13)
      else if t = .reset ∧ q.st = .drain ∧ q.rqr.drained = false then some (csBusy, 0)
      else if t = .reset ∧ q.st = .error ∧ (flushed q = false ∨ q.err.isSome = true) then some (csBusy, 0)
      else none
  let keys :=
    if !p.mask.getLsbD 11 then none
    else if !slotFits s h.slice p.rxKey true then some (csBadParam, 50)
    else if !slotFits s h.slice p.txKey false then some (csBadParam, 52)
    else none
  let tc := if p.mask.getLsbD 9 && !(getSlice s h.slice).classMask.getLsbD p.tc then some (csNotPermitted, 0) else none
  cq <|> move <|> keys <|> tc

/-- A key slot field: 0xFFFF is none (R432). -/
def slotOf (k : Nat) : Option Nat := if k = 0xFFFF then none else some k

/-- The parameters with the groups that MASK selects applied (R465). -/
def applyParams (p : QpModifyP) (x : QpParams) : QpParams :=
  let on := fun (i : Nat) => p.mask.getLsbD i
  { remEpid := if on 0 then p.remEpid else x.remEpid
    remQpn := if on 0 then p.remQpn else x.remQpn
    remGen := if on 0 then p.remGen else x.remGen
    scqn := if on 1 then p.scqn else x.scqn
    rcqn := if on 1 then p.rcqn else x.rcqn
    mtu8k := if on 3 then p.mtu8k else x.mtu8k
    rtoBase := if on 4 then p.rtoBase else x.rtoBase
    retryLimit := if on 5 then p.retryLimit else x.retryLimit
    busyLimit := if on 6 then p.busyLimit else x.busyLimit
    ackCount := if on 7 then p.ackCount else x.ackCount
    ackTimer := if on 8 then p.ackTimer else x.ackTimer
    tc := if on 9 then p.tc else x.tc
    ccProfile := if on 10 then p.ccProfile else x.ccProfile
    rxTs := if on 12 then p.rxTs else x.rxTs
    txKey := if on 11 then slotOf p.txKey else x.txKey
    rxKey := if on 11 then slotOf p.rxKey else x.rxKey }

/-- The queue pair with the selected parameters and PSNs applied; a profile that CC_PROFILE names is in force (R294). -/
def applyModify (s : Dev) (p : QpModifyP) (q : Qp) : Qp :=
  let q := { q with p := applyParams p q.p }
  let q := if p.mask.getLsbD 10 then { q with cc := { q.cc with prof := getProfile s q.p.ccProfile } } else q
  if p.mask.getLsbD 2 then
    { q with rqr := { q.rqr with nextPsn := p.sqPsn, unaPsn := p.sqPsn }, rsp := { q.rsp with epsn := p.rqPsn } }
  else q

/-- A queue pair moved to RESET: sequencing, tracker and timer state cleared; ring indices and generation kept
(Table 3.2). The trigger credits of its send queue go with it: the model's choice, for Table 3.2 does not name them (log 144). -/
def clearQp (q : Qp) : Qp :=
  let queue := fun (w : WorkQueue) => { newQueue w.ring with next := w.ring.cons }
  { q with
    st := .reset
    sq := queue q.sq
    rq := queue q.rq
    rqr := newRequester q.p.rtoBase
    rsp := newResponder
    err := none }

/-- The moves of Table 3.2 that end at once. -/
def moveQp (qpn : Nat) (t : QpState) (s : Dev) : Dev :=
  match getQp s qpn with
  | none => s
  | some q =>
    match t with
    | .reset => dropParked (fun x => x.qpn == qpn) (setQp qpn (clearQp q) (dropQpItems qpn (endHolders (qpTokens q) (freeStamps q s))))
    | .init =>
      setQp qpn { q with
        st := .init
        rqr := { q.rqr with rto := q.p.rtoBase, retries := 0 }
        cc := ccInit (getProfile s q.p.ccProfile) (getProfile s 0).paceBurst q.rqr.nextPsn s.now } s
    | .live =>
      fetchQueue qpn true (fetchQueue qpn false (setQp qpn { q with st := .live, rqr := { q.rqr with drained := false } } s))
    | .drain => checkDrained qpn (setQp qpn { q with st := .drain, rqr := { q.rqr with drained := false } } s)
    | .error => enterError qpn 0x82 none 0 none stFlushed s

/-- QP_MODIFY (R71, R73, R465). A move to ERROR replies once its flush and its event are done. -/
def qpModifyBody (p : QpModifyP) (h : Cmd) (c : CmdInfo) (q : Qp) (s : Dev) : Dev :=
  match qpModifyRefusal s h p q with
  | some (st, off) => reply c h st off 0 s
  | none =>
    let s := setQp p.qpn (applyModify s p q) s
    match stateOf p.newState with
    | none => ok c h s
    | some .error => moveQp p.qpn .error (waitOn h 0x0102 (.qpError p.qpn) s)
    | some t => ok c h (moveQp p.qpn t s)

def qpModifyEffect (h : Cmd) (p : QpModifyP) : Dev → Dev :=
  command 0x0102 h true (qpModifyBad p) fun c => onQp c h p.qpn (qpModifyBody p h c)

/-- QP_MODIFY. -/
def execQpModify (h : Cmd) (p : QpModifyP) (s : State) : Res := runLevels (qpModifyEffect h p) s

/-! ## QP_DESTROY -/

/-- The queue pair is gone: its QPN enters quarantine (R75), its triggers are deleted (R240), a stream bound to it is
unbound. -/
def removeQp (qpn : Nat) (s : Dev) : Dev :=
  { s with
    qps := tdel s.qps qpn
    qpFreed := tset s.qpFreed qpn s.now
    triggers := tfilter s.triggers fun _ t => !((t.p.kind == 0 && t.p.source == qpn) || t.p.target == qpn)
    streams := tmap s.streams fun _ x => if x.qpn = some qpn then { x with qpn := none } else x }

/-- QP_DESTROY (R71): only from RESET. -/
def qpDestroyBody (qpn : Nat) (h : Cmd) (c : CmdInfo) (q : Qp) (s : Dev) : Dev :=
  if q.st ≠ .reset then badParam c h 8 s else ok c h (removeQp qpn s)

def qpDestroyEffect (h : Cmd) (qpn : Nat) : Dev → Dev :=
  command 0x0103 h true (firstBad [(8, decide (qpn < 2 ^ 20))]) fun c => onQp c h qpn (qpDestroyBody qpn h c)

/-- QP_DESTROY. -/
def execQpDestroy (h : Cmd) (qpn : Nat) (s : State) : Res := runLevels (qpDestroyEffect h qpn) s

/-! ## QP_QUERY -/

/-- STATE code of a queue pair (Table 14.9). -/
def stateNo : QpState → Nat
  | .reset => 0
  | .init => 1
  | .live => 2
  | .drain => 3
  | .error => 4

/-- The queue-pair status record (Table 14.9). -/
def encQpStatus (q : Qp) : BitVec 512 := BitVec.ofNat 512 (pack
  [(0, 34), (b2n q.p.mtu8k, 1), (stateNo q.st, 3), (q.p.rcqn, 18), (q.p.scqn, 18), (q.stream.getD 0, 16),
   (b2n q.stream.isSome, 1), (b2n q.frozen.isSome, 1), (b2n q.held.isSome, 1), (b2n q.cached, 1), (b2n q.pinned, 1),
   (q.p.ccProfile, 4), (q.p.tc, 3), (q.rqr.retries, 4), (q.gen.toNat, 8), (q.p.remGen.toNat, 8), (q.p.remQpn, 20),
   (q.p.remEpid, 18), (q.p.rxKey.getD 0xFFFF, 16), (q.p.txKey.getD 0xFFFF, 16), (q.cc.rate, 32), (q.cc.w, 32),
   (q.rqr.rto, 32), (q.rsp.epsn.toNat, 32), (q.rqr.unaPsn.toNat, 32), (q.rqr.nextPsn.toNat, 32),
   (q.rq.ring.cons.toNat, 32), (q.rq.ring.prod.toNat, 32), (q.sq.ring.cons.toNat, 32), (q.sq.ring.prod.toNat, 32)])

/-- QP_QUERY (R18, R482): the record is written before the reply. -/
def qpQueryBody (space addr : Nat) (h : Cmd) (c : CmdInfo) (q : Qp) (s : Dev) : Dev :=
  if space = 1 ∧ inAllocation s h.slice addr 64 = false then badParam c h 16 s
  else
    let bits := encQpStatus q
    ok c h (emit (.qpStatus space addr bits) (store space addr (natLe bits.toNat 64) false true h.slice none s))

def qpQueryEffect (h : Cmd) (qpn space addr : Nat) : Dev → Dev :=
  command 0x0104 h true (firstBad [(8, decide (qpn < 2 ^ 20)), (12, decide (space ≤ 1)), (16, decide (addr % 64 = 0))])
    fun c => onQp c h qpn (qpQueryBody space addr h c)

/-- QP_QUERY. -/
def execQpQuery (h : Cmd) (qpn space addr : Nat) (s : State) : Res := runLevels (qpQueryEffect h qpn space addr) s

/-! ## QP_PIN and QP_UNPIN (R81) -/

/-- Pinned contexts of a pipeline. -/
def pinnedIn (s : Dev) (k : Nat) : Nat := s.qps.countP fun p => p.2.pinned && pipeOf p.1 == k

/-- QP_PIN: a pinned context is cached from then on. -/
def qpPinBody (qpn : Nat) (h : Cmd) (c : CmdInfo) (q : Qp) (s : Dev) : Dev :=
  if q.pinned then ok c h s
  else if (getSlice s h.slice).latCrit = false then refuse c h csNotPermitted s
  else if 2048 ≤ pinnedIn s (pipeOf qpn) then refuse c h csNoFit s
  else if quotaFull s h.slice 7 then refuse c h csNoFit s
  else ok c h (modQp qpn (fun q => { q with pinned := true }) (cacheContext qpn s))

def qpPinEffect (h : Cmd) (qpn : Nat) : Dev → Dev :=
  command 0x0105 h true (firstBad [(8, decide (qpn < 2 ^ 20))]) fun c => onQp c h qpn (qpPinBody qpn h c)

/-- QP_PIN. -/
def execQpPin (h : Cmd) (qpn : Nat) (s : State) : Res := runLevels (qpPinEffect h qpn) s

def qpUnpinBody (qpn : Nat) (h : Cmd) (c : CmdInfo) (q : Qp) (s : Dev) : Dev :=
  ok c h (setQp qpn { q with pinned := false } s)

def qpUnpinEffect (h : Cmd) (qpn : Nat) : Dev → Dev :=
  command 0x0106 h true (firstBad [(8, decide (qpn < 2 ^ 20))]) fun c => onQp c h qpn (qpUnpinBody qpn h c)

/-- QP_UNPIN. -/
def execQpUnpin (h : Cmd) (qpn : Nat) (s : State) : Res := runLevels (qpUnpinEffect h qpn) s

/-! ## WQ_INVALIDATE (R51) -/

/-- The queue's cached entries that have not started are gone and fetching pauses until the next doorbell or push. -/
def invalidateQueue (q : Qp) (rq : Bool) : Qp :=
  setWq q rq { dropUnstarted (wq q rq) (firstUnstarted q rq) with paused := true }

def wqInvalidateBody (qpn : Nat) (rq : Bool) (h : Cmd) (c : CmdInfo) (q : Qp) (s : Dev) : Dev :=
  reply c h csOk 0 (packResult [((firstUnstarted q rq).toNat, 4)]) (setQp qpn (invalidateQueue q rq) (addStale qpn rq q s))

def wqInvalidateEffect (h : Cmd) (qpn queue : Nat) : Dev → Dev :=
  command 0x0107 h true (firstBad [(8, decide (qpn < 2 ^ 20)), (12, decide (queue ≤ 1))])
    fun c => onQp c h qpn (wqInvalidateBody qpn (queue == 1) h c)

/-- WQ_INVALIDATE. -/
def execWqInvalidate (h : Cmd) (qpn queue : Nat) (s : State) : Res := runLevels (wqInvalidateEffect h qpn queue) s

end Sys2Proof.Machine
end

