-- ==== Sys2Proof/Machine/Admin.lean ====
section
/-!
DEFINITION. Sys2Proof/Machine/Admin.lean: admin queues: AQ_CREATE, AQ_DESTROY, CMD_AQ_PROD, CMD_AQ_RCONS,
COMMAND_FETCH_RETURN, COMMAND_REREAD, COMMAND_TIMEOUT, AQ0_ENABLE, AQ0_DISABLE, CORE_HUNG and CORE_RESTARTED (R19, R20,
R455 to R481).
-/
namespace Sys2Proof.Machine

/-! ## Reading of commands (R458, R479) -/

/-- The queue reads commands: it is enabled and not closing. -/
def aqReads (s : Dev) (n : Nat) : Bool := (getAq s n).en && !(getAq s n).closing

/-- A read of commands of a queue goes out. -/
def issueCommands (n : Nat) (s : Dev) : Dev :=
  let a := getAq s n
  emit (.fetchCommands n a.cnext (pasidOf s (aqOwner n) a.space)) s

/-- Issues a read of commands where the queue has some to read, no read outstanding, and its space can be read (R458, R479). -/
def fetchCommands (n : Nat) (s : Dev) : Dev :=
  let a := getAq s n
  if aqReads s n && canRead s a.space && !a.stopped && a.rereadDue.isNone && a.reading.isNone && decide (a.cnext ≠ a.cprod) then
    issueCommands n (setAq n { a with reading := some s.readNo } { s with readNo := s.readNo + 1 })
  else s

/-- CMD_AQ_PROD: R40 with the command ring. Commands are consumed as they are read. -/
def aqProd (n : Nat) (v : U64) (s : Dev) : Dev :=
  let a := getAq s n
  let t := u32 (fld v 31 0)
  let ahead := dist t a.cprod
  if !a.en || a.closing then s
  else if ahead = 0 then fetchCommands n (setAq n { a with stopped := false, rereads := if a.stopped then 0 else a.rereads } s)
  else if 2 ^ 31 ≤ ahead then
    fetchCommands n (bump 0x31 n (setAq n { a with stopped := false, rereads := if a.stopped then 0 else a.rereads } s))
  else if 2 ^ a.lg < dist t a.cnext then bump 0x31 n s
  else fetchCommands n (setAq n { a with cprod := t, stopped := false, rereads := if a.stopped then 0 else a.rereads } s)

/-- CMD_AQ_PROD. -/
def execCmdAqProd (queue : Nat) (value : U64) (s : State) : Res :=
  runLevels (fun d => if queue < 520 then aqProd queue value d else d) s

/-- ARM of a reply ring: a reply not yet consumed signals at once, else the next one does (R424, R458). -/
def armReplies (n : Nat) (s : Dev) : Dev :=
  let a := getAq s n
  if a.rprod = a.rcons then setAq n { a with armed := true } s else signal a.vector (setAq n { a with armed := false } s)

/-- CMD_AQ_RCONS: the reply consumer index under R63, and ARM. An index beyond the producer index changes nothing, and one
behind is ignored; both count as for CMD_AQ_PROD (log 62). -/
def aqRcons (n : Nat) (v : U64) (s : Dev) : Dev :=
  let a := getAq s n
  let t := u32 (fld v 31 0)
  let ahead := dist t a.rcons
  if !a.en then s
  else if ahead < 2 ^ 31 ∧ dist a.rprod a.rcons < ahead then bump 0x31 n s
  else
    let s := if 2 ^ 31 ≤ ahead then bump 0x31 n s else setAq n { a with rcons := t } s
    let s := closeQueues (pumpReplies n s)
    let s := if bit v 63 then armReplies n s else s
    startAll s

/-- CMD_AQ_RCONS. -/
def execCmdAqRcons (queue : Nat) (value : U64) (s : State) : Res :=
  runLevels (fun d => if queue < 520 then aqRcons queue value d else d) s

/-- The packet at an index of a command ring: in Millefeuille it is what memory holds. -/
def packetAt (s : Dev) (a : AdminQ) (i : U32) (p : BitVec 512) : BitVec 512 :=
  if a.space = 1 then BitVec.ofNat 512 (leNat (memRead s.mem (a.cbase + i.toNat % 2 ^ a.lg * 64) 64)) else p

/-- A packet fails the phase check (R49): a re-read after 100 ns, or the queue stops with CMD_AHEAD. -/
def packetAhead (n : Nat) (s : Dev) : Dev :=
  let a := getAq s n
  if a.rereads < 4 then setAq n { a with rereadDue := some (s.now + 100) } s
  else bump 0x32 n (setAq n { a with stopped := true, rereads := 0 } s)

/-- Packets are taken in ring order up to the producer index, to the first that fails its phase check. -/
def takePackets (n : Nat) : List (BitVec 512) → Dev → Dev
  | [], s => s
  | p :: r, s =>
    let a := getAq s n
    if a.cnext = a.cprod then s
    else
      let p := packetAt s a a.cnext p
      if cpPhase p ≠ phaseOf a.cnext a.lg then packetAhead n s
      else takePackets n r (setAq n { a with waiting := a.waiting ++ [(p, a.cnext)], cnext := a.cnext + 1, rereads := 0 } s)

/-- COMMAND_FETCH_RETURN: a read of commands returns; commands start in ring order (R458, R472 to R474). -/
def commandsReturn (n : Nat) (l : List (BitVec 512)) (s : Dev) : Dev :=
  if decide (n < 520) && (getAq s n).reading.isSome then
    let s := modAq n (fun a => { a with reading := none }) s
    if aqReads s n && !(getAq s n).stopped && (getAq s n).rereadDue.isNone then fetchCommands n (startAll (takePackets n l s)) else s
  else s

/-- COMMAND_REREAD: the re-read of a command is issued. -/
def commandReread (n : Nat) (s : Dev) : Dev :=
  let a := getAq s n
  if !(aqReads s n && canRead s (getAq s n).space && (getAq s n).reading.isNone) then s
  else atExpiry a.rereadDue (fun s => fetchCommands n (setAq n { a with rereadDue := none, rereads := a.rereads + 1 } s)) s

def execCommandReread (queue : Nat) (s : State) : Res := runLevels (commandReread queue) s

/-! ## Time limits of commands (R19, R20, R476, R477) -/

/-- A command that is still started replies TIMEOUT: with COMMITTED 0 it will never commit; with COMMITTED 1 what it
waits for still happens, without a reply (R345, R477). -/
def commandTimedOut (c : Started) (s : Dev) : Dev :=
  if !(s.started.any fun x => x.queue == c.queue && x.index == c.index) then s else
  let info := cmdRow c.opcode
  let mine := fun (w : Cmd × Nat × WaitOn) => w.1.aq == c.queue && w.1.index == c.index
  let late := s.waits.any mine
  let held := late && !c.committed
  let s := if held then { s with waits := s.waits.filter fun w => !mine w } else s
  let s := match c.core with
    | some k => { s with coreTimeouts := tset s.coreTimeouts k (tgetD s.coreTimeouts k 0 + 1) }
    | none => s
  let s := putReply c.queue ⟨0, 0, c.index, info.fast, c.committed, c.slice, c.tag, c.opcode, csTimeout⟩ s
  startAll (closeQueues (if held || (c.committed && !late) then s else { s with timedOut := s.timedOut ++ [(c.queue, c.index)] }))

/-- Completions that the failure, or the reset, of the queue pairs that satisfy `on` owes. -/
def owedBy (s : Dev) (on : Nat × Qp → Bool) : Nat :=
  s.qps.foldl (fun n p => if on p then n + ringUsed p.2.sq.ring + ringUsed p.2.rq.ring else n) 0

/-- The bound of R338 for a slice: 1 µs and 50 µs for steps 1 to 3, and 4 ns for each completion of step 4. -/
def resetBound (s : Dev) (k : Nat) : Nat := 51000 + 4 * owedBy s fun p => p.2.slice == k

/-- The moment at which a command reaches its bound (R466, R476). A wait that its rule names is not counted: what has committed and
waits has a bound of its own only where the table gives its row one; a reset's runs from its step 1, QP_MODIFY's wait is for room in a
ring (R73), and an install that R21 holds waits for the management plane. -/
def boundEnd (s : Dev) (c : Started) : Option Nat :=
  let mine : Option WaitOn := (s.waits.find? fun w => w.1.aq == c.queue && w.1.index == c.index).map fun w => w.2.2
  match mine with
  | some (.mgmtKey _ _ _ _) => none
  | some (.qpError _) => none
  | some (.sliceReset k _ since) => since.map fun t => t + resetBound s k
  | some (.sliceDestroy k _ since) => since.map fun t => t + resetBound s k + 10000000
  | _ =>
    if c.opcode = 0x0102 then some (c.since + 2000 + 4 * owedBy s fun p => p.1 == c.keyId / 512)
    else if c.committed && (cmdRow c.opcode).bound.isNone then none
    else some (c.since + (cmdRow c.opcode).bound.getD 1000000)

/-- COMMAND_TIMEOUT: a started command has reached its bound. -/
def commandTimeout (n : Nat) (i : U32) (s : Dev) : Dev :=
  match s.started.find? fun c => c.queue == n && c.index == i with
  | none => s
  | some c => atExpiry (boundEnd s c) (commandTimedOut c) s

def execCommandTimeout (queue : Nat) (index : U32) (s : State) : Res := runLevels (commandTimeout queue index) s

/-- CORE_HUNG (R19): the core's commands end with TIMEOUT, its triage list goes untriaged (R20), and the event counts its commands
that ended with TIMEOUT. -/
def coreHung (k : Nat) (s : Dev) : Dev :=
  if !(decide (k < 6) && s.cores.getLsbD k) then s
  else
    let s := (s.started.filter fun c => c.core == some k).foldl (fun s c => commandTimedOut c s)
      { s with cores := s.cores &&& ~~~((1 : BitVec 6) <<< k) }
    let n := tgetD s.coreTimeouts k 0
    let kept := tgetD s.triage k []
    let s := { s with
      coreHungAt := tset s.coreHungAt k s.now, coreTimeouts := tdel s.coreTimeouts k, triage := tdel s.triage k }
    let s := kept.foldl (fun s e => placeEvent 0 { e with untriaged := true } s) s
    devEvent 0x72 2 sourceMgmt k n 0 s

def execCoreHung (core : Nat) (s : State) : Res := runLevels (coreHung core) s

/-- CORE_RESTARTED: a hung core runs again, and takes commands (R19). -/
def coreRestarted (k : Nat) (s : Dev) : Dev :=
  if k < 6 ∧ (tget s.coreHungAt k).isSome = true then
    startAll { s with cores := s.cores ||| (1 <<< k), coreHungAt := tdel s.coreHungAt k, coreTimeouts := tdel s.coreTimeouts k }
  else s

def execCoreRestarted (core : Nat) (s : State) : Res := runLevels (coreRestarted core) s

/-! ## AQ_CREATE and AQ_DESTROY (R481) -/

/-- An enabled queue with both indices at 0. -/
def newAq (lg space vector pasid : Nat) (pasidV : Bool) (cbase rbase : Nat) : AdminQ :=
  { AdminQ.reset with
    en := true, lg := lg, space := space, vector := vector, pasid := pasid, pasidV := pasidV, cbase := cbase, rbase := rbase }

/-- What R27 asks of the rings of queue `n`: the status and the offset of the base that breaks it. -/
def aqRings (s : Dev) (n lg space cbase rbase : Nat) : Option (Nat × Nat) :=
  if n < 8 then
    if space ≠ 0 then some (csBadParam, 11)
    else if !ringAligned cbase lg 64 then some (csBadParam, 16)
    else if !ringAligned rbase lg 32 then some (csBadParam, 24)
    else none
  else
    let a := ringStatus s (n - 8) space cbase lg 64
    let b := ringStatus s (n - 8) space rbase lg 32
    let inside := decide (space ≠ 1) || inAllocation s (n - 8) cbase (2 ^ lg * 64)
    if a ≠ csOk then some (a, 16)
    else if !inside then some (csNotPermitted, 16)
    else if b ≠ csOk then some (b, 24) else none

def aqCreate (h : Cmd) (n lg space cbase rbase vector : Nat) : Dev → Dev :=
  command 0x0001 h false
    (firstBad [(8, decide (1 ≤ n ∧ n < 520)), (10, decide (4 ≤ lg ∧ lg ≤ 12)), (11, decide (space < 2)), (32, decide (vector < 2048))])
    fun c s =>
    if (getAq s n).en || (getAq s n).closing then refuse c h csBusy s
    else if 8 ≤ n ∧ h.slice ≠ n - 8 then badParam c h 6 s
    else if 8 ≤ n ∧ sliceLive s (n - 8) = false then badParam c h 8 s
    else
      match aqRings s n lg space cbase rbase with
      | some (st, off) => refuseRing c h st off s
      | none =>
        let pasid := if n < 8 then (getAq s 0).pasid else (getSlice s (n - 8)).pasid
        ok c h (setAq n (newAq lg space vector pasid (decide (8 ≤ n) || (getAq s 0).pasidV) cbase rbase) s)

def execAqCreate (h : Cmd) (n lg space cbase rbase vector : Nat) (s : State) : Res :=
  runLevels (aqCreate h n lg space cbase rbase vector) s

/-- The queue stops reading; its unstarted commands are discarded without replies. -/
def stopQueue (n : Nat) (s : Dev) : Dev := modAq n (fun a => { a with closing := true, waiting := [], rereadDue := none }) s

def aqDestroy (h : Cmd) (n : Nat) : Dev → Dev :=
  command 0x0002 h (decide (8 ≤ n)) (firstBad [(8, decide (n < 520))]) fun c s =>
    if n = h.aq then badParam c h 8 s
    else if !((getAq s n).en || (getAq s n).closing) then badParam c h 8 s
    else if 8 ≤ n ∧ h.slice ≠ n - 8 then badParam c h 8 s
    else closeQueues (waitOn h c.op (.adminQueue n) (stopQueue n s))

def execAqDestroy (h : Cmd) (n : Nat) (s : State) : Res := runLevels (fun d => startAll (aqDestroy h n d)) s

/-! ## Queue 0's own registers (R456, R457) -/

/-- LG of a written CMD_AQ_CTL is in range. -/
def aqLgOk (v : U64) : Bool := decide (4 ≤ fld v 59 56 ∧ fld v 59 56 ≤ 12)

/-- The fields of a written CMD_AQ_CTL (Table 14.2). A LG or SPACE out of range leaves its field (R506). -/
def aqCtl (v : U64) (a : AdminQ) : AdminQ :=
  { a with lg := if aqLgOk v then fld v 59 56 else a.lg, space := if fld v 55 52 = 0 then 0 else a.space, vector := fld v 51 41, pasid := fld v 40 21, pasidV := bit v 20 }

/-- A write of queue 0's CMD_AQ_CTL. While EN is 1 only a write that clears it acts. -/
def aq0Write (v : U64) (s : Dev) : Dev :=
  let a := getAq s 0
  if a.closing || !s.ready then s
  else if a.en then (if bit v 63 then s else startAll (closeQueues (stopQueue 0 s)))
  else
    let a := aqCtl v a
    let good := bit v 63 && aqLgOk v && decide (fld v 55 52 = 0) && ringAligned a.cbase a.lg 64 && ringAligned a.rbase a.lg 32
    setAq 0 (if good then newAq a.lg a.space a.vector a.pasid a.pasidV a.cbase a.rbase else a) s

/-- AQ0_ENABLE and AQ0_DISABLE: EN is written as 1, as 0. -/
def execAq0Enable (value : U64) (s : State) : Res := runLevels (aq0Write (value ||| (1 <<< 63))) s
def execAq0Disable (value : U64) (s : State) : Res := runLevels (aq0Write (value &&& ~~~((1 : U64) <<< 63))) s

/-! ## The host link (R479) -/

/-- Step 6 of R367: a queue whose rings lie in a space that was reset is disabled. Its started commands run on, and their
replies are discarded. -/
def resetQueue (n : Nat) (s : Dev) : Dev :=
  let a := getAq s n
  let s := bumpBy 0x33 n a.owed.length (setAq n (disabledQ n a) s)
  { s with started := s.started.map fun c => if c.queue = n then { c with orphan := true } else c }

/-- Every enabled admin queue with rings in a space is reset. -/
def resetQueues (sp : Nat) (s : Dev) : Dev :=
  closeQueues (s.adminQ.foldl (fun s p => if (p.2.en || p.2.closing) && p.2.space == sp then resetQueue p.1 s else s) s)

end Sys2Proof.Machine
end

