-- ==== Sys2Proof/Machine/Completion.lean ====
section
/-!
DEFINITION. Sys2Proof/Machine/Completion.lean: the commands on completion queues: CQ_CREATE, CQ_MODIFY and CQ_QUERY
(R67, R482, R533, R538). CQ_DESTROY is in Requester.lean.
-/
namespace Sys2Proof.Machine

/-- STALL_TIMEOUT in µs: 0 selects 100 ms (R67). -/
def stallOf (v : Nat) : Nat := if v = 0 then 100000 else v

/-- A stall timeout is in R67's range. -/
def stallOk (v : Nat) : Bool := decide (v = 0) || (decide (1000 ≤ v) && decide (v ≤ 10000000))

/-- A new completion queue, empty and not armed. -/
def newCq (slice : Nat) (r : RingP) (stall : Nat) : Cq where
  slice := slice
  ring := newRing r.space r.base r.lg r.index
  hold := []
  armed := none
  counter := 0
  stallTimeout := stallOf stall
  stallSince := none
  stalled := false
  error := false
  writtenAt := []

/-- CQ_CREATE (R27, R67, R533, R534 case 4). -/
def cqCreateBody (cqn : Nat) (r : RingP) (stall : Nat) (h : Cmd) (c : CmdInfo) (s : Dev) : Dev :=
  let st := ringStatus s h.slice r.space r.base r.lg 32
  if (tget s.cqs cqn).isSome then refuse c h csBusy s
  else if st ≠ csOk then refuseRing c h st 16 s
  else if quotaFull s h.slice 1 then refuse c h csNoFit s
  else ok c h (setCq cqn (newCq h.slice r stall) s)

def cqCreateEffect (h : Cmd) (cqn : Nat) (r : RingP) (stall : Nat) : Dev → Dev :=
  command 0x0108 h true
    (firstBad [(8, decide (cqn < 2 ^ 18)), (12, spaceOk r.space), (24, decide (4 ≤ r.lg ∧ r.lg ≤ 20)), (32, stallOk stall)])
    (cqCreateBody cqn r stall h)

/-- CQ_CREATE. -/
def execCqCreate (h : Cmd) (cqn : Nat) (ring : RingP) (stall : Nat) (s : State) : Res :=
  runLevels (cqCreateEffect h cqn ring stall) s

/-- A command on a completion queue that must exist and belong to SLICE (R534 cases 2 and 3). -/
def onCq (c : CmdInfo) (h : Cmd) (cqn : Nat) (body : Cq → Dev → Dev) (s : Dev) : Dev :=
  match tget s.cqs cqn with
  | none => badParam c h 8 s
  | some x => if x.slice ≠ h.slice then refuseOther c h 8 s else body x s

/-- CQ_MODIFY (R67): a running stall timer takes the new timeout. -/
def cqModifyBody (cqn stall : Nat) (h : Cmd) (c : CmdInfo) (x : Cq) (s : Dev) : Dev :=
  ok c h (setCq cqn { x with stallTimeout := stallOf stall } s)

def cqModifyEffect (h : Cmd) (cqn stall : Nat) : Dev → Dev :=
  command 0x0109 h true (firstBad [(8, decide (cqn < 2 ^ 18)), (12, stallOk stall)])
    fun c => onCq c h cqn (cqModifyBody cqn stall h c)

/-- CQ_MODIFY. -/
def execCqModify (h : Cmd) (cqn stall : Nat) (s : State) : Res := run (cqModifyEffect h cqn stall) s

/-- RESULT of CQ_QUERY (Table 14.10), from bit 128; STALL_TIMEOUT in whole ms (log 34). -/
def cqResult (x : Cq) : Nat := pack
  [(x.stallTimeout / 1000, 22), (b2n x.armed.isSome, 1), (b2n x.error, 1), (b2n x.stalled, 1), (x.hold.length, 7),
   (x.counter.toNat, 32), (x.ring.cons.toNat, 32), (x.ring.prod.toNat, 32)]

/-- CQ_QUERY (R65, R482). -/
def cqQueryBody (h : Cmd) (c : CmdInfo) (x : Cq) (s : Dev) : Dev := reply c h csOk 0 (cqResult x) s

def cqQueryEffect (h : Cmd) (cqn : Nat) : Dev → Dev :=
  command 0x010B h true (firstBad [(8, decide (cqn < 2 ^ 18))]) fun c => onCq c h cqn (cqQueryBody h c)

/-- CQ_QUERY. -/
def execCqQuery (h : Cmd) (cqn : Nat) (s : State) : Res := run (cqQueryEffect h cqn) s

end Sys2Proof.Machine
end

