-- ==== Sys2Proof/Machine/Fetch.lean ====
section
/-!
DEFINITION. Sys2Proof/Machine/Fetch.lean: reads of work entries: ENTRY_FETCH_RETURN and ENTRY_REREAD (R29, R49, R539),
the structural conditions of a malformed entry (R54), and slice fault-stop (R55).
-/
namespace Sys2Proof.Machine

/-! ## Fault-stop (R55) -/

/-- A malformed entry puts its LIVE slice into fault-stop: the error is latched and SLICE_FAULT_STOP is written. -/
def faultStop (qpn : Nat) (rq : Bool) (i : U32) (reason frag : Nat) (s : Dev) : Dev :=
  match getQp s qpn with
  | none => s
  | some q =>
    if !sliceLive s q.slice then s
    else
      let s := modSlice q.slice (fun x => { x with st := .faultStop, fault := some (qpn, rq, i) }) s
      let s := latch bankCore 0x0302 3 (some q.slice) (q.slice * 2 ^ 32 + b2n rq * 2 ^ 20 + qpn) i.toNat (frag * 256 + reason) s
      sliceEvent q.slice 0x7 3 bankCore qpn (i.toNat * 2 ^ 32 + b2n rq * 2 ^ 16 + frag * 256 + reason) 0 s

/-! ## Malformed entries (Table 2.8) -/

/-- The lowest reason code that a fragment alone meets. -/
def fragCode (f : BitVec 128) : Option Nat :=
  if fragRsvd f ≠ 0 then some 2
  else if fragLen f = 0 ∨ 2 ^ 30 < fragLen f ∨ 2 ^ 64 < fragAddr f + fragLen f then some 6
  else if !spaceOk (fragSpace f) then some 7
  else none

/-- Bits marked RSVD in an owner-defined OPERAND are set (Tables 5.11 and 6.4, R230). -/
def ownerRsvd (e : BitVec 512) : Bool :=
  let o := weOperand e
  if weOp e = opTransform then decide (bitsN o 63 48 ≠ 0) || o.testBit 46 || o.testBit 38
  else if weOp e = opCollective then decide (bitsN o 47 45 ≠ 4) && decide (bitsN o 42 25 ≠ 0)
  else if weOp e = opStageSend then o.testBit 46 || decide (bitsN o 39 32 ≠ 0)
  else false

/-- A field that Table 2.2 marks unused for the opcode is set. -/
def unusedSet (e : BitVec 512) : Bool :=
  let op := weOp e
  let plain := decide (op < 8) || op == opRecv
  (plain && !opUsesWkey op && (decide (weWkey e ≠ 0) || decide (weOff e ≠ 0)))
    || ((op == opNop || op == opRead || op == opSend || op == opRecv || op == 0x01) && decide (weOperand e ≠ 0))
    || ((op == opWriteImm || op == opSendImm) && decide (bitsN (weOperand e) 63 32 ≠ 0))
    || (op == opRecv && (weSignal e || weFence e || weTsReq e || weTriggered e || weStaged e))

/-- A bit of the fragment fields that Table 2.1 reserves is set. -/
def fragFieldsRsvd (e : BitVec 512) : Bool :=
  let f0 := if weTable e then decide (fld e 379 320 ≠ 0) else if weFragCount e = 0 then decide (fld e 383 256 ≠ 0) else false
  let f1 :=
    if weOp e = opCmpSwap then decide (fld e 511 448 ≠ 0)
    else if !weTable e && decide (weFragCount e = 2) then false
    else decide (fld e 511 384 ≠ 0)
  f0 || f1

/-- The fragments that an entry carries inline. -/
def inlineFrags (e : BitVec 512) : List (BitVec 128) := if weTable e then [] else weFrags e []

/-- The entry's fragment table can be read: its count, address and space are valid. -/
def tableValid (e : BitVec 512) : Bool :=
  weTable e && decide (1 ≤ weFragCount e ∧ weFragCount e ≤ 256) && decide (weTableAddr e % 16 = 0) && spaceOk (weTableSpace e)

/-- Sum of the lengths of fragments. -/
def fragSum (l : List (BitVec 128)) : Nat := l.foldl (fun n f => n + fragLen f) 0

/-- Position of the first fragment with a reason code. -/
def badFrag (l : List (BitVec 128)) : Option Nat := l.findIdx? fun f => (fragCode f).isSome

/-- LENGTH breaks code 0x05. A fragment table that could not be read, or read as poisoned, gives no sum. -/
def lengthBad (e : CachedEntry) : Bool :=
  if weOp e.raw = opNop ∧ weLen e.raw ≠ 0 then true
  else if weTable e.raw then
    tableValid e.raw && !e.tablePoisoned && !e.table.isEmpty && decide (fragSum (weFrags e.raw e.table) ≠ weLen e.raw)
  else decide (fragSum (inlineFrags e.raw) ≠ weLen e.raw)

/-- An atomic breaks code 0x0A. -/
def atomicBad (e : BitVec 512) : Bool :=
  (weOp e == opFetchAdd || weOp e == opCmpSwap)
    && (decide (weLen e ≠ 8) || weTable e || decide (weFragCount e ≠ 1) || decide (weOff e % 8 ≠ 0)
      || decide (fragAddr (weFrag0 e) % 8 ≠ 0))

/-- The lowest reason code of Table 2.8 below 0x0C that an entry meets, with the fragment number for code 0x09. A poisoned
entry is never malformed (R54). -/
def structCode (e : CachedEntry) (rq : Bool) : Option (Nat × Nat) :=
  let r := e.raw
  let op := weOp r
  let inl := inlineFrags r
  let tbl := if e.tablePoisoned then [] else e.table
  let conds : List (Nat × Bool) :=
    [(1, if rq then op != opRecv else !opSendOk op),
     (2, decide (weRsvd39 r ≠ 0) || weRsvd95 r || unusedSet r || fragFieldsRsvd r || ownerRsvd r
       || inl.any fun f => decide (fragRsvd f ≠ 0)),
     (3, decide (2 ^ 30 < weLen r)),
     (4, if weTable r then decide (weFragCount r = 0 ∨ 256 < weFragCount r) else decide (2 < weFragCount r)),
     (5, lengthBad e),
     (6, inl.any fun f => fragCode f == some 6),
     (7, (inl.any fun f => !spaceOk (fragSpace f)) || (weTable r && !spaceOk (weTableSpace r))),
     (8, weTable r && decide (weTableAddr r % 16 ≠ 0)),
     (9, (badFrag tbl).isSome),
     (10, atomicBad r),
     (11, weStaged r && (decide (256 < weLen r) || weTable r || decide (weFragCount r ≠ 1)))]
  if e.poisoned then none
  else (conds.find? fun c => c.2).map fun c => (c.1, if c.1 = 9 then (badFrag tbl).getD 0 else 0)

/-! ## The read returns -/

/-- 64 bytes of a ring in the slice's Millefeuille, at physical pieces. -/
def readPieces (s : Dev) (l : List (Nat × Nat)) : List Byte × Bool :=
  l.foldl (fun r p => (r.1 ++ memRead s.mem p.1 p.2, r.2 || poisonedAt s p.1 p.2)) ([], false)

/-- A list of bytes as 16-byte words. -/
def words128 : List Byte → Nat → List (BitVec 128)
  | _, 0 => []
  | bs, n + 1 => BitVec.ofNat 128 (leNat (bs.take 16)) :: words128 (bs.drop 16) n

/-- The slice may use the space: an accelerator's is bound to it, and host memory needs R379. -/
def spaceBound (s : Dev) (slice sp : Nat) : Bool :=
  pasidOk s slice sp && (decide (sp < 2) || (getSlice s slice).accMask.getLsbD (sp - 2))

/-- What a read found for one entry: the entry, or a page on whose walk the fetch waits. A refused read is one that returned poison
(R380). -/
def readTable (s : Dev) (slice : Nat) (e : FetchedEntry) : FetchedEntry ⊕ (Nat × Nat) :=
  if e.poisoned || !tableValid e.raw || !spaceBound s slice (weTableSpace e.raw)
      || decide (2 ^ 48 < weTableAddr e.raw + 16 * weFragCount e.raw) then
    .inl { e with table := [], tablePoisoned := false, tableRefused := false }
  else
    match translate s slice (weTableSpace e.raw) (weTableAddr e.raw) (16 * weFragCount e.raw) accRead with
    | .inr page => .inr (weTableSpace e.raw, page)
    | .inl l =>
      if weTableSpace e.raw = 1 then
        let (bs, p) := readPieces s l
        .inl { e with table := words128 bs (weFragCount e.raw), tablePoisoned := p, tableRefused := false }
      else .inl { e with table := e.table.take (weFragCount e.raw), tablePoisoned := e.tablePoisoned || e.tableRefused }

/-- The entry at an index as the ring's memory holds it: a ring in Millefeuille is read from the stacks. -/
def readEntry (s : Dev) (slice : Nat) (r : Ring) (i : U32) (e : FetchedEntry) : FetchedEntry ⊕ (Nat × Nat) :=
  if r.space = 1 then
    match translate s slice 1 (entryAddr r i) 64 accRead with
    | .inr page => .inr (1, page)
    | .inl l =>
      let (bs, p) := readPieces s l
      readTable s slice { e with raw := BitVec.ofNat 512 (leNat bs), poisoned := p }
  else readTable s slice { e with poisoned := e.poisoned || e.refused }

/-- The lookups of an entry and of its fragment table have hit (R124). -/
def touchEntry (slice : Nat) (r : Ring) (i : U32) (e : BitVec 512) (s : Dev) : Dev :=
  let s := touchTrans slice r.space (entryAddr r i) 64 accRead s
  if weTable e then touchTrans slice (weTableSpace e) (weTableAddr e) (16 * weFragCount e) accRead s else s

/-- An entry failed the phase check (R49): a re-read 100 ns later, or DB_AHEAD after the fourth. -/
def phaseFailed (qpn : Nat) (rq : Bool) (w : WorkQueue) (i : U32) (s : Dev) : Dev :=
  let n := if w.rereadAt = i then w.rereads else 0
  if 4 ≤ n then stopFetch qpn rq false i s
  else modWq qpn rq (fun w => { w with next := i, rereadDue := some (s.now + 100), rereadAt := i, rereads := n }) s

/-- One entry that a read returned for index `i`; the first part says whether the next one is looked at. For a pushed entry
whose fragment table was still to be read, the read brings the table only (R45). -/
def acceptEntry (qpn : Nat) (rq : Bool) (i : U32) (e : FetchedEntry) (s : Dev) : Bool × Dev :=
  match getQp s qpn with
  | none => (false, s)
  | some q =>
    let w := wq q rq
    let found := match cachedAt w i with
      | some c => readTable s q.slice { e with raw := c.raw, poisoned := false }
      | none => readEntry s q.slice w.ring i e
    match found with
    | .inr (sp, page) => (false, missWalk q.slice sp page accRead (.fetch qpn rq) s)
    | .inl e =>
      let s := touchEntry q.slice w.ring i e.raw s
      let s := if e.tableRefused then refusedIn q.slice (weTableSpace e.raw) (weTableAddr e.raw) s else s
      if !e.poisoned && wePhase e.raw != phaseOf i w.ring.lg then (false, phaseFailed qpn rq w i s)
      else
        let c : CachedEntry := ⟨i, e.raw, e.poisoned, e.table, e.tablePoisoned, (cachedAt w i).bind (·.staged), false⟩
        let bad := if !e.tablePoisoned && (badFrag e.table).isSome then structCode c rq else none
        let rest := w.cache.filter fun x => !(x.index == i)
        let s := setQp qpn (setWq q rq { w with
          cache := rest ++ [c], next := i + 1, rereads := if i = w.rereadAt then 0 else w.rereads }) s
        match bad with
        | some (code, frag) => (false, faultStop qpn rq i code frag s)
        | none => (true, s)

/-- The entries of a read, in index order, until one is not accepted. -/
def acceptEntries (qpn : Nat) (rq : Bool) : List FetchedEntry → U32 → Dev → Dev
  | [], _, s => s
  | e :: r, i, s =>
    match acceptEntry qpn rq i e s with
    | (true, s) => acceptEntries qpn rq r (i + 1) s
    | (false, s) => s

/-- The read of entries from index `first` on came back refused, for one of them at least (R380). -/
def countRefused (slice : Nat) (r : Ring) (first : U32) (l : List FetchedEntry) (s : Dev) : Dev :=
  match l.findIdx? fun e => e.refused with
  | some k => refusedIn slice r.space (entryAddr r (first + u32 k)) s
  | none => s

/-- A read of entries returned; one that its queue has given up returns first, as it was issued first. Data that returns in fault-stop,
in a reset or while the queue pair is held or frozen is discarded (R55, R338, R365, R411). -/
def entryFetchReturnEffect (qpn : Nat) (rq : Bool) (entries : List FetchedEntry) (s : Dev) : Dev :=
  match s.staleReads.find? fun r => r.qpn == qpn && r.rq == rq with
  | some r =>
    countRefused r.slice r.ring r.first (entries.take r.count)
      { s with staleReads := s.staleReads.erase r }
  | none =>
  match getQp s qpn with
  | none => s
  | some q =>
    match (wq q rq).reading with
    | none => s
    | some (first, n) =>
      let s := countRefused q.slice (wq q rq).ring first (entries.take n) (modWq qpn rq (fun w => { w with reading := none }) s)
      if !sliceLive s q.slice || q.held.isSome || q.frozen.isSome then s
      else fetchQueue qpn rq (acceptEntries qpn rq (entries.take n) first s)

/-- A re-read of the entry that failed the phase check is issued (R49 step 2), once what lies before it has been read. -/
def reread (qpn : Nat) (rq : Bool) (q : Qp) (s : Dev) : Dev :=
  let w := wq q rq
  if w.next ≠ w.rereadAt ∨ w.reading.isSome = true then s
  else
  match translate s q.slice w.ring.space (entryAddr w.ring w.next) 64 accRead with
  | .inr page =>
    missWalk q.slice w.ring.space page accRead (.fetch qpn rq)
      (modWq qpn rq (fun w => { w with rereadDue := none, rereads := w.rereads + 1 }) s)
  | .inl _ =>
    startFetch qpn rq q.slice 1 { w with rereadDue := none, rereads := w.rereads + 1 }
      (touchTrans q.slice w.ring.space (entryAddr w.ring w.next) 64 accRead s)

def entryRereadEffect (qpn : Nat) (rq : Bool) (s : Dev) : Dev :=
  match getQp s qpn with
  | none => s
  | some q =>
    if !sliceLive s q.slice || q.held.isSome || q.frozen.isSome || !canRead s (wq q rq).ring.space then s
    else atExpiry (wq q rq).rereadDue (reread qpn rq q) s

/-- ENTRY_REREAD. -/
def execEntryReread (qpn : Nat) (rq : Bool) (s : State) : Res := runLevels (entryRereadEffect qpn rq) s

end Sys2Proof.Machine
end

