-- ==== Sys2Proof/Machine/Programs.lean ====
section
/-!
DEFINITION. Sys2Proof/Machine/Programs.lean: loaded programs and the queue of work items (R153, R154, R158, R184, R187).
-/
namespace Sys2Proof.Machine

/-- The program that a slot of a slice holds. -/
def findProg (s : Dev) (slice slot : Nat) : Option Program :=
  s.programs.find? fun p => p.slice == slice && p.slot == slot && !p.dead

/-- The slice's item quota is used (R158). -/
def itemsFull (s : Dev) (slice : Nat) : Bool := decide (quotaLimit s slice 5 ≤ quotaUsed s slice 5)

/-- Output bytes of an input length under a program (R187). -/
def outBytes (p : Program) (n : Nat) : Nat := n / p.inGran * p.outGran

/-- A new item of a program (R153); it has no input and no output yet. -/
def newItem (slice qpn : Nat) (key : U32) (p : Program) (arg : U32) (gran : Nat) (dest : ItemDest) : Item where
  id := 0
  slice := slice
  qpn := qpn
  key32 := key
  prog := p.id
  slot := none
  arg := arg
  msgGran := gran
  weight := none
  src := []
  srcAt := []
  len := 0
  input := []
  poisoned := false
  dest := dest
  out := []
  outAt := []
  snap := none
  stage := .queued
  seed := 0
  aux := []
  srcToken := none
  token := none
  made := none
  faultDue := none
  arr := none

/-- Queues a work item with the packet core (R153). -/
def addItem (i : Item) (s : Dev) : Dev := { s with freeCtr := s.freeCtr + 1, items := s.items ++ [{ i with id := s.freeCtr }] }

/-- Bytes `[a, a + n)` and `[b, b + k)` overlap. -/
def overlap (a n b k : Nat) : Bool := decide (a < b + k) && decide (b < a + n)

/-- Bytes `[a, a + n)` of a send entry's output are still to come from an item. -/
def wireOverlap (s : Dev) (qpn : Nat) (entry : U32) (a n : Nat) : Bool :=
  s.items.any fun i => match i.dest with
    | .wire q e off =>
      match progOf s i.prog with
      | some p => q == qpn && e == entry && overlap off (outBytes p i.len) a n
      | none => false
    | _ => false

end Sys2Proof.Machine
end

