-- ==== Sys2Proof/Machine/Coll.lean ====
section
/-!
DEFINITION. Sys2Proof/Machine/Coll.lean: the collective sequencer: the algorithms and their messages (R202 to R206, R211,
R217), the start, progress and end of a collective (R207 to R210). The manual numbers no streams; a stream here is one
sequence of messages of a channel that go to one peer in order.
-/
namespace Sys2Proof.Machine

/-! ## Member tables (Table 6.2) -/

/-- Rank and channel of the peer at the far end of a local queue pair. -/
def peerOf (g : Group) (qpn : Nat) : Option (Nat × Nat) :=
  (g.members.findIdx? fun m => mbQv m && mbQpn m == qpn).map fun i => (i / g.p.channels, i % g.p.channels)

/-- The live window of a key that a slice owns (Table 4.2). -/
def liveWindow (s : Dev) (slice wkey : Nat) : Option Window :=
  match tget s.windows (wkIndex wkey) with
  | some w => if w.v && w.tag == wkTag wkey && w.owner == slice then some w else none
  | none => none

/-- A member's own work window. -/
def ownWindow (s : Dev) (g : Group) : Option Window := liveWindow s g.slice (mbWkey (memberAt g g.p.rank 0))

/-! ## OPERAND of a COLLECTIVE entry (Table 6.4) -/

def coGroup (e : BitVec 512) : Nat := bitsN (weOperand e) 63 48
def coOp (e : BitVec 512) : Nat := bitsN (weOperand e) 47 45
def coAlgo (e : BitVec 512) : Nat := bitsN (weOperand e) 44 43
def coRoot (e : BitVec 512) : Nat := bitsN (weOperand e) 42 25
def coInPlace (e : BitVec 512) : Bool := (weOperand e).testBit 24
def coSize (e : BitVec 512) : Nat := bitsN (weOperand e) 23 0 * 256

/-- OP codes. -/
def allReduce : Nat := 0
def reduceScatter : Nat := 1
def allGather : Nat := 2
def allToAll : Nat := 3
def broadcast : Nat := 4

/-! ## The choice of an algorithm (R205, Table 6.7) -/

/-- Algorithms: 1 ring, 2 tree, 3 direct; 4 stands for the REDUCE_SCATTER that runs as a direct ALL_TO_ALL (R217). -/
def algoSupports (op a : Nat) : Bool :=
  if a = 2 then op == allReduce || op == broadcast else if a = 1 then !(op == allToAll) else true

/-- The group permits an algorithm. -/
def algoPermitted (mask a : Nat) : Bool := mask.testBit (a - 1)

/-- R205. -/
def chooseAlgo (mask n op size : Nat) : Nat :=
  let can := fun a => algoPermitted mask a && algoSupports op a
  if can 3 && decide (n ≤ 64) then 3
  else if can 2 && decide (size < 262144) then 2
  else if can 1 then 1
  else if can 3 then 3
  else if can 2 then 2
  else 0

/-- An ALL_REDUCE that a hierarchy carries out (R211). -/
def layered (g : Group) (op : Nat) : Bool := g.p.parentV == 1 && op == allReduce

/-- The algorithm that an operation of a group runs; 0 where none is possible, which makes the entry malformed even with ALGO 0 (log 125).
A hierarchy chooses by the phases it runs. -/
def runAlgo (s : Dev) (g : Group) (op algo size : Nat) : Nat :=
  if (getSlice s g.slice).redHa && op == reduceScatter then (if algoPermitted g.p.algoMask 3 then 4 else 0)
  else if layered g op then chooseAlgo g.p.algoMask g.p.n reduceScatter size
  else if algo = 0 then chooseAlgo g.p.algoMask g.p.n op size
  else if algoPermitted g.p.algoMask algo && algoSupports op algo then algo
  else 0

/-! ## Structural checks (R203) -/

/-- LENGTH or IN_PLACE breaks Table 6.5, by the OP of the entry: a host-assisted REDUCE_SCATTER, which runs as ALL_TO_ALL (R217), may be
in place (log 174). -/
def collLengthBad (g : Group) (e : BitVec 512) : Bool :=
  let op := coOp e
  let want :=
    if op = allGather then coSize e / g.p.n
    else if op = broadcast then (if g.p.rank = coRoot e then coSize e else 0)
    else coSize e
  if op = allToAll then coInPlace e || decide (weLen e ≠ want)
  else if coInPlace e then decide (weLen e ≠ 0)
  else decide (weLen e ≠ want)

/-- The group of the level above, in which this member takes part: the slice holds an entry of it (R211). -/
def parentOf (s : Dev) (g : Group) : Option Group :=
  if g.p.parentV = 0 then none else (tget s.groups g.p.parent).filter fun h => h.slice == g.slice

/-- S breaks the multiple rule of R202 at a group, or, for a layered ALL_REDUCE, at a level above. -/
def multipleBad (s : Dev) (g : Group) (op size : Nat) : Nat → Bool
  | 0 => false
  | f + 1 =>
    (op != broadcast && decide (size % (g.p.channels * g.p.n * 256) ≠ 0))
      || (layered g op && match parentOf s g with
          | some h => multipleBad s h op (size / g.p.n) f
          | none => false)

/-- Segments of a part. -/
def segments (g : Group) (part : Nat) : Nat := ceilDiv part g.p.segBytes

/-- A tree of the collective would need more than 4,096 segments: its own, or that of a level above (R203, R211). -/
def treeBad (s : Dev) (g : Group) (op algo size : Nat) : Nat → Bool
  | 0 => false
  | f + 1 =>
    (runAlgo s g op algo size == 2 && decide (4096 < segments g (ceilDiv size g.p.channels)))
      || (layered g op && match parentOf s g with
          | some h => treeBad s h op 0 (size / g.p.n) f
          | none => false)

/-- R203. With ALGO 0 and no permitted algorithm for its OP an entry is malformed too, which the manual leaves open (R205, log 125). -/
def collMalformed (s : Dev) (slice : Nat) (e : BitVec 512) : Bool :=
  match tget s.groups (coGroup e) with
  | none => true
  | some g =>
    let a := runAlgo s g (coOp e) (coAlgo e) (coSize e)
    g.slice != slice || decide (4 < coOp e) || a == 0
      || (coAlgo e != 0 && !(algoPermitted g.p.algoMask (coAlgo e) && algoSupports (coOp e) (coAlgo e))) || decide (g.p.n ≤ coRoot e)
      || decide (weWkey e ≠ 0) || decide (coSize e = 0) || collLengthBad g e
      || multipleBad s g (coOp e) (coSize e) 3 || decide (2 ^ 48 < weOff e + coSize e)
      || treeBad s g (coOp e) (coAlgo e) (coSize e) 3
      || (g.p.path == 0 && decide (weOff e % 128 ≠ 0))
      || ((getSlice s slice).redHa && coOp e == allReduce)

/-! ## Messages -/

/-- A message of the sequencer: the peer's rank and channel, where its bytes lie (`frag` in the entry's fragments, else in
the region), where they go in the peer's region, and its REDUCE and STEP (Table 6.6). -/
structure CollMsg where
  peer : Nat
  chan : Nat
  frag : Bool
  src : Nat
  dst : Nat
  len : Nat
  reduce : Bool
  step : Nat
  deriving DecidableEq, Repr

/-- Place of part `c`: equal parts where S divides, else as even as whole bytes allow (R202, log 35). -/
def partLo (g : Group) (r : CollRun) (c : Nat) : Nat := c * r.size / g.p.channels
def partLen (g : Group) (r : CollRun) (c : Nat) : Nat := partLo g r (c + 1) - partLo g r c

/-- Place of chunk `j` of channel `c`: chunk j of part c for a reduction, also at the top level of a hierarchy; for ALL_GATHER,
ALL_TO_ALL and the levels below, whose phases are a REDUCE_SCATTER of whole blocks and an ALL_GATHER, piece c of block j of S ÷ n
bytes (R202, R211, log 36). -/
def chunkAt (g : Group) (r : CollRun) (c j : Nat) : Nat :=
  if r.op = reduceScatter ∧ r.algo ≠ 4 ∨ r.op = allReduce ∧ g.p.parentV = 0 then
    partLo g r c + j * (r.size / (g.p.channels * g.p.n))
  else j * (r.size / g.p.n) + c * (r.size / (g.p.channels * g.p.n))

/-- Bytes of a chunk. -/
def chunkLen (g : Group) (r : CollRun) : Nat := r.size / (g.p.channels * g.p.n)

/-- Messages that a stream of a channel sends in all. -/
def streamTotal (g : Group) (r : CollRun) (c st : Nat) : Nat :=
  let n := g.p.n
  let v := vrank g r
  let m := segments g (partLen g r c)
  if r.algo = 1 then
    if st ≠ 0 then 0
    else if r.op = broadcast then (if v = n - 1 then 0 else m)
    else if r.op = allReduce then 2 * n - 2 else n - 1
  else if r.algo = 2 then
    if st = 1 then (if r.op = allReduce ∧ v ≠ 0 then m else 0)
    else if st = 2 ∨ st = 3 then (if 2 * v + (st - 1) < n then m else 0)
    else 0
  else
    if st = 0 then (if r.op = broadcast then (if v = 0 then n - 1 else 0) else n - 1)
    else if st = 1 then (if r.op = allReduce then n - 1 else 0) else 0

/-- Messages that a member expects on a channel in all. -/
def expectTotal (g : Group) (r : CollRun) (c : Nat) : Nat :=
  let n := g.p.n
  let v := vrank g r
  let m := segments g (partLen g r c)
  let kids := b2n (decide (2 * v + 1 < n)) + b2n (decide (2 * v + 2 < n))
  if r.algo = 1 then
    if r.op = broadcast then (if v = 0 then 0 else m) else if r.op = allReduce then 2 * n - 2 else n - 1
  else if r.algo = 2 then
    (if r.op = allReduce then kids * m else 0) + (if v = 0 then 0 else m)
  else
    if r.op = broadcast then (if v = 0 then 0 else 1) else if r.op = allReduce then 2 * (n - 1) else n - 1

/-- Messages retired on a stream. -/
def gotOn (r : CollRun) (c st : Nat) : Nat := tgetD r.got (c * 16 + st) 0

/-- Message `k` of a stream may be sent now (R204, R209). The second half of a layered ALL_REDUCE waits for the level
above (R211). -/
def mayIssue (g : Group) (r : CollRun) (c st k : Nat) : Bool :=
  let n := g.p.n
  let v := vrank g r
  let kidsReady := (!decide (2 * v + 1 < n) || decide (k < gotOn r c 1)) && (!decide (2 * v + 2 < n) || decide (k < gotOn r c 2))
  let half := fun (second : Bool) => !layered g r.op || !second || r.phase == 2
  if r.algo = 1 then
    if r.op = broadcast then decide (v = 0) || decide (k < gotOn r c 0)
    else decide (k ≤ gotOn r c 0) && half (r.op == allReduce && decide (n - 1 ≤ k))
  else if r.algo = 2 then
    if st = 1 then kidsReady
    else if v = 0 then (r.op == broadcast || kidsReady) else decide (k < gotOn r c 3)
  else
    if st = 1 then decide (n - 1 ≤ gotOn r c 0) && half true else true

/-- Message `k` of a stream of a channel (R204). -/
def collMsg (g : Group) (r : CollRun) (inPlace : Bool) (c st k : Nat) : CollMsg :=
  let n := g.p.n
  let me := g.p.rank
  let v := vrank g r
  let seg := fun (j : Nat) => (partLo g r c + j * g.p.segBytes, Nat.min g.p.segBytes (partLen g r c - j * g.p.segBytes))
  let chunk := fun (peer j : Nat) (red : Bool) (step : Nat) =>
    (⟨peer, c, false, chunkAt g r c j, chunkAt g r c j, chunkLen g r, red, step⟩ : CollMsg)
  if r.algo = 1 then
    let next := (me + 1) % n
    if r.op = broadcast then ⟨next, c, false, (seg k).1, (seg k).1, (seg k).2, false, k⟩
    else if r.op = allGather then chunk next ((me + n - k % n) % n) false k
    else if k < n - 1 then chunk next ((me + 2 * n - k - 1) % n) true k
    else chunk next ((me + n - (k - (n - 1))) % n) false k
  else if r.algo = 2 then
    let peer := if st = 1 then realRank g r ((v - 1) / 2) else realRank g r (2 * v + (st - 1))
    ⟨peer, c, false, (seg k).1, (seg k).1, (seg k).2, st == 1, 2 * k + b2n (st != 1)⟩
  else
    let peer := (me + 1 + k) % n
    if r.op = broadcast then ⟨peer, c, false, partLo g r c, partLo g r c, partLen g r c, false, 0⟩
    else if r.op = allToAll ∨ r.algo = 4 then
      ⟨peer, c, !inPlace, chunkAt g r c peer, chunkAt g r c me, chunkLen g r, false, 0⟩
    else if r.op = allGather then chunk peer me false 0
    else if st = 0 then chunk peer peer true 0
    else chunk peer me false 1

/-- COLL_DATA descriptor (Table 6.6). -/
def encColl (wkey group seq op : Nat) (reduce : Bool) (step off : Nat) : BitVec 128 := BitVec.ofNat 128 (pack
  [(off, 48), (step, 13), (0, 3), (b2n reduce, 1), (op, 3), (seq, 12), (group, 16), (wkey, 32)])

def cdGroup (d : BitVec 128) : Nat := fld d 95 80
def cdSeq (d : BitVec 128) : Nat := fld d 79 68
def cdOp (d : BitVec 128) : Nat := fld d 67 65
def cdReduce (d : BitVec 128) : Bool := bit d 64
def cdRsvd (d : BitVec 128) : Nat := fld d 63 61
def cdStep (d : BitVec 128) : Nat := fld d 60 48

/-! ## Pieces of a message's bytes -/

/-- The pieces that lie `[off, off + len)` into a concatenation of pieces. -/
def subPieces : List (Nat × Nat × Nat) → Nat → Nat → List (Nat × Nat × Nat)
  | [], _, _ => []
  | (sp, a, n) :: r, off, len =>
    if n ≤ off then subPieces r (off - n) len
    else
      let k := Nat.min len (n - off)
      if k = 0 then [] else (sp, a + off, k) :: subPieces r 0 (len - k)

/-- The local data of an entry (R37). -/
def entryPieces (e : CachedEntry) : List (Nat × Nat × Nat) :=
  (weFrags e.raw e.table).map fun f => (fragSpace f, fragAddr f, fragLen f)

/-! ## Progress -/

def setGroup (k : Nat) (g : Group) (s : Dev) : Dev := { s with groups := tset s.groups k g }

/-- The group's collective changes. -/
def modRun (k : Nat) (f : CollRun → CollRun) (s : Dev) : Dev :=
  match tget s.groups k with
  | some g => setGroup k { g with run := g.run.map f } s
  | none => s

/-- The cached entry of a started send entry. -/
def startedEntry (s : Dev) (qpn : Nat) (i : U32) : Option SendEntry :=
  (getQp s qpn).bind fun q => q.rqr.started.find? fun e => e.e.index == i

/-- Queues one message of a collective on its queue pair. -/
def queueColl (gid : Nat) (g : Group) (r : CollRun) (w : Window) (frags : List (Nat × Nat × Nat)) (m : CollMsg) (s : Dev) : Dev :=
  let mb := memberAt g m.peer m.chan
  let src := if m.frag then subPieces frags m.src m.len else [(w.space, w.base + r.region + m.src, m.len)]
  let d := encColl (mbWkey mb) gid g.opSeq r.op m.reduce m.step (r.region + m.dst)
  { s with
    freeCtr := s.freeCtr + 1
    seqMsgs := s.seqMsgs ++ [⟨s.freeCtr, mbQpn mb, .coll gid r.id, pkColl, d, src, m.len, 0, 0⟩] }

/-- Every message of a stream that may be sent is queued. -/
def issueStream (gid c st : Nat) (w : Window) (frags : List (Nat × Nat × Nat)) (inPlace : Bool) : Nat → Dev → Dev
  | 0, s => s
  | f + 1, s =>
    match tget s.groups gid with
    | none => s
    | some g =>
      match g.run with
      | none => s
      | some r =>
        let k := tgetD r.sent (c * 16 + st) 0
        if k < streamTotal g r c st ∧ mayIssue g r c st k = true then
          let m := collMsg g r inPlace c st k
          let s := queueColl gid g r w frags m s
          let r' := { r with sent := tset r.sent (c * 16 + st) (k + 1), issued := r.issued + 1, step := m.step }
          issueStream gid c st w frags inPlace f (setGroup gid { g with run := some r' } s)
        else s

/-- Every message of the collective that may be sent is queued (R209). -/
def issueAll (gid : Nat) (s : Dev) : Dev :=
  match tget s.groups gid with
  | none => s
  | some g =>
    match g.run, ownWindow s g with
    | some r, some w =>
      let e := startedEntry s r.qpn r.index
      let frags := (e.map fun x => entryPieces x.e).getD []
      let inPlace := (e.map fun x => coInPlace x.e.raw).getD true
      (List.range g.p.channels).foldl (fun s c =>
        (List.range 4).foldl (fun s st => issueStream gid c st w frags inPlace (streamTotal g r c st) s) s) s
    | _, _ => s

/-- Messages that a member sends over all channels up to the end of the half it is in; the ones it expects have retired. -/
def sendGoal (g : Group) (r : CollRun) : Nat :=
  let all := (List.range g.p.channels).foldl (fun n c =>
    n + (List.range 4).foldl (fun n st => n + streamTotal g r c st) 0) 0
  if layered g r.op && r.phase != 2 then all / 2 else all
def recvMet (g : Group) (r : CollRun) : Bool :=
  if layered g r.op && r.phase != 2 then (List.range g.p.channels).all fun c => decide (g.p.n - 1 ≤ gotOn r c 0)
  else decide ((List.range g.p.channels).foldl (fun n c => n + expectTotal g r c) 0 ≤ r.retired)

/-- A copy of the entry's own, to its input, has still to be ordered at its port (R208, R209). -/
def copiesQueued (s : Dev) (r : CollRun) : Bool :=
  s.host.queued.any mine || s.accs.any fun p => p.2.queued.any mine
where
  /-- A write of the entry. -/
  mine (w : LoggedWrite) : Bool := w.qpn == some r.qpn && w.owner == some (false, r.index)

/-- The input is in place: no part of it is still being read, and every copy is ordered at the window's port (R208). -/
def inPlaceNow (s : Dev) (r : CollRun) : Bool := r.ready && !copiesQueued s r

/-- The half, or the whole, has ended: every message sent is acknowledged and every one expected has retired, and the result is
ordered at the window's port (R209). -/
def goalMet (s : Dev) (g : Group) (r : CollRun) : Bool :=
  inPlaceNow s r && decide (sendGoal g r ≤ r.acked) && recvMet g r

/-- A fresh run. -/
def newRun (id qpn : Nat) (i : U32) (op algo root size region : Nat) (child : Option Nat) (ready : Bool) (now : Nat) : CollRun where
  id := id
  qpn := qpn
  index := i
  op := op
  algo := algo
  root := root
  size := size
  region := region
  phase := 0
  child := child
  started := ready
  copies := 0
  ready := ready
  sent := []
  got := []
  issued := 0
  acked := 0
  retired := 0
  step := 0
  lastProgress := now
  poisoned := false

/-- The level above starts on this member's chunk when its group is free (R211 phase 2). A middle level whose ALGO_MASK permits the
tree only has no algorithm of R205 for its REDUCE_SCATTER: it runs as the direct exchange, which the manual leaves open (log 158).
Where the level above is BROKEN, which the manual does not speak of, the collective is aborted (log 172). -/
def startParent (gid : Nat) (g h : Group) (r : CollRun) (s : Dev) : Dev :=
  if h.broken then abortColl gid r.qpn 0xFF s
  else if h.run.isSome then s
  else
    let size := r.size / g.p.n
    setGroup g.p.parent { h with
      run := some (newRun s.freeCtr r.qpn r.index allReduce (runAlgo s h allReduce 0 size) 0 size
        (r.region + g.p.rank * size) (some gid) true s.now) } { s with freeCtr := s.freeCtr + 1 }

/-- The level below goes on with its ALL_GATHER (R211 phase 3). -/
def thirdPhase (bad : Bool) (s : Dev) (r : CollRun) : CollRun :=
  { r with phase := 2, poisoned := r.poisoned || bad, lastProgress := s.now }

/-- Compares a collective with its goal: at the end of the first half the level above runs; at the end of all the level
below goes on, or the entry is done (R209, R211). -/
def collCheck : Nat → Nat → Dev → Dev
  | 0, _, s => s
  | f + 1, gid, s =>
    match tget s.groups gid with
    | none => s
    | some g =>
      match g.run with
      | none => s
      | some r =>
        if r.phase = 1 then
          match parentOf s g with
          | some h => if h.run.any fun x => x.child == some gid then s else startParent gid g h r s
          | none => collCheck f gid (issueAll gid (modRun gid (thirdPhase false s) s))
        else if !goalMet s g r then s
        else if layered g r.op && r.phase == 0 then
          collCheck f gid (modRun gid (fun r => { r with phase := 1, lastProgress := s.now }) s)
        else
          let s := endColl false gid g s
          match r.child with
          | some k =>
            collCheck f k (issueAll k (modRun k (thirdPhase r.poisoned s) s))
          | none =>
            let s := modSend r.qpn r.index (fun e => { e with bytes := r.size, poisoned := e.poisoned || r.poisoned }) s
            retireSends r.qpn (finishSend r.qpn r.index stOk s)

/-- A message that the collective sent is acknowledged whole; one of an earlier collective counts for none. -/
def collAcked (gid id : Nat) (s : Dev) : Dev :=
  if (runOf s gid id).isNone then s
  else collCheck 12 gid (modRun gid (fun r => { r with acked := r.acked + 1, lastProgress := s.now }) s)

/-- The stream on which a retired COLL_DATA message counts. -/
def gotStream (g : Group) (r : CollRun) (peer step : Nat) : Nat :=
  if r.algo = 2 then
    if step % 2 = 1 then 3
    else if peer = realRank g r (2 * vrank g r + 1) then 1 else 2
  else if r.algo = 1 then 0
  else if r.op = allReduce then step else 0

/-- A COLL_DATA message retired on a queue pair of the group (R209). -/
def collRetired (qpn : Nat) (d : BitVec 128) (poisoned : Bool) (s : Dev) : Dev :=
  match tget s.groups (cdGroup d) with
  | none => s
  | some g =>
    match g.run, peerOf g qpn with
    | some r, some (peer, c) =>
      if cdSeq d ≠ g.opSeq then s
      else
        let key := c * 16 + gotStream g r peer (cdStep d)
        collCheck 12 (cdGroup d) (modRun (cdGroup d) (fun r => { r with
          got := tset r.got key (tgetD r.got key 0 + 1), retired := r.retired + 1, lastProgress := s.now
          poisoned := r.poisoned || poisoned }) s)
    | _, _ => s

/-! ## The input of a collective (R202) -/

/-- The copies that put the input in place: pieces of the entry's data and their offsets in the region. -/
def inputCopies (g : Group) (r : CollRun) (e : CachedEntry) : List (Nat × Nat × Nat × Nat) :=
  let all := entryPieces e
  let place := fun (l : List (Nat × Nat × Nat)) (off : Nat) =>
    (l.foldl (fun (acc : List (Nat × Nat × Nat × Nat) × Nat) p =>
      (acc.1 ++ [(p.1, p.2.1, p.2.2, acc.2)], acc.2 + p.2.2)) ([], off)).1
  if coInPlace e.raw then []
  else if r.op = allToAll ∨ r.algo = 4 then
    let b := r.size / g.p.n
    place (subPieces all (g.p.rank * b) b) (g.p.rank * b)
  else if r.op = allGather then place all (g.p.rank * (r.size / g.p.n))
  else place all 0

/-- A copy cut so that neither side crosses a page. -/
def cutCopy (sp a n dst : Nat) : Nat → List (Nat × Nat × Nat × Nat)
  | 0 => []
  | f + 1 =>
    if n = 0 then []
    else
      let k := Nat.min n (Nat.min (4096 - a % 4096) (4096 - dst % 4096))
      (sp, a, k, dst) :: cutCopy sp (a + k) (n - k) (dst + k) f

/-- The first page that a list of copies cannot translate, with its space and access. -/
def copyMiss (s : Dev) (slice wspace : Nat) (l : List (Nat × Nat × Nat × Nat)) : Option (Nat × Nat × BitVec 3) :=
  l.findSome? fun c =>
    match translate s slice c.1 c.2.1 c.2.2.1 accRead with
    | .inr p => some (c.1, p, accRead)
    | .inl _ =>
      match translate s slice wspace c.2.2.2 c.2.2.1 accWrite with
      | .inr p => some (wspace, p, accWrite)
      | .inl _ => none

/-- Physical address of one untranslated address whose page is cached. -/
def physOf (s : Dev) (slice sp a : Nat) (acc : BitVec 3) : Nat :=
  match translate s slice sp a 1 acc with
  | .inl ((p, _) :: _) => p
  | _ => 0

/-- A write on behalf of a send entry, which owns the transfer (R370); it ends the holder `token` once ordered (R142). -/
def storeOwn (token : Option Nat) (qpn : Nat) (i : U32) (sp a : Nat) (data : List Byte) (bad : Bool) (slice : Nat) (s : Dev) : Dev :=
  storeFor token sp a data bad false slice (some qpn) none (some (false, i)) s

/-- A read that the adapter issues at a port for itself; Millefeuille needs none. -/
def readOwn (k sp addr len slice qpn : Nat) (use : PortUse) (tokens : List Nat) (s : Dev) : Dev :=
  portRead k 0 sp slice [(addr, len)] use (some qpn) tokens [] false s

/-- One copy is made, or its read issued. -/
def copyOne (gid : Nat) (g : Group) (r : CollRun) (wspace : Nat) (c : Nat × Nat × Nat × Nat) (s : Dev) : Dev :=
  let src := physOf s g.slice c.1 c.2.1 accRead
  let dst := physOf s g.slice wspace c.2.2.2 accWrite
  match portOfSpace c.1 with
  | none =>
    let d := smemRead s src c.2.2.1
    let s := modRun gid (fun r => { r with poisoned := r.poisoned || d.poisoned }) s
    let (t, s) := addHolder s.freeCtr g.slice none .qp r.qpn s
    storeOwn (some t) r.qpn r.index wspace dst d.bytes d.poisoned g.slice s
  | some k =>
    let (t, s) := addHolder s.freeCtr g.slice none .qp r.qpn s
    readOwn k c.1 src c.2.2.1 g.slice r.qpn (.collInput gid r.id dst) [t]
      (modRun gid (fun r => { r with copies := r.copies + 1 }) s)

/-- The entry whose input, about to be put in place on a group, passes the end of the member's work window: the adapter writes only inside
it (R200). -/
def inputPasses (s : Dev) (gid : Nat) : Option (Nat × U32) :=
  (tget s.groups gid).bind fun g =>
    match g.run, ownWindow s g with
    | some r, some w =>
      (startedEntry s r.qpn r.index).bind fun e =>
        if !r.started && (inputCopies g r e.e).any fun c => decide (w.length < r.region + c.2.2.2 + c.2.2.1) then some (r.qpn, r.index)
        else none
    | _, _ => none

/-- The input of a collective that has started is put in place (R202), once every page of it translates. -/
def placeInput (gid : Nat) (s : Dev) : Dev :=
  match tget s.groups gid with
  | none => s
  | some g =>
    match g.run, ownWindow s g with
    | some r, some w =>
      match startedEntry s r.qpn r.index with
      | none => s
      | some e =>
        let l := (inputCopies g r e.e).flatMap fun c => cutCopy c.1 c.2.1 c.2.2.1 (w.base + r.region + c.2.2.2) c.2.2.1
        match copyMiss s g.slice w.space l with
        | some (sp, page, acc) =>
          if e.faultDue.isSome then s else startWalk g.slice sp page acc (.send r.qpn (some (r.qpn, r.index))) s
        | none =>
          let s := modRun gid (fun r => { r with started := true }) s
          let s := l.foldl (fun s c => copyOne gid g r w.space c s) s
          modRun gid (fun r => { r with ready := decide (r.copies = 0), lastProgress := s.now }) s
    | _, _ => s

/-- The data of an input read has arrived: it goes to the region; the last one makes the input ready. -/
def inputArrived (gid id dst : Nat) (d : ReadData) (s : Dev) : Dev :=
  match tget s.groups gid with
  | none => s
  | some g =>
    match runOf s gid id, ownWindow s g with
    | some r, some w =>
      let (t, s) := addHolder s.freeCtr g.slice none .qp r.qpn s
      let s := storeOwn (some t) r.qpn r.index w.space dst d.bytes (d.poisoned || d.refused) g.slice s
      modRun gid (fun x => { x with
        copies := r.copies - 1, ready := decide (r.copies ≤ 1), poisoned := x.poisoned || d.poisoned || d.refused
        lastProgress := s.now }) s
    | _, _ => s

/-! ## Start of an entry -/

/-- A COLLECTIVE entry begins (R207): the group's collective becomes current. -/
def beginColl (qpn : Nat) (e : CachedEntry) (s : Dev) : Dev :=
  match tget s.groups (coGroup e.raw) with
  | none => s
  | some g =>
    let op := coOp e.raw
    let size := coSize e.raw
    setGroup (coGroup e.raw) { g with
      waiting := g.waiting.erase (qpn, e.index)
      run := some (newRun s.freeCtr qpn e.index op (runAlgo s g op (coAlgo e.raw) size) (coRoot e.raw) size (weOff e.raw) none
        (coInPlace e.raw) s.now) } { s with freeCtr := s.freeCtr + 1 }

/-- A send entry of a queue pair waits at the head of its queue. -/
def waitsAtHead (s : Dev) (x : Nat × U32) : Bool :=
  (getQp s x.1).any fun q => q.st == .live && firstUnstarted q false == x.2 && (cachedAt q.sq x.2).isSome

/-- The entries that wait for a group at the heads of their queues, in the order in which they came to wait, those that no longer do left
out. -/
def waitersOf (s : Dev) (g : Group) : List (Nat × U32) := g.waiting.filter (waitsAtHead s)

/-- The number of the doorbell or push that posted an entry of a send queue; none for one that was restored (R413). -/
def postedNo (s : Dev) (x : Nat × U32) : Option Nat :=
  (getQp s x.1).bind fun q => (q.sq.posted.find? fun p => seqLt x.2 p.1).map (·.2.2)

/-- An entry was posted before another of another queue pair. Of entries that no doorbell of this adapter posted, the one that asked to
start first was (log 159). -/
def postedBefore (s : Dev) (g : Group) (a b : Nat × U32) : Bool :=
  match postedNo s a, postedNo s b with
  | some m, some n => decide (m < n)
  | none, some _ => true
  | some _, none => false
  | none, none => (g.waiting.takeWhile fun x => x != b).contains a

/-- The COLLECTIVE entries of a group that are on-die and have not started, on queue pairs that start entries (R70). -/
def entriesOf (s : Dev) (gid : Nat) (g : Group) : List (Nat × U32) :=
  (s.qps.filter fun p => p.2.slice == g.slice && p.2.st == .live).flatMap fun p =>
    ((unstartedIn p.2 false).filter fun e => !e.poisoned && weOp e.raw == opCollective && coGroup e.raw == gid).map fun e => (p.1, e.index)

/-- The entry waits for its group behind those that came before. -/
def waitGroup (gid qpn : Nat) (i : U32) (g : Group) (s : Dev) : Dev :=
  let l := waitersOf s g
  setGroup gid { g with waiting := if l.contains (qpn, i) then l else l ++ [(qpn, i)] } s

/-- A COLLECTIVE entry may start now: nothing runs on its group, no destruction of it waits (R199), and no entry of another queue pair
was posted before it (R207). -/
def collMayStart (s : Dev) (gid qpn : Nat) (i : U32) (g : Group) : Bool :=
  g.run.isNone && !(s.waits.any fun w => w.2.2 == .group gid)
    && !((waitersOf s g ++ entriesOf s gid g).any fun x => x.1 != qpn && postedBefore s g x (qpn, i))

/-- One turn of the sequencer: the input, then the messages (R202, R209). -/
def collTurn (gid : Nat) (s : Dev) : Dev :=
  match tget s.groups gid with
  | none => s
  | some g =>
    match g.run with
    | none => s
    | some r =>
      if !sliceLive s g.slice || ((getQp s r.qpn).map (quiet s)).getD true then s
      else if !r.started then placeInput gid s
      else if !inPlaceNow s r then s
      else collCheck 12 gid (issueAll gid s)

end Sys2Proof.Machine
end

