-- ==== Sys2Proof/Machine/Moe.lean ====
section
/-!
DEFINITION. Sys2Proof/Machine/Moe.lean: mixture-of-experts dispatch and combine (R218 to R228).
-/
namespace Sys2Proof.Machine

/-! ## Fields -/

def moGroup (e : BitVec 512) : Nat := bitsN (weOperand e) 63 48
def moCombine (e : BitVec 512) : Bool := (weOperand e).testBit 47

/-- MOE_DATA descriptor (Table 6.9). -/
def encMoe (group seq : Nat) (combine tally : Bool) (kslot lcl weight token : Nat) : BitVec 128 := BitVec.ofNat 128 (pack
  [(token, 32), (weight, 32), (0, 23), (lcl, 8), (kslot, 3), (b2n tally, 1), (b2n combine, 1), (seq, 12), (group, 16)])

def mdGroup (d : BitVec 128) : Nat := fld d 127 112
def mdSeq (d : BitVec 128) : Nat := fld d 111 100
def mdCombine (d : BitVec 128) : Bool := bit d 99
def mdTally (d : BitVec 128) : Bool := bit d 98
def mdKslot (d : BitVec 128) : Nat := fld d 97 95
def mdLocal (d : BitVec 128) : Nat := fld d 94 87
def mdWeight (d : BitVec 128) : Nat := fld d 63 32
def mdToken (d : BitVec 128) : Nat := fld d 31 0

/-- A reserved field of the descriptor is set. -/
def mdRsvd (d : BitVec 128) : Bool :=
  decide (fld d 86 64 ≠ 0) || ((mdCombine d || mdTally d) && decide (mdLocal d ≠ 0)) || (mdTally d && decide (mdWeight d ≠ 0))

/-- RANK and LOCAL of an expert map entry (R219). -/
def mapRank (m : U32) : Nat := fld m 31 14
def mapLocal (m : U32) : Nat := fld m 7 0

/-! ## Structural checks (R221) -/

/-- Tokens of a DISPATCH entry. -/
def moTokens (p : MoeP) (e : CachedEntry) : Nat := (((weFrags e.raw e.table).head?.map fragLen).getD 0) / p.rowBytes

def moeMalformed (s : Dev) (slice : Nat) (e : CachedEntry) : Bool :=
  match tget s.groups (moGroup e.raw) with
  | none => true
  | some g =>
    match g.moe with
    | none => true
    | some m =>
      let fr := (weFrags e.raw e.table).map fragLen
      let t := moTokens m.p e
      g.slice != slice || decide (bitsN (weOperand e.raw) 46 0 ≠ 0) || decide (weWkey e.raw ≠ 0) || decide (weOff e.raw ≠ 0)
        || (if moCombine e.raw then fr != [m.p.localExperts * m.p.cap * m.p.outRowBytes]
            else fr != [t * m.p.rowBytes, t * m.p.k * 8] || decide (t = 0) || decide (2 ^ 32 - 1 < t))

/-- An entry of the group's mixture-of-experts phases has started and not retired. -/
def moeUnretired (s : Dev) (gid : Nat) : Bool :=
  s.qps.any fun q => q.2.rqr.started.any fun x => !x.e.poisoned && decide (weOp x.e.raw = opMoe) && moGroup x.e.raw == gid

/-- The entry may start: the phases alternate and the one before has retired (R222). -/
def moeMayStart (s : Dev) (e : CachedEntry) : Bool :=
  match (tget s.groups (moGroup e.raw)).bind fun g => g.moe with
  | none => false
  | some m => m.run.isNone && m.combining == moCombine e.raw && !moeUnretired s (moGroup e.raw)

/-! ## State -/

def modMoe (gid : Nat) (f : MoeState → MoeState) (s : Dev) : Dev :=
  match tget s.groups gid with
  | some g => setGroup gid { g with moe := g.moe.map f } s
  | none => s

def modMoeRun (gid : Nat) (f : MoeRun → MoeRun) (s : Dev) : Dev := modMoe gid (fun m => { m with run := m.run.map f }) s

/-- Bytes of the landing area from its first ticket to its last count of rows (Table 6.10). -/
def landTail (p : MoeP) : Nat := p.localExperts * p.cap * 16 + 4 * p.localExperts

/-- A MOE entry begins: its phase is admitted from now on (R222); a DISPATCH clears the counts of the one before. -/
def beginMoe (qpn : Nat) (e : CachedEntry) (s : Dev) : Dev :=
  let combine := moCombine e.raw
  modMoe (moGroup e.raw) (fun m =>
    let t := if combine then 0 else moTokens m.p e
    let n := if combine then landTail m.p else t * m.p.k * 8
    let run : MoeRun := ⟨s.freeCtr, qpn, e.index, combine, t, false, List.replicate n 0, 0, false, 0, 0, 0, 0, 0, false⟩
    if combine then { m with run := some run }
    else { m with run := some run, landed := List.replicate m.p.localExperts 0, overflow := 0, dispatched := 0, tickets := [] }) { s with freeCtr := s.freeCtr + 1 }

/-! ## Landing (R225, Table 6.10) -/

/-- Offsets in the landing area of a row, a ticket, and the counts. -/
def rowOffset (p : MoeP) (x j : Nat) : Nat := p.landOffset + (x * p.cap + j) * p.rowBytes
def ticketOffset (p : MoeP) (x j : Nat) : Nat := p.landOffset + p.localExperts * p.cap * p.rowBytes + (x * p.cap + j) * 16
def countOffset (p : MoeP) (x : Nat) : Nat := p.landOffset + p.localExperts * p.cap * (p.rowBytes + 16) + 4 * x

/-- The next free row of a local expert; none where it holds CAP rows. -/
def nextRow (m : MoeState) (x : Nat) : Option Nat :=
  let j := m.landed.getD x 0
  if j < m.p.cap then some j else none

/-- A row takes its place, or overflows. -/
def takeRow (t : MoeTicket) (m : MoeState) : MoeState :=
  { m with landed := m.landed.set t.x (t.j + 1) }
def overflowRow (m : MoeState) : MoeState := { m with overflow := m.overflow + 1 }

/-- The 16 bytes of a ticket. -/
def encTicket (t : MoeTicket) : List Byte :=
  natLe (pack [(t.token, 32), (0, 32), (t.weight, 32), (0, 11), (t.kslot, 3), (t.rank, 18)]) 16

/-- A ticket as its 16 bytes read, for row `j` of expert `x`. -/
def decTicket (x j : Nat) (bs : List Byte) : MoeTicket :=
  let v := leNat (bs.take 16)
  ⟨x, j, bitsN v 127 110, bitsN v 109 107, bitsN v 31 0, bitsN v 95 64⟩

/-- The counts as Table 6.10 lays them out. -/
def encCounts (m : MoeState) : List Byte :=
  (List.range m.p.localExperts).flatMap (fun x => natLe (m.landed.getD x 0) 4) ++ natLe m.overflow 4

/-- Bytes stored at an untranslated address whose pages are cached, page by page. -/
def storePieces (slice qpn : Nat) (i : U32) (sp : Nat) (data : List Byte) (l : List (Nat × Nat)) (s : Dev) : Dev :=
  (l.foldl (fun (acc : List Byte × Dev) p =>
    (acc.1.drop p.2, storeOwn none qpn i sp p.1 (acc.1.take p.2) false slice acc.2)) (data, s)).2

/-! ## End of a phase (R226, R228) -/

/-- The running phase has reached its counts. -/
def moeMet (g : Group) (r : MoeRun) : Bool :=
  r.begun && r.loaded && decide (r.reads = 0) && decide (r.issued ≤ r.acked) && decide (g.p.n ≤ r.tallies)
    && decide (r.received = r.tallySum)

/-- `n` bytes stored to a space now are ordered at once: its port, if it has one, holds none back. -/
def orderedNow (s : Dev) (sp n : Nat) : Bool :=
  match portOfSpace sp with
  | none => true
  | some k =>
    let p := getIo s k
    portReady s k 0 && p.queued.isEmpty && !s.dataStopped && decide (logBytes p.log + n ≤ logLimit k)

/-- A DISPATCH ends: the counts are written and ordered before its completion (R226). A page of them that does not translate is walked
first. -/
def endDispatch (gid : Nat) (g : Group) (m : MoeState) (r : MoeRun) (s : Dev) : Dev :=
  match ownWindow s g with
  | none => s
  | some w =>
    let data := encCounts m
    match translate s g.slice w.space (w.base + countOffset m.p 0) data.length accWrite with
    | .inr page => missWalk g.slice w.space page accWrite (.send r.qpn (some (r.qpn, r.index))) s
    | .inl l =>
      if !orderedNow s w.space data.length then s
      else
      let s := storePieces g.slice r.qpn r.index w.space data l s
      let s := modMoe gid endMoePhase s
      let n := m.landed.foldl (· + ·) 0 * m.p.rowBytes
      let s := modSend r.qpn r.index (fun e => { e with bytes := n, poisoned := e.poisoned || r.poisoned }) s
      retireSends r.qpn (finishSend r.qpn r.index stOk s)

/-- A COMBINE ends: the rows that did not return are counted. -/
def endCombine (gid : Nat) (g : Group) (m : MoeState) (r : MoeRun) (s : Dev) : Dev :=
  let s := modMoe gid endMoePhase s
  let s := bumpBy 0x13 g.slice (m.dispatched - r.received) s
  let s := modSend r.qpn r.index (fun e =>
    { e with bytes := r.received * m.p.outRowBytes, poisoned := e.poisoned || r.poisoned }) s
  retireSends r.qpn (finishSend r.qpn r.index stOk s)

/-- Compares a running phase with its counts. -/
def moeCheck (gid : Nat) (s : Dev) : Dev :=
  match tget s.groups gid with
  | none => s
  | some g =>
    match g.moe with
    | none => s
    | some m =>
      match m.run with
      | none => s
      | some r => if !moeMet g r || !m.tickets.isEmpty then s else if r.combine then endCombine gid g m r s else endDispatch gid g m r s

/-- A MoE message of this member is acknowledged; tallies need no acknowledgement (R226, R228). -/
def moeAcked (gid id : Nat) (tally : Bool) (s : Dev) : Dev :=
  if tally || (moeRunOf s gid id).isNone then s else moeCheck gid (modMoeRun gid (fun r => { r with acked := r.acked + 1 }) s)

/-- A MoE message retired: a tally adds to the sum, a row counts as received. -/
def moeRetired (d : BitVec 128) (poisoned : Bool) (s : Dev) : Dev :=
  moeCheck (mdGroup d) (modMoeRun (mdGroup d) (fun r =>
    if mdTally d then { r with tallies := r.tallies + 1, tallySum := r.tallySum + mdToken d }
    else { r with received := r.received + 1, poisoned := r.poisoned || poisoned }) s)

/-! ## Sending -/

/-- The identity of the group's running phase. -/
def moeRunId (g : Group) : Nat := ((g.moe.bind fun m => m.run).map (·.id)).getD 0

/-- Queues one MoE message to a rank. -/
def queueMoe (gid : Nat) (g : Group) (rank : Nat) (d : BitVec 128) (src : List (Nat × Nat × Nat)) (len : Nat) (s : Dev) : Dev :=
  { s with
    freeCtr := s.freeCtr + 1
    seqMsgs := s.seqMsgs ++ [⟨s.freeCtr, mbQpn (memberAt g rank 0), .moe gid (moeRunId g), pkMoe, d, src, len, 0, 0⟩] }

/-- A list of pieces each of which crosses no page, with the offset at which it lies. -/
def pageCuts (l : List (Nat × Nat × Nat)) : List (Nat × Nat × Nat × Nat) :=
  (l.foldl (fun (acc : List (Nat × Nat × Nat × Nat) × Nat) p =>
    let cuts := cutCopy p.1 p.2.1 p.2.2 0 p.2.2
    cuts.foldl (fun acc c => (acc.1 ++ [(c.1, c.2.1, c.2.2.1, acc.2)], acc.2 + c.2.2.1)) acc) ([], 0)).1

/-- The first page that a list of pieces cannot translate for reading, with its space. -/
def readMiss (s : Dev) (slice : Nat) (l : List (Nat × Nat × Nat)) : Option (Nat × Nat) :=
  l.findSome? fun p =>
    match translate s slice p.1 p.2.1 p.2.2 accRead with
    | .inr q => some (p.1, q)
    | .inl _ => none

/-- Bytes of pieces that all lie in Millefeuille; none where some lie behind a port. -/
def readLocal (s : Dev) (slice : Nat) (l : List (Nat × Nat × Nat)) : Option (List Byte × Bool) :=
  l.foldl (fun acc p =>
    match acc with
    | none => none
    | some (bs, bad) =>
      if p.1 ≠ 1 then none
      else
        match translate s slice 1 p.2.1 p.2.2 accRead with
        | .inr _ => none
        | .inl q =>
          let (b, x) := readPieces s q
          some (bs ++ b, bad || x)) (some ([], false))

/-- The physical pieces of untranslated ones whose pages are all cached. -/
def physList (s : Dev) (slice : Nat) (acc : BitVec 3) (l : List (Nat × Nat × Nat)) : List (Nat × Nat × Nat) :=
  l.flatMap fun p =>
    match translate s slice p.1 p.2.1 p.2.2 acc with
    | .inl q => q.map fun x => (p.1, x.1, x.2)
    | .inr _ => []

/-- Bytes stored to physical pieces, each held until it is ordered (R142). -/
def storeHeld (op slice qpn : Nat) (i : U32) (bad : Bool) : List (Nat × Nat × Nat) → List Byte → Dev → Dev
  | [], _, s => s
  | (sp, a, n) :: r, bs, s =>
    let (t, s) := addHolder op slice none .qp qpn s
    storeHeld op slice qpn i bad r (bs.drop n) (storeOwn (some t) qpn i sp a (bs.take n) bad slice s)

/-- An own row is written, and after it its ticket (R225). -/
def putRow (slice qpn : Nat) (i : U32) (t : MoeTicket) (row tick : List (Nat × Nat × Nat)) (bs : List Byte) (bad : Bool) (s : Dev) : Dev :=
  storeHeld s.freeCtr slice qpn i false tick (encTicket t) (storeHeld s.freeCtr slice qpn i bad row bs s)

/-- An own row goes to its place: at once where it lies in Millefeuille, else as its read returns (R225). -/
def landRow (gid : Nat) (g : Group) (m : MoeState) (qpn : Nat) (i : U32) (t : MoeTicket) (src : List (Nat × Nat × Nat)) (w : Window) (s : Dev) : Dev :=
  let row := physList s g.slice accWrite [(w.space, w.base + rowOffset m.p t.x t.j, m.p.rowBytes)]
  let tick := physList s g.slice accWrite [(w.space, w.base + ticketOffset m.p t.x t.j, 16)]
  match readLocal s g.slice src, (src.head?.map (·.1)).bind fun sp => (portOfSpace sp).map fun k => (sp, k) with
  | some (bs, bad), _ =>
    putRow g.slice qpn i t row tick bs bad
      (touchPieces g.slice accRead src (modMoeRun gid (fun r => { r with poisoned := r.poisoned || bad }) s))
  | none, some (sp, k) =>
    let op := s.freeCtr
    let (t1, s) := addHolder op g.slice none .qp qpn s
    let (t2, s) := addHolder op g.slice none .qp qpn s
    portRead k 0 sp g.slice ((physList s g.slice accRead src).map fun p => (p.2.1, p.2.2)) (.moeRow gid (moeRunId g) t row tick)
      (some qpn) [t1, t2] [] false
      (modMoeRun gid (fun r => { r with reads := r.reads + 1 }) s)
  | none, none => s

/-- A row that stays on this member takes its place among the rows of its expert and lands there, or overflows (R224, R225). -/
def landLocal (gid : Nat) (g : Group) (m : MoeState) (qpn : Nat) (i : U32) (x kslot token weight : Nat) (src : List (Nat × Nat × Nat)) (w : Window)
    (s : Dev) : Dev :=
  match nextRow m x with
  | none => modMoe gid overflowRow (modMoeRun gid (fun r => { r with received := r.received + 1 }) s)
  | some j =>
    let t : MoeTicket := ⟨x, j, g.p.rank, kslot, token, weight⟩
    let s := modMoe gid (takeRow t) (modMoeRun gid (fun r => { r with received := r.received + 1 }) s)
    landRow gid g m qpn i t src w s

/-- One routing entry of a DISPATCH (R220, R224). -/
def dispatchOne (gid qpn : Nat) (idx : U32) (w : Window) (rows : List (Nat × Nat × Nat)) (table : List Byte) (i : Nat) (s : Dev) : Dev :=
  match tget s.groups gid with
  | none => s
  | some g =>
    match g.moe with
    | none => s
    | some m =>
      let v := leNat ((table.drop (8 * i)).take 8)
      let ex := bitsN v 15 0
      let weight := bitsN v 63 32
      if ex = 0xFFFF then s
      else if m.p.experts ≤ ex then bump 0x12 g.slice s
      else
        let e := m.map.getD ex 0
        let t := i / m.p.k
        let src := subPieces rows (t * m.p.rowBytes) m.p.rowBytes
        let s := modMoe gid (fun m => { m with dispatched := m.dispatched + 1 }) s
        if mapRank e = g.p.rank then landLocal gid g m qpn idx (mapLocal e) (i % m.p.k) t weight src w s
        else
          let d := encMoe gid m.seq false false (i % m.p.k) (mapLocal e) weight t
          queueMoe gid g (mapRank e) d src m.p.rowBytes (modMoeRun gid (fun r => { r with issued := r.issued + 1 }) s)

/-- Rows that a DISPATCH's routing table sends to a rank. -/
def rowsFor (m : MoeState) (table : List Byte) (rank n : Nat) : Nat :=
  (List.range n).countP fun i =>
    let ex := bitsN (leNat ((table.drop (8 * i)).take 8)) 15 0
    decide (ex < m.p.experts) && mapRank (m.map.getD ex 0) == rank

/-- A tally to every member; the own one counts at once (R224, R227). -/
def sendTallies (gid : Nat) (g : Group) (seq : Nat) (combine : Bool) (count : Nat → Nat) (s : Dev) : Dev :=
  (List.range g.p.n).foldl (fun s r =>
    if r = g.p.rank then modMoeRun gid (fun x => { x with tallies := x.tallies + 1, tallySum := x.tallySum + count r }) s
    else queueMoe gid g r (encMoe gid seq combine true 0 0 0 (count r)) [] 0 s) s

/-- The first page of a DISPATCH's own rows that does not translate, with its space and access: of the rows, or of the landing area. -/
def dispatchMiss (s : Dev) (g : Group) (m : MoeState) (rows : List (Nat × Nat × Nat)) (w : Window) : Option (Nat × Nat × BitVec 3) :=
  let area := [(w.space, w.base + m.p.landOffset, m.p.localExperts * m.p.cap * (m.p.rowBytes + 16))]
  (readMiss s g.slice rows).map (fun p => (p.1, p.2, accRead))
    <|> area.findSome? fun p => match translate s g.slice p.1 p.2.1 p.2.2 accWrite with
      | .inr q => some (p.1, q, accWrite)
      | .inl _ => none

/-- An own row of a DISPATCH that was restored lands (R413). -/
def landTicket (gid qpn : Nat) (i : U32) (w : Window) (rows : List (Nat × Nat × Nat)) (s : Dev) (t : MoeTicket) : Dev :=
  match (tget s.groups gid).bind fun g => g.moe.map fun m => (g, m) with
  | none => s
  | some (g, m) =>
    landRow gid g m qpn i t (subPieces rows (t.token * m.p.rowBytes) m.p.rowBytes) w
      (modMoe gid (fun m => { m with tickets := m.tickets.erase t }) s)

/-- The own rows that a restored DISPATCH has still to land (R413). -/
def landTickets (gid : Nat) (g : Group) (m : MoeState) (r : MoeRun) (s : Dev) : Dev :=
  match startedEntry s r.qpn r.index, ownWindow s g with
  | some e, some w =>
    let rows := (entryPieces e.e).take 1
    if m.tickets.isEmpty then s
    else
      match dispatchMiss s g m rows w with
      | some (sp, page, acc) => if e.faultDue.isSome then s else missWalk g.slice sp page acc (.send r.qpn (some (r.qpn, r.index))) s
      | none => m.tickets.foldl (landTicket gid r.qpn r.index w rows) s
  | _, _ => s

/-- The routing table is there: every row and tally of the DISPATCH is queued, once the own rows' pages translate. -/
def loadDispatch (gid : Nat) (g : Group) (m : MoeState) (r : MoeRun) (s : Dev) : Dev :=
  match ownWindow s g, startedEntry s r.qpn r.index with
  | some w, some e =>
    let rows := (entryPieces e.e).take 1
    let miss := if (List.range (r.tokens * m.p.k)).any (fun i =>
        let ex := bitsN (leNat ((r.table.drop (8 * i)).take 8)) 15 0
        decide (ex < m.p.experts) && mapRank (m.map.getD ex 0) == g.p.rank) then
      dispatchMiss s g m rows w
      else none
    match miss with
    | some (sp, page, acc) => if e.faultDue.isSome then s else missWalk g.slice sp page acc (.send r.qpn (some (r.qpn, r.index))) s
    | none =>
      let s := (List.range (r.tokens * m.p.k)).foldl (fun s i => dispatchOne gid r.qpn r.index w rows r.table i s) s
      let s := sendTallies gid g m.seq false (fun k => rowsFor m r.table k (r.tokens * m.p.k)) s
      moeCheck gid (modMoeRun gid (fun r => { r with loaded := true }) s)
  | _, _ => s

/-- What an entry reads before it sends: the routing table (R220), or the tickets and counts of the landing area (R227). -/
def moeTable (m : MoeState) (w : Window) (e : SendEntry) : List (Nat × Nat × Nat) :=
  if moCombine e.e.raw then [(w.space, w.base + ticketOffset m.p 0 0, landTail m.p)] else (entryPieces e.e).drop 1

/-- It is read from the stacks, or by reads at its port. -/
def readRouting (gid : Nat) (g : Group) (m : MoeState) (r : MoeRun) (s : Dev) : Dev :=
  match startedEntry s r.qpn r.index, ownWindow s g with
  | some e, some w =>
    let l := moeTable m w e
    (match readMiss s g.slice l with
    | some (sp, page) => if e.faultDue.isSome then s else missWalk g.slice sp page accRead (.send r.qpn (some (r.qpn, r.index))) s
    | none =>
      let s := touchPieces g.slice accRead l s
      match readLocal s g.slice l with
      | some (bs, bad) => modMoeRun gid (fun r => { r with begun := true, table := bs, poisoned := r.poisoned || bad }) s
      | none =>
        let s := (pageCuts l).foldl (fun s c =>
          match portOfSpace c.1 with
          | none => s
          | some k =>
            let (tk, s) := addHolder s.freeCtr g.slice none .qp r.qpn s
            readOwn k c.1 (physOf s g.slice c.1 c.2.1 accRead) c.2.2.1 g.slice r.qpn (.moeTable gid r.id c.2.2.2) [tk]
              (modMoeRun gid (fun r => { r with reads := r.reads + 1 }) s)) s
        modMoeRun gid (fun r => { r with begun := true }) s)
  | _, _ => s

/-- The tickets of the rows that the counts of the landing area name, in order of expert and row. A count above CAP is taken as CAP, and
a ticket that names no member has no origin (log 126). -/
def ticketsIn (g : Group) (m : MoeState) (table : List Byte) : List MoeTicket :=
  let counts := table.drop (m.p.localExperts * m.p.cap * 16)
  ((List.range m.p.localExperts).flatMap fun x =>
    (List.range (Nat.min m.p.cap (leNat ((counts.drop (4 * x)).take 4)))).map fun j =>
      decTicket x j (table.drop ((x * m.p.cap + j) * 16))).filter fun t => decide (t.rank < g.p.n)

/-- The output row of a ticket. -/
def outRow (m : MoeState) (rows : List (Nat × Nat × Nat)) (t : MoeTicket) : List (Nat × Nat × Nat) :=
  subPieces rows ((t.x * m.p.cap + t.j) * m.p.outRowBytes) m.p.outRowBytes

/-- One row of a COMBINE goes to its origin (R227). -/
def combineOne (gid : Nat) (g : Group) (m : MoeState) (rows : List (Nat × Nat × Nat)) (t : MoeTicket) (s : Dev) : Dev :=
  queueMoe gid g t.rank (encMoe gid m.seq true false t.kslot 0 t.weight t.token) (outRow m rows t) m.p.outRowBytes
    (modMoeRun gid (fun r => { r with issued := r.issued + 1 }) s)

/-- The tickets and counts are there: the rows of other members and the tallies are queued; the own rows wait for items. -/
def loadCombine (gid : Nat) (g : Group) (m : MoeState) (r : MoeRun) (s : Dev) : Dev :=
  match startedEntry s r.qpn r.index with
  | none => s
  | some e =>
    let rows := (entryPieces e.e).take 1
    let all := ticketsIn g m r.table
    let own := all.filter fun t => t.rank == g.p.rank
    let s := modMoe gid (fun m => { m with tickets := own }) s
    let s := (all.filter fun t => t.rank != g.p.rank).foldl (fun s t => combineOne gid g m rows t s) s
    let s := sendTallies gid g m.seq true (fun k => all.countP fun t => t.rank == k) s
    moeCheck gid (modMoeRun gid (fun r => { r with loaded := true }) s)

/-- An own row's item of the combine program (R227): its output is the row of its token. The item is no packet's and reads no entry's
source, so R170 gives its psn_or_offset none: the model takes the ticket's TOKEN (log 176). -/
def ownItem (gid : Nat) (g : Group) (m : MoeState) (r : MoeRun) (rows : List (Nat × Nat × Nat)) (w : Window) (p : Program)
    (t : MoeTicket) : Item :=
  { newItem g.slice r.qpn (u32 t.token) p (u32 p.auxBytes) 0 (.own gid t) with
    slot := some m.p.combSlot
    weight := some (u32 t.weight)
    src := outRow m rows t
    len := m.p.outRowBytes
    out := [(w.space, w.base + m.p.outOffset + t.token * m.p.outRowBytes, m.p.outRowBytes)] }

/-- The own rows of a running COMBINE become items while the item quota lets them (R158, R227). -/
def ownItems (gid : Nat) (g : Group) (m : MoeState) (r : MoeRun) (s : Dev) : Dev :=
  match startedEntry s r.qpn r.index, ownWindow s g, findProg s g.slice m.p.combSlot with
  | some e, some w, some p =>
    m.tickets.foldl (fun s t =>
      if itemsFull s g.slice then s
      else addItem (ownItem gid g m r ((entryPieces e.e).take 1) w p t)
        (modMoe gid (fun m => { m with tickets := m.tickets.erase t }) (modMoeRun gid (fun r => { r with reads := r.reads + 1 }) s))) s
  | _, _, _ => s

/-- One turn of the sequencer on a group's MOE entry. -/
def moeTurn (gid : Nat) (s : Dev) : Dev :=
  match tget s.groups gid with
  | none => s
  | some g =>
    match g.moe with
    | none => s
    | some m =>
      match m.run with
      | none => s
      | some r =>
        if !sliceLive s g.slice || ((getQp s r.qpn).map (quiet s)).getD true then s
        else if r.loaded then moeCheck gid (if r.combine then ownItems gid g m r s else landTickets gid g m r s)
        else if !r.begun then readRouting gid g m r s
        else if r.reads ≠ 0 then s
        else if r.combine then loadCombine gid g m r s
        else loadDispatch gid g m r s

/-! ## Reads that return for a MOE entry -/

/-- Bytes of the routing table, or of the landing area, arrived. -/
def routingArrived (gid id off : Nat) (d : ReadData) (s : Dev) : Dev :=
  if (moeRunOf s gid id).isNone then s
  else modMoeRun gid (fun r => { r with
    reads := r.reads - 1
    poisoned := r.poisoned || d.poisoned || d.refused
    table := r.table.take off ++ d.bytes ++ r.table.drop (off + d.bytes.length) }) s

/-- The bytes of an own row have arrived: it lands. -/
def rowArrived (gid id : Nat) (t : MoeTicket) (row tick : List (Nat × Nat × Nat)) (d : ReadData) (s : Dev) : Dev :=
  match (tget s.groups gid).bind fun g => (moeRunOf s gid id).map fun r => (g, r) with
  | none => s
  | some (g, r) =>
    let bad := d.poisoned || d.refused
    moeCheck gid (modMoeRun gid (fun r => { r with reads := r.reads - 1, poisoned := r.poisoned || bad })
      (putRow g.slice r.qpn r.index t row tick d.bytes bad s))

/-- An own row's item ended: the row has been received. -/
def ownRowDone (gid : Nat) (poisoned : Bool) (s : Dev) : Dev :=
  moeCheck gid (modMoeRun gid (fun r => { r with
    reads := r.reads - 1, received := r.received + 1, poisoned := r.poisoned || poisoned }) s)

end Sys2Proof.Machine
end

