-- ==== Sys2Proof/Machine/Start.lean ====
section
/-!
DEFINITION. Sys2Proof/Machine/Start.lean: ENTRY_START: the adapter takes a cached send entry to carry it out (R35, R50,
R54, R66, R138, R231, R239, R366), and the start of entries that a credit releases.
-/
namespace Sys2Proof.Machine

/-! ## Bindings (Table 5.11, R230) -/

def pbTxV (e : BitVec 512) : Bool := (weOperand e).testBit 47
def pbTxSlot (e : BitVec 512) : Nat := bitsN (weOperand e) 45 40
def pbRxV (e : BitVec 512) : Bool := weOp e == opTransform && (weOperand e).testBit 39
def pbRxSlot (e : BitVec 512) : Nat := bitsN (weOperand e) 37 32
def pbArg (e : BitVec 512) : U32 := u32 (bitsN (weOperand e) 31 0)
def sgStream (e : BitVec 512) : Nat := bitsN (weOperand e) 63 48

/-- The entry runs a requester program. -/
def usesTx (e : BitVec 512) : Bool := (weOp e == opTransform || weOp e == opStageSend) && pbTxV e

/-- The program that the entry binds at its start. -/
def txProgram (s : Dev) (slice : Nat) (e : BitVec 512) : Option Program :=
  if usesTx e then findProg s slice (pbTxSlot e) else none

/-- The requester program of an entry breaks R186 or R230. -/
def txBad (s : Dev) (slice : Nat) (e : BitVec 512) : Bool :=
  usesTx e && match txProgram s slice e with
    | none => true
    | some p => decide (weLen e % p.inGran ≠ 0) || decide (p.tgtGran ≠ 0)

/-- Bytes that the entry puts on the wire (R187, R230). -/
def wireBytes (s : Dev) (slice : Nat) (e : BitVec 512) : Nat :=
  match txProgram s slice e with
  | some p => outBytes p (weLen e)
  | none => weLen e

/-- R230. -/
def stageMalformed (s : Dev) (qpn slice : Nat) (e : BitVec 512) : Bool :=
  match tget s.streams (sgStream e) with
  | none => true
  | some x =>
    !(x.sender && x.qpn == some qpn) || txBad s slice e || decide (weWkey e ≠ 0) || decide (weOff e ≠ 0)
      || decide (x.p.slotBytes < wireBytes s slice e)

/-- Reason code 0x0C (R186, R203, R221, R230). -/
def ownerMalformed (s : Dev) (qpn slice : Nat) (e : CachedEntry) : Bool :=
  let op := weOp e.raw
  if e.tablePoisoned then false
  else if op = opTransform then (!pbTxV e.raw && !pbRxV e.raw) || txBad s slice e.raw
  else if op = opCollective then collMalformed s slice e.raw
  else if op = opStageSend then stageMalformed s qpn slice e.raw
  else if op = opMoe then moeMalformed s slice e
  else false

/-- The lowest reason code of a send entry (R54), with its fragment number. -/
def sendCode (s : Dev) (qpn slice : Nat) (e : CachedEntry) : Option (Nat × Nat) :=
  match structCode e false with
  | some c => some c
  | none => if !e.poisoned && ownerMalformed s qpn slice e then some (0x0C, 0) else none

/-! ## Where the entry's fragments lie -/

/-- A fragment, or the table, names an accelerator that is not bound to the slice, or reaches 2^48 (R36, R118). -/
def localBad (s : Dev) (slice : Nat) (e : CachedEntry) : Bool :=
  ((entrySpaces e).any fun sp => !spaceBound s slice sp)
    || (weTable e.raw && decide (2 ^ 48 < weTableAddr e.raw + 16 * weFragCount e.raw))
    || (weFrags e.raw e.table).any fun f => decide (2 ^ 48 < fragAddr f + fragLen f)

/-! ## Starting -/

/-- A started entry as it begins. -/
def newSend (e : CachedEntry) (total wire recvSeq : Nat) (mb : Option U32) (prog : Option Nat) : SendEntry where
  e := e
  firstPsn := none
  built := 0
  total := total
  wire := wire
  done := false
  status := stOk
  bytes := weLen e.raw
  stamp := none
  stampLost := false
  stampGroup := none
  recvSeq := recvSeq
  mbSeq := mb
  poisoned := false
  txBad := []
  faultDue := none
  tokens := []
  txProg := prog
  txNext := 0
  txOut := []

/-- Path MTU of a queue pair (R89). -/
def mtuOf (q : Qp) : Nat := if q.p.mtu8k then 8192 else 4096

/-- Packets of a message of `n` bytes (R89). -/
def pktsOf (mtu n : Nat) : Nat := Nat.max 1 (ceilDiv n mtu)

/-- The message of the opcode takes a RECV_SEQ (Table 3.6, R234). -/
def takesRecv (op : Nat) : Bool := op == opSend || op == opSendImm || op == opWriteImm || op == opStageSend

/-- The entry leaves the cache and joins the started ones; a TRIGGERED entry consumes one credit (R239). -/
def takeEntry (qpn : Nat) (x : SendEntry) (s : Dev) : Dev :=
  let s := modQp qpn (fun q => { q with
    sq := { q.sq with cache := q.sq.cache.filter fun c => !(c.index == x.e.index) }
    rqr := { q.rqr with
      started := q.rqr.started ++ [x]
      sendSeq := if !x.e.poisoned && takesRecv (weOp x.e.raw) then (q.rqr.sendSeq + 1) % 65536 else q.rqr.sendSeq
      credits := if !x.e.poisoned && weTriggered x.e.raw then q.rqr.credits - 1 else q.rqr.credits } }) s
  fetchQueue qpn false (cacheContext qpn s)

/-- An entry that ends as it starts. -/
def startDone (qpn : Nat) (e : CachedEntry) (st : BitVec 8) (s : Dev) : Dev :=
  retireSends qpn (finishSend qpn e.index st (takeEntry qpn (newSend e 0 0 0 none none) s))

/-- An entry that builds packets. -/
def startMessage (qpn : Nat) (q : Qp) (e : CachedEntry) (mb : Option U32) (s : Dev) : Dev :=
  let op := weOp e.raw
  let n := wireBytes s q.slice e.raw
  takeEntry qpn (newSend e (if op = opFetchAdd ∨ op = opCmpSwap then 1 else pktsOf (mtuOf q) n) n q.rqr.sendSeq mb
    ((txProgram s q.slice e.raw).map (·.id))) s

/-- A STAGE_SEND takes the next MB_SEQ of its stream (R231). -/
def startStage (qpn : Nat) (q : Qp) (e : CachedEntry) (x : Stream) (s : Dev) : Dev :=
  let n := wireBytes s q.slice e.raw
  let x' := { x with
    nextSeq := x.nextSeq + 1
    unretired := x.unretired + 1
    sizes := tset x.sizes (x.nextSeq.toNat) n
    oldest := if x.p.k < dist (x.nextSeq + 1) x.oldest then x.nextSeq + 1 - u32 x.p.k else x.oldest }
  startMessage qpn q e (some x.nextSeq) { s with streams := tset s.streams (sgStream e.raw) x' }

/-- The entry starts by its opcode, or waits (R207, R222, R231). -/
def startByOp (qpn : Nat) (q : Qp) (e : CachedEntry) (s : Dev) : Dev :=
  let op := weOp e.raw
  if op = opNop then startDone qpn e stOk s
  else if op = opCollective then
    match tget s.groups (coGroup e.raw) with
    | none => s
    | some g =>
      if g.broken then startDone qpn e stFlushed s
      else if !collMayStart s (coGroup e.raw) qpn e.index g then waitGroup (coGroup e.raw) qpn e.index g s
      else beginColl qpn e (takeEntry qpn (newSend e 0 0 0 none none) s)
  else if op = opMoe then
    if moeMayStart s e then beginMoe qpn e (takeEntry qpn (newSend e 0 0 0 none none) s) else s
  else if op = opStageSend then
    match tget s.streams (sgStream e.raw) with
    | none => s
    | some x => if x.replay.isSome || decide (x.p.overlap ≤ x.unretired) then s else startStage qpn q e x s
  else startMessage qpn q e none s

/-- A send entry is held where FENCE or TRIGGERED holds it (R35, R239). -/
def entryHeld (q : Qp) (e : CachedEntry) : Bool :=
  (weFence e.raw && q.rqr.started.any fun x => !x.e.poisoned && opFetches (weOp x.e.raw))
    || (weTriggered e.raw && decide (q.rqr.credits = 0))

/-- The queue pair may start a send entry at all (R55, R66, R70, R77, R138, R365, R411, R442). -/
def mayStartSend (s : Dev) (qpn : Nat) (q : Qp) : Bool :=
  sliceLive s q.slice && q.st == .live && !quiet s q && dataOn s && !cqStalled s q.p.scqn
    && !queueFaulted s qpn q

/-- Atomics are enabled toward a space (R361, Table 10.7); Millefeuille always takes them. -/
def atomicsOn (s : Dev) (sp : Nat) : Bool :=
  match portOfSpace sp with
  | none => true
  | some k => if k = 15 then s.host.cfg.getLsbD 3 else (getIo s k).live.getLsbD 19

/-- The queue pair's packets are looped back under R266. -/
def loopedBack (s : Dev) (qpn : Nat) : Bool :=
  ((getQp s qpn).bind fun q => epOf s q.p.remEpid) == some s.routing.selfEpid

/-- A local atomic whose target's space takes no atomics (R361): its destination is this adapter's own endpoint. -/
def localAtomicBad (s : Dev) (qpn : Nat) (e : BitVec 512) : Bool :=
  (weOp e == opFetchAdd || weOp e == opCmpSwap) && loopedBack s qpn
    && match tget s.windows (wkIndex (weWkey e)) with
      | some w => w.v && w.tag == wkTag (weWkey e) && !atomicsOn s w.space
      | none => false

/-- The head unstarted entry of a send queue starts if it may. -/
def startEntry (qpn : Nat) (s : Dev) : Dev :=
  match getQp s qpn with
  | none => s
  | some q =>
    if !mayStartSend s qpn q then s
    else
      match cachedAt q.sq (firstUnstarted q false) with
      | none => s
      | some e =>
        if e.tablePending then s
        else if !q.cached then bump 0x1B (pipeOf qpn) s
        else if e.poisoned then startDone qpn e stPoisoned s
        else if entryHeld q e then s
        else
          match sendCode s qpn q.slice e with
          | some (code, frag) => faultStop qpn false e.index code frag s
          | none =>
            if (entrySpaces e).any fun sp => spaceBound s q.slice sp && !canWrite s sp then s
            else if e.tablePoisoned then startDone qpn e stPoisoned s
            else if localBad s q.slice e then startDone qpn e stLocalAccess s
            else if opUsesWkey (weOp e.raw) && decide (2 ^ 48 ≤ weOff e.raw ∨ 2 ^ 48 < weOff e.raw + weLen e.raw) then
              startDone qpn e stRemoteAccess s
            else if localAtomicBad s qpn e.raw then startDone qpn e stLocalAccess s
            else startByOp qpn q e s

/-- ENTRY_START. -/
def execEntryStart (qpn : Nat) (s : State) : Res := runLevels (startEntry qpn) s

/-- Send queues whose head is a TRIGGERED entry with a credit present start it (R239). -/
def startTriggered (s : Dev) : Dev :=
  s.qps.foldl (fun s p =>
    if 0 < p.2.rqr.credits ∧ ((cachedAt p.2.sq (firstUnstarted p.2 false)).any fun e => !e.poisoned && weTriggered e.raw) = true then
      startEntry p.1 s
    else s) s

/-- A command whose effect may retire messages: credits that it adds start the entries they release. -/
def runRetire (f : Dev → Dev) (s : State) : Res := runLevels (fun d => startTriggered (f d)) s

end Sys2Proof.Machine
end

