-- ==== Sys2Proof/Machine/Build.lean ====
section
/-!
DEFINITION. Sys2Proof/Machine/Build.lean: PACKET_BUILD: the next request packet of a queue pair (R82 to R89, R99, R127,
R187, R188, R206, R224, R232, R292, R295, R297, R380, R437).
-/
namespace Sys2Proof.Machine

/-! ## The retransmission timer (R104, R105) -/

/-- The timer of R104 has something to run for; it stops while a retransmission waits on a fault (R139). -/
def timerNeeded (q : Qp) : Bool := !q.rqr.rtoStopped && q.rqr.out.any fun o => o.sent && !ackedOut o && o.delayUntil.isNone

/-- The PSNs of an outstanding packet change. -/
def modGroup (o : OutPkt) (f : OutPkt → OutPkt) (q : Qp) : Qp :=
  { q with rqr := { q.rqr with out := q.rqr.out.map fun x => if dist x.psn o.psn < o.nPsn then f x else x } }

/-- The timer runs exactly while it has something to run for, at the current RTO. -/
def touchTimer (now : Nat) (q : Qp) : Qp :=
  if !timerNeeded q then { q with rqr := { q.rqr with rtoDue := none } }
  else if q.rqr.rtoDue.isSome then q
  else { q with rqr := { q.rqr with rtoDue := some (now + q.rqr.rto) } }

/-- The timer starts again at the current RTO, if it has something to run for. -/
def restartTimer (now : Nat) (q : Qp) : Qp := touchTimer now { q with rqr := { q.rqr with rtoDue := none } }

/-- An outstanding PSN changes. -/
def modOut (psn : U32) (f : OutPkt → OutPkt) (q : Qp) : Qp :=
  { q with rqr := { q.rqr with out := q.rqr.out.map fun o => if o.psn = psn then f o else o } }

/-! ## Window and pacing (R295, R297) -/

/-- Congestion control of the queue pair's slice is host-assisted. -/
def ccHostAssisted (s : Dev) (q : Qp) : Bool := (getSlice s q.slice).ccHa

/-- PACE_BURST that bounds the bucket: that of profile 0 in host-assisted mode; each as the queue pair's latest ACK found it (R294). -/
def paceBurst (s : Dev) (q : Qp) : Nat := if ccHostAssisted s q then q.cc.burst0 else q.cc.prof.paceBurst

/-- The bucket now, in bytes × 1,000. -/
def bucketNow (s : Dev) (q : Qp) : Nat :=
  Nat.min (paceBurst s q * 1000) (q.cc.bucket + q.cc.rate * (s.now - q.cc.bucketAt))

/-- The pacing bucket lets a packet of wire length `l` be built. -/
def paceOpen (s : Dev) (q : Qp) (l : Nat) : Bool := q.cc.unpaced || decide (l * 1000 ≤ bucketNow s q)

/-- The bucket loses `l`. -/
def pacePay (s : Dev) (l : Nat) (q : Qp) : Qp :=
  { q with cc := { q.cc with bucket := bucketNow s q - l * 1000, bucketAt := s.now } }

/-- Bytes outstanding (R295): the wire bytes of every packet of which a PSN is not acknowledged. -/
def outBytesOf (q : Qp) : Nat := q.rqr.out.foldl (fun n o => if o.head && groupOpen q o then n + o.wire else n) 0

/-- The window lets a packet of wire length `l` be built. -/
def windowOpen (q : Qp) (l : Nat) : Bool :=
  q.cc.unlimited || decide (outBytesOf q = 0) || decide (outBytesOf q + l ≤ q.cc.w)

/-- Address of a queue pair's rate-table entry (Table 11.5). -/
def rateAddr (qpn : Nat) : Nat := 0x62000000 + qpn * 8

/-- The values of a valid rate-table entry in force (Table 8.2, R297). With no window named W stays at its maximum. -/
def applyRate (e : Nat) (q : Qp) : Qp :=
  let w := bitsN e 39 16
  let r := bitsN e 63 40
  { q with cc := { q.cc with
    w := if w = 0 then 4194304 else Nat.min w 16384 * 256
    unlimited := decide (w = 0)
    rate := r
    unpaced := decide (r = 0) } }

/-- The queue pair reads its rate-table entry (R297, R393): a WINDOW above 16,384 is clamped and counted, a poisoned entry is
taken as one with V clear and counted. -/
def rateRead (qpn : Nat) (s : Dev) : Dev :=
  match getQp s qpn with
  | none => s
  | some q =>
    let a := rateAddr qpn
    let e := leNat (memRead s.mem a 8)
    let q := { q with cc := { q.cc with bucket := bucketNow s q, bucketAt := s.now, tableAt := some s.now } }
    if poisonedAt s a 8 then bump 0x19 q.slice (setQp qpn q s)
    else if !e.testBit 0 then setQp qpn q s
    else
      let s := setQp qpn (applyRate e q) s
      if 16384 < bitsN e 39 16 then bump 0x18 q.slice s else s

/-- The copy of the entry is older than RATE_POLL, or there is none. -/
def rateStale (s : Dev) (q : Qp) : Bool :=
  ccHostAssisted s q && match q.cc.tableAt with
    | none => true
    | some t => decide (t + (getSlice s q.slice).ratePoll < s.now)

/-! ## What comes next -/

/-- A packet that a queue pair would build: the entry or message it belongs to, its header fields, and the untranslated pieces
of its bytes (its destination, for a READ_REQ or an atomic). `len` is the payload, or the response bytes of a READ_REQ. -/
structure Plan where
  entry : Option U32
  msg : Option SeqKind
  seqId : Nat
  op : Nat
  desc : Option (BitVec 128)
  index : Nat
  last : Bool
  len : Nat
  nPsn : Nat
  src : List (Nat × Nat × Nat)
  deriving DecidableEq, Repr

/-- TRANSFORM_DATA descriptor (Table 5.12). -/
def encTransform (wkey arg slot off : Nat) : BitVec 128 :=
  BitVec.ofNat 128 (pack [(off, 48), (0, 10), (slot, 6), (arg, 32), (wkey, 32)])

/-- STAGE_DATA descriptor (Table 6.12). -/
def encStage (wkey seq recvSeq off : Nat) : BitVec 128 := mkDesc wkey seq recvSeq off

/-- Packet opcode of a send entry. -/
def packetOp (e : BitVec 512) : Nat :=
  let op := weOp e
  if op = opWrite then pkWrite
  else if op = opWriteImm then pkWriteImm
  else if op = opRead then pkReadReq
  else if op = opSend then pkSend
  else if op = opSendImm then pkSendImm
  else if op = opFetchAdd then pkFetchAdd
  else if op = opCmpSwap then pkCmpSwap
  else if op = opStageSend then pkStage
  else if pbRxV e then pkTransform
  else pkWrite

/-- Offset of the landing slot of a micro-batch (R233), and its log slot (R232). -/
def slotOffset (p : StageP) (seq : U32) : Nat := p.landOffset + seq.toNat % Nat.max 1 p.slots * p.slotBytes
def logSlot (p : StageP) (seq : U32) : Nat := p.log + seq.toNat % Nat.max 1 p.k * p.slotBytes

/-- The descriptor of an entry's message. -/
def entryDesc (s : Dev) (e : SendEntry) : BitVec 128 :=
  let r := e.e.raw
  let op := packetOp r
  let imm := (weOperand r) % 2 ^ 32
  if op = pkStage then
    match tget s.streams (sgStream r), e.mbSeq with
    | some x, some seq => encStage x.p.wkey.toNat seq.toNat e.recvSeq (slotOffset x.p seq)
    | _, _ => 0
  else if op = pkTransform then encTransform (weWkey r) (pbArg r).toNat (pbRxSlot r) (weOff r)
  else if op = pkSend then mkDesc 0 0 e.recvSeq 0
  else if op = pkSendImm then mkDesc 0 imm e.recvSeq 0
  else if op = pkWriteImm then mkDesc (weWkey r) imm e.recvSeq (weOff r)
  else mkDesc (weWkey r) 0 0 (weOff r)

/-- The next packet of a started entry. -/
def planEntry (s : Dev) (q : Qp) (e : SendEntry) : Plan :=
  let r := e.e.raw
  let op := packetOp r
  let mtu := mtuOf q
  if op = pkReadReq then
    let n := Nat.min 64 (e.total - e.built)
    let off := e.built * mtu
    let len := Nat.min (n * mtu) (weLen r - off)
    ⟨some e.e.index, none, 0, op, some (mkDesc (weWkey r) len 0 (weOff r + off)), 0, true, len, n,
      subPieces (entryPieces e.e) off len⟩
  else if pkAtomic op then
    ⟨some e.e.index, none, 0, op, some (entryDesc s e), 0, true, 8, 1, entryPieces e.e⟩
  else
    let off := e.built * mtu
    let len := Nat.min mtu (e.wire - off)
    ⟨some e.e.index, none, 0, op, if e.built = 0 then some (entryDesc s e) else none, e.built, decide (e.built + 1 = e.total),
      len, 1, if e.txProg.isSome then [] else subPieces (entryPieces e.e) off len⟩

/-- The next packet of a message of the sequencer. -/
def planSeq (q : Qp) (m : SeqMsg) : Plan :=
  let mtu := mtuOf q
  let off := m.built * mtu
  let len := Nat.min mtu (m.len - off)
  ⟨none, some m.kind, m.id, m.op, if m.built = 0 then some m.desc else none, m.built, decide (off + len = m.len), len, 1,
    subPieces m.src off len⟩

/-- The first message of the sequencer that waits on a queue pair, and the first started entry with packets to build. -/
def nextSeq (s : Dev) (qpn : Nat) : Option SeqMsg := s.seqMsgs.find? fun m => m.qpn == qpn
def nextEntry (q : Qp) : Option SendEntry := q.rqr.started.find? fun e => !e.done && decide (e.built < e.total)


/-- The started entry whose message has been built in part. -/
def partBuilt (q : Qp) : Option SendEntry := q.rqr.started.find? fun e => !e.done && decide (0 < e.built ∧ e.built < e.total)

/-- Entry and queue pair for which a queue pair would build or resend next: the one that a fault on its source stops (R138). -/
def seqOwner (s : Dev) (k : SeqKind) : Option (Nat × U32) :=
  match k with
  | .coll g i => (runOf s g i).map fun r => (r.qpn, r.index)
  | .moe g i => (moeRunOf s g i).map fun r => (r.qpn, r.index)
  | .replay _ _ => none

def buildOwner (s : Dev) (qpn : Nat) (q : Qp) : Option (Nat × U32) :=
  match nextResend q with
  | some o => (match o.entry, o.msg with
    | some i, _ => some (qpn, i)
    | none, some k => seqOwner s k
    | none, none => none)
  | none =>
    match partBuilt q, nextSeq s qpn with
    | some e, _ => some (qpn, e.e.index)
    | none, some m => seqOwner s m.kind
    | none, none => (q.rqr.started.find? fun e => !e.done).map fun e => (qpn, e.e.index)

/-! ## Source data -/

/-- What reading the source of a packet finds. -/
inductive Gather where
  | miss (space page : Nat)
  | closed
  | refused (space addr : Nat)
  | got (bytes : List Byte) (poisoned : Bool)
  deriving DecidableEq, Repr

/-- Bytes of a packet's pieces: Millefeuille pieces from the stacks, the others from what the read returned, at their place in
the packet. The pieces of a log are physical (R232). `src.poisoned` says that the read, or the adapter's own protection
of what it brought, failed (R394, log 181). -/
def gather (s : Dev) (slice : Nat) (log : Bool) (pieces : List (Nat × Nat × Nat)) (src : ReadData) : Gather :=
  pieces.foldl (fun acc p =>
    match acc with
    | .got bs bad =>
      if log then .got (bs ++ memRead s.mem p.2.1 p.2.2) (bad || poisonedAt s p.2.1 p.2.2)
      else if !canRead s p.1 then .closed
      else
        match translate s slice p.1 p.2.1 p.2.2 accRead with
        | .inr page => .miss p.1 page
        | .inl l =>
          if p.1 = 1 then
            let (b, x) := readPieces s l
            .got (bs ++ b) (bad || x)
          else if src.refused then .refused p.1 p.2.1
          else .got (bs ++ padTo (src.bytes.drop bs.length) p.2.2) bad
    | r => r) (.got [] src.poisoned)

/-- A refused source read, or a failed translation of it: the entry ends with a status if none of its packets has been sent,
else its queue pair fails (R138, R380). -/
def seqSent (s : Dev) (k : SeqKind) : Bool :=
  (s.qps.any fun p => p.2.rqr.out.any fun o => o.msg == some k) || match k with
    | .coll g i => (runOf s g i).any fun r => decide (0 < r.acked)
    | .moe g i => (moeRunOf s g i).any fun r => decide (0 < r.acked)
    | .replay _ _ => true

/-- The sequencer's work for an entry ends before any packet of it has been sent. -/
def endSeqWork (k : SeqKind) (s : Dev) : Dev :=
  let s := { s with seqMsgs := s.seqMsgs.filter fun m => !(m.kind == k) }
  match k with
  | .coll g i =>
    (match runOf s g i with
     | some r => (levelsOf s r).foldl (fun s p => endColl false p.1 p.2 s) s
     | none => s)
  | .moe g i => if (moeRunOf s g i).isSome then modMoe g endMoePhase s else s
  | .replay _ _ => s

/-- What the sequencer sends for an entry, if it carries the entry out. -/
def seqWorkOf (s : Dev) (e : CachedEntry) : Option SeqKind :=
  if e.poisoned then none
  else if weOp e.raw = opCollective then
    ((tget s.groups (coGroup e.raw)).bind fun g => g.run).map fun r => .coll (coGroup e.raw) r.id
  else if weOp e.raw = opMoe then
    (((tget s.groups (moGroup e.raw)).bind fun g => g.moe).bind fun m => m.run).map fun r => .moe (moGroup e.raw) r.id
  else none

/-- A packet of the message of an entry has been sent. -/
def entrySent (s : Dev) (e : SendEntry) : Bool :=
  e.firstPsn.isSome || match seqWorkOf s e.e with
    | some k => seqSent s k
    | none => false

/-- A local access of queue pair `qpn` on behalf of an entry has failed: the entry ends with `live` if none of its packets has
been sent, else `qpn` enters ERROR with `err` (R138, R380). -/
def failOwner (qpn : Nat) (own : Option (Nat × U32)) (live err : BitVec 8) (s : Dev) : Dev :=
  match getQp s qpn with
  | none => s
  | some q =>
    let psn := some (((nextResend q).map (·.psn)).getD q.rqr.nextPsn)
    match own.bind fun o => (startedEntry s o.1 o.2).map fun e => (o.1, e) with
    | none => enterError qpn err.toNat psn 0 none err s
    | some (n, e) =>
      if entrySent s e then
        enterError qpn err.toNat psn 0 (if n = qpn then some (false, e.e.index) else none) err s
      else
        let mine := fun (i : Item) => itemIdle i && itemEntry s i == some (n, e.e.index)
        let s := match seqWorkOf s e.e with
          | some k => endSeqWork k (dropItems mine s)
          | none => dropItems mine s
        retireSends n (finishSend n e.e.index live s)

/-- The same for the entry that `buildOwner` names. -/
def failSource (qpn : Nat) (live err : BitVec 8) (s : Dev) : Dev :=
  match getQp s qpn with
  | none => s
  | some q => failOwner qpn (buildOwner s qpn q) live err s

/-! ## Keys -/

/-- The queue pair's transmit slot can encrypt `pay` bytes now; a slot that meets a limit with no NEXT stops (R440). -/
def keyReady (qpn pay : Nat) (q : Qp) (s : Dev) : Bool × Dev :=
  match q.p.txKey with
  | none => (true, s)
  | some k =>
    match takeKey k pay s with
    | (some _, _) => (true, s)
    | (none, s) => (false, modQp qpn (fun q => { q with rqr := { q.rqr with keyWaiting := true } }) s)

/-! ## Sending -/

/-- Wire length of a request packet before it is built. -/
def planWire (q : Qp) (desc : Bool) (pay : Nat) : Nat :=
  16 + (if desc then 16 else 0) + pay + 8 + (if q.p.txKey.isSome then 16 else 0)

/-- Payload bytes that a packet carries: none for a READ_REQ, the operands of an atomic. -/
def payLen (op len : Nat) : Nat := if op = pkReadReq then 0 else if op = pkFetchAdd then 8 else if op = pkCmpSwap then 16 else len

/-- A PSN that has no route waits as after a BUSY NAK of 1 µs (R105, R106, R268). -/
def heldPsn (now : Nat) (o : OutPkt) (q : Qp) : Qp :=
  let q := modGroup o (fun o => { o with resend := false, delayUntil := some (now + 1000) }) q
  touchTimer now { q with rqr := { q.rqr with busySince := some (q.rqr.busySince.getD now) } }

/-- Nothing remains to be sent on the queue pair (R99). -/
def nothingLeft (s : Dev) (qpn : Nat) (q : Qp) : Bool :=
  (nextSeq s qpn).isNone && (nextEntry q).isNone && (nextResend q).isNone

/-- Sends an outstanding PSN. It carries AREQ where no PSN but itself is left to send (R99). Without a route the PSN waits as after a BUSY NAK of 1 µs (R268). -/
def transmit (qpn : Nat) (o : OutPkt) (payload : List Byte) (poisoned : Bool) (s : Dev) : Dev :=
  match getQp s qpn with
  | none => s
  | some q =>
    let first := !o.sent
    let sample := first && q.cc.sample.isNone
    let areq := sample || nothingLeft s qpn (modGroup o (fun o => { o with resend := false }) q) || decide (512 ≤ dist q.rqr.nextPsn q.rqr.unaPsn)
      || (!q.cc.unlimited && decide (q.cc.w ≤ outBytesOf q))
    let l := planWire q o.desc.isSome payload.length
    let q := pacePay s l q
    let q := if sample then { q with cc := { q.cc with sample := some (o.psn, time32 s) } }
      else if q.cc.sample.any fun x => x.1 == o.psn then { q with cc := { q.cc with sample := none } } else q
    match sendFrom qpn o.opcode q.p.tc o.last areq first o.psn o.pktIndex o.desc payload poisoned none (setQp qpn q s) with
    | (.sent, s) =>
      let mark := fun (o : OutPkt) =>
        { o with resend := false, rerun := 0, sent := true, sacked := false, delayUntil := none }
      let timer := fun (q : Qp) => if first then touchTimer s.now q else restartTimer s.now q
      modQp qpn (fun q => timer (modGroup o mark q)) s
    | (_, s) =>
      modQp qpn (fun q => heldPsn s.now o { q with cc := if sample then { q.cc with sample := none } else q.cc }) s

/-- Poison met at a packet's source is kept for its entry's completion (R400). -/
def poisonOwner (qpn : Nat) (entry : Option U32) (msg : Option SeqKind) (s : Dev) : Dev :=
  match entry, msg with
  | some i, _ => modSend qpn i (fun e => { e with poisoned := true }) s
  | none, some (.coll g i) => if (runOf s g i).isSome then modRun g (fun r => { r with poisoned := true }) s else s
  | none, some (.moe g i) => if (moeRunOf s g i).isSome then modMoeRun g (fun r => { r with poisoned := true }) s else s
  | none, _ => s

/-! ## Requester items (R187, R188) -/

/-- Source bytes of one requester item: whole granules, at most 8,192 bytes (R153). -/
def itemRun (p : Program) : Nat := Nat.max p.inGran (8192 / Nat.max 1 p.inGran * p.inGran)

/-- The items, by number, whose output overlaps output bytes `[a, a + n)`: the first, and how many. -/
def itemRange (p : Program) (a n : Nat) : Nat × Nat :=
  let g := Nat.max 1 p.outGran
  let run := Nat.max 1 (itemRun p)
  let lo := a / g * p.inGran / run
  let hi := (ceilDiv (a + n) g * p.inGran - 1) / run
  (lo, hi + 1 - lo)

/-- The requester item number `k` of an entry (R153, R187): its source, which `staged` bytes of an accepted push replace (R47). Its key
is the byte offset of its first granule (R170). -/
def entryItem (qpn slice : Nat) (e : SendEntry) (p : Program) (staged : Option (List Byte)) (k : Nat) : Item :=
  let off := k * itemRun p
  let n := Nat.min (itemRun p) (weLen e.e.raw - off)
  { newItem slice qpn (u32 off) p (pbArg e.e.raw) (off / Nat.max 1 p.inGran) (.wire qpn e.e.index (outBytes p off)) with
    src := match staged with
      | some _ => []
      | none => subPieces (entryPieces e.e) off n
    input := match staged with
      | some bs => padTo (bs.drop off) n
      | none => []
    len := n }

/-- Output bytes `[a, a + n)` of an entry's program carry poison: an item whose input was poisoned made some of them (R195). -/
def txPoisoned (e : SendEntry) (a n : Nat) : Bool := e.txBad.any fun b => overlap b.1 b.2 a n

/-! ## Resends (R104, R105, R188, R232) -/

/-- Operand bytes of an atomic (Table 3.5). -/
def atomicPayload (e : BitVec 512) : List Byte :=
  natLe (weOperand e) 8 ++ (if weOp e = opCmpSwap then natLe (fld e 447 384) 8 else [])

/-- The physical pieces of a list of untranslated ones, or the first page that misses. -/
def placePieces (s : Dev) (slice : Nat) (l : List (Nat × Nat × Nat)) : List (Nat × Nat × Nat) ⊕ (Nat × Nat) :=
  l.foldl (fun r p =>
    match r with
    | .inr m => .inr m
    | .inl acc =>
      match translate s slice p.1 p.2.1 p.2.2 accWrite with
      | .inr page => .inr (p.1, page)
      | .inl x => .inl (acc ++ x.map fun y => (p.1, y.1, y.2))) (.inl [])

/-- A response PSN of an imported queue pair, whose destination has not been translated here (R127, R413). -/
def unplacedOut (x : OutPkt) : Bool := x.place.isEmpty && !x.src.isEmpty && !x.answered

/-- One such PSN takes the pieces of its destination, held for operation `op`. -/
def placeOut (op qpn slice : Nat) (x : OutPkt) (s : Dev) : Dev :=
  match placePieces s slice x.src with
  | .inr _ => s
  | .inl l =>
    let (ts, s) := addHolders op slice .qp qpn l s
    modQp qpn (modOut x.psn fun o => { o with place := l, tokens := ts }) (touchPieces slice accWrite x.src s)

/-- A fetch is sent again once the destination of each response that is still to come is translated. -/
def replaceFetch (qpn : Nat) (q : Qp) (o : OutPkt) (go : Dev → Dev) (s : Dev) : Dev :=
  let l := (groupOf q o).filter unplacedOut
  match l.findSome? fun x => match placePieces s q.slice x.src with
      | .inr m => some m
      | .inl _ => none with
  | some (sp, page) => missWalk q.slice sp page accWrite (.send qpn (buildOwner s qpn q)) s
  | none => go (l.foldl (fun t x => placeOut s.freeCtr qpn q.slice x t) s)

/-- A PSN is sent again: it passes the pacing test only (R295). A packet of an entry that runs a program runs again every item whose
output it carries, one for each turn, as the quota lets (R158, R188). -/
def resendOut (qpn : Nat) (q : Qp) (o : OutPkt) (src : ReadData) (s : Dev) : Dev :=
  let pay := payLen o.opcode o.len
  if !paceOpen s q (planWire q o.desc.isSome pay) then s
  else
    let e := o.entry.bind fun i => startedEntry s qpn i
    let p := (e.bind fun e => e.txProg).bind fun i => progOf s i
    let off := o.pktIndex * mtuOf q
    let stop := match e with
      | some e => e.faultDue.isSome
      | none => false
    let send := fun (bs : List Byte) (bad : Bool) (s : Dev) =>
      match keyReady qpn pay q s with
      | (false, s) => s
      | (true, s) => transmit qpn o bs bad s
    if stop then s
    else if o.opcode = pkReadReq then replaceFetch qpn q o (send [] false) s
    else if pkAtomic o.opcode then replaceFetch qpn q o (send ((e.map fun e => atomicPayload e.e.raw).getD []) false) s
    else
      match e, p with
      | some e, some p =>
        if o.opcode = pkStage then
          match gather s q.slice true o.src src with
          | .got bs bad => send bs bad s
          | _ => s
        else if o.rerun < (itemRange p off o.len).2 then
          if itemsFull s q.slice then s
          else addItem (entryItem qpn q.slice e p none ((itemRange p off o.len).1 + o.rerun))
            (modQp qpn (modOut o.psn fun o => { o with rerun := o.rerun + 1 }) s)
        else if wireOverlap s qpn e.e.index off o.len then s
        else send (padTo (e.txOut.drop off) o.len) (txPoisoned e off o.len) s
      | _, _ =>
        match gather s q.slice (o.opcode == pkStage) o.src src with
        | .miss sp page => missWalk q.slice sp page accRead (.send qpn (buildOwner s qpn q)) s
        | .closed => s
        | .refused sp a => failSource qpn stLocalAccess stLocalAccess (refusedIn q.slice sp a s)
        | .got bs bad =>
          let s := if o.opcode == pkStage then s else touchPieces q.slice accRead o.src s
          send bs bad (if bad then poisonOwner qpn o.entry o.msg s else s)

/-! ## New packets -/

/-- One PSN of a plan, with the physical pieces its response is written to. -/
def outOf (q : Qp) (pl : Plan) (wire : Nat) (src : List (Nat × Nat × Nat)) (place : List (Nat × Nat × Nat)) (tokens : List Nat)
    (k : Nat) : OutPkt where
  psn := q.rqr.nextPsn + u32 k
  entry := pl.entry
  opcode := pl.op
  pktIndex := if pl.op = pkReadReq then 0 else pl.index
  len := if pl.op = pkReadReq then Nat.min (mtuOf q) (pl.len - k * mtuOf q) else pl.len
  last := pl.last
  head := decide (k = 0)
  nPsn := pl.nPsn
  desc := pl.desc
  wire := if k = 0 then wire else 0
  sacked := false
  answered := false
  placed := false
  delayUntil := none
  msg := pl.msg
  src := src
  place := place
  tokens := tokens
  resend := false
  rerun := 0
  sent := false

/-- What the entry or message of a plan becomes once its packet is built. -/
def planBuilt (qpn : Nat) (pl : Plan) (psn : U32) (s : Dev) : Dev :=
  match pl.entry with
  | some i => modSend qpn i (fun e => { e with
      built := e.built + pl.nPsn, firstPsn := some (e.firstPsn.getD psn) }) s
  | none =>
    { s with seqMsgs := if pl.last then s.seqMsgs.filter fun m => !(m.id == pl.seqId)
        else s.seqMsgs.map fun m => if m.id = pl.seqId then { m with built := m.built + 1 } else m }

/-- A built packet takes its PSNs and is sent. -/
def commitPlan (qpn : Nat) (q : Qp) (pl : Plan) (outs : List OutPkt) (payload : List Byte) (bad : Bool) (s : Dev) : Dev :=
  let fresh := !timerNeeded q
  let q' := { q with rqr := { q.rqr with
    nextPsn := q.rqr.nextPsn + u32 pl.nPsn
    out := q.rqr.out ++ outs
    rto := if fresh then q.p.rtoBase else q.rqr.rto
    retries := if fresh then 0 else q.rqr.retries } }
  let s := planBuilt qpn pl q.rqr.nextPsn (setQp qpn q' s)
  let s := if bad then poisonOwner qpn pl.entry pl.msg s else s
  match outs with
  | o :: _ => transmit qpn o payload bad s
  | [] => s

/-- Responses of a READ_REQ or an atomic have their whole destination translated before the request is sent, and each PSN
holds its part (R127). -/
def buildFetch (qpn : Nat) (q : Qp) (pl : Plan) (payload : List Byte) (wire : Nat) (s : Dev) : Dev :=
  match pl.src.findSome? fun p =>
      match translate s q.slice p.1 p.2.1 p.2.2 accWrite with
      | .inr page => some (p.1, page)
      | .inl _ => none with
  | some (sp, page) => missWalk q.slice sp page accWrite (.send qpn (buildOwner s qpn q)) s
  | none =>
    let phys := pl.src.flatMap fun p =>
      match translate s q.slice p.1 p.2.1 p.2.2 accWrite with
      | .inl l => l.map fun x => (p.1, x.1, x.2)
      | .inr _ => []
    match keyReady qpn payload.length q s with
    | (false, s) => s
    | (true, s) =>
      let op := s.freeCtr
      let (outs, s) := (List.range pl.nPsn).foldl (fun (acc : List OutPkt × Dev) k =>
        let place := subPieces phys (k * mtuOf q) (mtuOf q)
        let (ts, s) := addHolders op q.slice .qp qpn place acc.2
        (acc.1 ++ [outOf q pl wire (subPieces pl.src (k * mtuOf q) (mtuOf q)) place ts k], s)) ([], s)
      commitPlan qpn q pl outs payload false (touchPieces q.slice accWrite pl.src s)

/-- A packet with its payload: a STAGE_DATA payload is written to the log as it is built (R232). -/
def buildData (qpn : Nat) (q : Qp) (pl : Plan) (payload : List Byte) (bad : Bool) (wire : Nat) (s : Dev) : Dev :=
  match keyReady qpn payload.length q s with
  | (false, s) => s
  | (true, s) =>
    let seq := (pl.entry.bind fun i => startedEntry s qpn i).bind fun e => (e.mbSeq.map fun b => (sgStream e.e.raw, b))
    match pl.op == pkStage, seq with
    | true, some (n, b) =>
      (match tget s.streams n with
       | none => s
       | some x =>
         let a := logSlot x.p b + pl.index * mtuOf q
         let s := smemWrite a payload bad s
         let s := if pl.last then { s with streams := tset s.streams n { x with logged := b + 1 } } else s
         commitPlan qpn q pl [outOf q pl wire [(1, a, payload.length)] [] [] 0] payload bad s)
    | _, _ => commitPlan qpn q pl [outOf q pl wire pl.src [] [] 0] payload bad s

/-- The payload of a packet whose bytes are its source's. -/
def buildSource (qpn : Nat) (q : Qp) (pl : Plan) (wire : Nat) (src : ReadData) (s : Dev) : Dev :=
  match gather s q.slice (match pl.msg with | some (.replay _ _) => true | _ => false) pl.src src with
  | .miss sp page => missWalk q.slice sp page accRead (.send qpn (buildOwner s qpn q)) s
  | .closed => s
  | .refused sp a => failSource qpn stLocalAccess stLocalAccess (refusedIn q.slice sp a s)
  | .got bs bad =>
    buildData qpn q pl bs bad wire (match pl.msg with
      | some (.replay _ _) => s
      | _ => touchPieces q.slice accRead pl.src s)

/-- The output that a requester program has made covers `[0, n)` of the wire payload (R187). -/
def txReady (s : Dev) (qpn : Nat) (e : SendEntry) (p : Program) (a n : Nat) : Bool :=
  decide (a + n ≤ outBytes p e.txNext) && !wireOverlap s qpn e.e.index a n

/-- The next packet of an entry that runs a requester program: its items are dispatched first, as many as the quota lets
(R158). -/
def buildTx (qpn : Nat) (q : Qp) (e : SendEntry) (p : Program) (pl : Plan) (wire : Nat) (s : Dev) : Dev :=
  let off := pl.index * mtuOf q
  if txReady s qpn e p off pl.len then
    buildData qpn q pl (padTo (e.txOut.drop off) pl.len) (txPoisoned e off pl.len) wire s
  else if e.txNext < weLen e.e.raw ∧ itemsFull s q.slice = false then
    let i := entryItem qpn q.slice e p e.e.staged (e.txNext / Nat.max 1 (itemRun p))
    addItem i (modSend qpn e.e.index (fun e => { e with txNext := e.txNext + i.len }) s)
  else s

/-- R89 and R295 let a plan be built. -/
def planFits (s : Dev) (q : Qp) (pl : Plan) (wire : Nat) : Bool :=
  decide (dist q.rqr.nextPsn q.rqr.unaPsn + pl.nPsn ≤ 512)
    && (!pkAtomic pl.op || decide (q.rqr.out.countP (fun o => pkAtomic o.opcode && !ackedOut o) < 16))
    && windowOpen q wire && paceOpen s q wire

/-- A new packet of a started entry. -/
def buildEntry (qpn : Nat) (q : Qp) (e : SendEntry) (src : ReadData) (s : Dev) : Dev :=
  let pl := planEntry s q e
  let pay := payLen pl.op pl.len
  let wire := planWire q pl.desc.isSome pay
  if queueFaulted s qpn q then s
  else if !planFits s q pl wire then s
  else if pl.op = pkReadReq then buildFetch qpn q pl [] wire s
  else if pkAtomic pl.op then buildFetch qpn q pl (atomicPayload e.e.raw) wire s
  else
    match e.txProg.bind fun i => progOf s i, e.e.staged with
    | some p, _ => buildTx qpn q e p pl wire s
    | none, some bs => buildData qpn q pl (padTo (bs.drop (pl.index * mtuOf q)) pl.len) false wire s
    | none, none => buildSource qpn q pl wire src s

/-- A new packet of a sequencer's message. -/
def buildSeq (qpn : Nat) (q : Qp) (m : SeqMsg) (src : ReadData) (s : Dev) : Dev :=
  let pl := planSeq q m
  let wire := planWire q pl.desc.isSome pl.len
  let stop := match seqOwner s m.kind with
    | some (k, i) => (startedEntry s k i).any fun e => e.faultDue.isSome
    | none => false
  if stop || !planFits s q pl wire then s else buildSource qpn q pl wire src s

/-- The queue pair has a packet to build (R297). -/
def hasPacket (s : Dev) (qpn : Nat) (q : Qp) : Bool :=
  (nextResend q).isSome || (nextSeq s qpn).isSome || (nextEntry q).isSome

/-- The queue pair builds a new packet: a message that has begun goes on, whose PSNs are consecutive (R88); else the sequencer's
messages come first, then the started entries in ring order. -/
def buildNew (qpn : Nat) (q : Qp) (src : ReadData) (s : Dev) : Dev :=
  match partBuilt q, nextSeq s qpn, nextEntry q with
  | some e, _, _ => buildEntry qpn q e src s
  | none, some m, _ => buildSeq qpn q m src s
  | none, none, some e => buildEntry qpn q e src s
  | none, none, none => s

/-- PACKET_BUILD: a resend first, then a new packet. -/
def packetBuild (qpn : Nat) (src : ReadData) (s : Dev) : Dev :=
  match getQp s qpn with
  | none => s
  | some q0 =>
    if !sliceLive s q0.slice || !dataOn s || quiet s q0 || !(q0.st == .live || q0.st == .drain) || !hasPacket s qpn q0 then s
    else if !q0.cached then bump 0x1B (pipeOf qpn) s
    else
      let s := if rateStale s q0 then rateRead qpn s else s
      let s := cacheContext qpn s
      match getQp s qpn with
      | none => s
      | some q =>
        match nextResend q with
        | some o => resendOut qpn q o src s
        | none => buildNew qpn q src s

/-- PACKET_BUILD. -/
def execPacketBuild (qpn : Nat) (source : ReadData) (s : State) : Res := runRetire (packetBuild qpn source) s

/-- RATE_TABLE_READ (R297): the copy is read again once it is older than RATE_POLL. -/
def rateTableRead (qpn : Nat) (s : Dev) : Dev :=
  match getQp s qpn with
  | none => s
  | some q => if sliceLive s q.slice && rateStale s q && hasPacket s qpn q then rateRead qpn s else s

def execRateTableRead (qpn : Nat) (s : State) : Res := run (rateTableRead qpn) s

end Sys2Proof.Machine
end

