-- ==== Sys2Proof/Machine/Responder.lean ====
section
/-!
DEFINITION. Sys2Proof/Machine/Responder.lean: RX_REQUEST_PACKET and ACK_TIMER_EXPIRY: a request packet is checked, classified,
placed or executed, its message retires, and it is acknowledged (R87 to R102, R116, R117, R190, R191, R208, R212, R223, R225,
R234, R237, R300, R301, R361, R397, R398, R441, R444, R445).
-/
namespace Sys2Proof.Machine

/-! ## Structural faults (R87) -/

/-- The packet opcode is one whose message is a single packet. -/
def pkSingle (op : Nat) : Bool := op == pkReadReq || pkAtomic op || op == pkMoe

/-- Fields of a TRANSFORM_DATA descriptor (Table 5.12). -/
def tdArg (d : BitVec 128) : U32 := u32 (fld d 95 64)
def tdSlot (d : BitVec 128) : Nat := fld d 63 58
def tdRsvd (d : BitVec 128) : Bool := decide (fld d 57 48 ≠ 0)

/-- A reserved field of a descriptor of any request opcode is set. -/
def descRsvd (op : Nat) (d : BitVec 128) : Bool :=
  if op < 7 then dsRsvd op d
  else if op = pkTransform then tdRsvd d
  else if op = pkColl then decide (cdRsvd d ≠ 0)
  else if op = pkMoe then mdRsvd d
  else false

/-- The opcode allows the payload length. -/
def payOk (op n : Nat) (desc : Option (BitVec 128)) (enc : Bool) : Bool :=
  if op = pkReadReq then decide (n = 0)
  else if op = pkFetchAdd then decide (n = 8)
  else if op = pkCmpSwap then decide (n = 16)
  else if op = pkMoe ∧ desc.any mdTally = true then decide (n = 0)
  else enc || decide (n ≤ 8192)

/-- A fault of R87 in a request packet, but for a DQPN that no queue pair holds. -/
def reqMalformed (p : Packet) : Bool :=
  let op := phOp p.hdr
  !pkIsReq op || decide (phVer p.hdr ≠ 1) || decide (phRsvd p.hdr ≠ 0)
    || (decide (phIndex p.hdr = 0) && p.desc.isNone)
    || decide (phPay p.hdr ≠ p.payload.length) || !payOk op p.payload.length p.desc (phEnc p.hdr)
    || p.desc.any (descRsvd op)

/-- What the trailer of a packet says (R397). -/
inductive GlazeState where
  | good
  | poison
  | bad
  deriving DecidableEq, Repr

/-- What the trailer says of the payload (R397). Where the adapter's own protection of an intact packet has failed, its data is poisoned
(R394). A descriptor where none belongs makes the receiver read another payload than was sent (R82). -/
def glazeOf (p : Packet) : GlazeState :=
  let g := glaze p.payload
  if p.desc.isSome && decide (phIndex p.hdr ≠ 0) then .bad
  else if p.glaze = g then (if p.flaw then .poison else .good)
  else if p.glaze = g ^^^ poisonMark then .poison
  else .bad

def isPoison (p : Packet) : Bool := glazeOf p == .poison

/-! ## The receive cipher (R439, R441, R444, R447) -/

/-- AUTH_FAIL counts for the queue pair, and for its receive slot if it has one (R439, R444). -/
def countAuth (qpn : Nat) (q : Qp) (s : Dev) : Dev :=
  let s := modQp qpn (fun q => { q with authFailed := q.authFailed + 1 }) s
  match q.p.rxKey with
  | some k => bump 0x1A k s
  | none => s

/-- AUTH_FAIL of a slot on a packet of queue pair `qpn`: raised at most once a millisecond (R444, Table 13.7). -/
def authFail (k qpn : Nat) (s : Dev) : Dev :=
  match tget s.keySlots k with
  | none => s
  | some x =>
    let n := x.failsSince + 1
    if x.lastFailEvent.any fun t => decide (s.now < t + 1000000) then
      { s with keySlots := tset s.keySlots k { x with failsSince := n } }
    else
      sliceEvent x.owner 0x102 0 bankCore k n qpn
        { s with keySlots := tset s.keySlots k { x with failsSince := 0, lastFailEvent := some s.now } }

/-- The verdict of a receive slot on a packet, under CUR, NEXT or PREV: the packet in plain text, or nothing (R441, R444). A packet that
passes under NEXT changes the key. -/
def verify (k : Nat) (p : Packet) (s : Dev) : Option Packet × Dev :=
  match tget s.keySlots k with
  | none => (none, s)
  | some y =>
    let prev := y.prev.bind fun c => if s.now < c.2 then openPacket c.1 p else none
    match y.cur.bind fun c => openPacket c p with
    | some x => (some x, { s with keySlots := tset s.keySlots k { y with pkts := y.pkts + 1, bytes := y.bytes + p.payload.length } })
    | none =>
      match y.next with
      | none => (prev, s)
      | some n =>
        match openPacket n p with
        | none => (prev, s)
        | some x =>
          let y' := { y with
            cur := some n, next := none, prev := y.cur.map fun c => (c, s.now + 1000000), pkts := 1, bytes := p.payload.length
            keyHa := (getSlice s y.owner).keyHa }
          (some x, sliceEvent y.owner 0x100 0 bankCore k n.serial.toNat 0 { s with keySlots := tset s.keySlots k y' })

/-- The packet in plain text, where it may be looked at further: ENC is as the queue pair's RX_KEY asks, and its tag passes
(R439, R441, R444, R447). -/
def authentic (qpn : Nat) (q : Qp) (p : Packet) (s : Dev) : Option Packet × Dev :=
  match phEnc p.hdr && p.cipher.isSome, q.p.rxKey with
  | true, some k =>
    if 8192 < p.payload.length then (none, bump 0x16 q.slice s)
    else
      match verify k p s with
      | (some x, s) => (some x, s)
      | (none, s) => (none, authFail k qpn (countAuth qpn q s))
  | false, none => if phEnc p.hdr then (none, countAuth qpn q s) else (some p, s)
  | _, _ => (none, countAuth qpn q s)

/-! ## Parking (R78, R79, R93, R115, R126) -/

/-- Packets parked in a pipeline, of the request class. -/
def parkedIn (s : Dev) (k : Nat) : List Parked := tgetD s.miss k []
def parkedReqs (s : Dev) (k : Nat) : Nat := (parkedIn s k).countP fun x => pkIsReq (phOp x.p.hdr)

/-- The pipeline has a place for a packet: 1,024 in all, 128 of them for the response class only. -/
def parkRoom (s : Dev) (k : Nat) (req : Bool) : Bool :=
  decide ((parkedIn s k).length < 1024) && (!req || decide (parkedReqs s k < 896))

def park (x : Parked) (s : Dev) : Dev :=
  { s with miss := tset s.miss (pipeOf x.qpn) (parkedIn s (pipeOf x.qpn) ++ [x]) }

/-- A request that is to wait is parked, with what it waits for started, or is answered with a BUSY NAK of 500 ns (R79). -/
def parkReq (qpn link : Nat) (p : Packet) (why : MissWait) (since : Nat) (begin_ : Dev → Dev) (s : Dev) : Dev :=
  if parkRoom s (pipeOf qpn) true then begin_ (park ⟨qpn, link, p, why, since⟩ s)
  else nakBusyFor qpn 5 (phPsn p.hdr) s

/-- A copy of the PSN is parked past its authentication, or waits to be executed or to start on an engine. -/
def inFlight (s : Dev) (qpn : Nat) (q : Qp) (psn : U32) : Bool :=
  ((parkedIn s (pipeOf qpn)).any fun x => x.qpn == qpn && x.why != .context && phPsn x.p.hdr == psn)
    || (q.rsp.deferred.any fun x => phPsn x.hdr == psn)
    || (s.items.any fun i => i.qpn == qpn && i.arr.any fun a => phPsn a.p.hdr == psn)
    || (allReads s).any fun r => match r.use with
        | .respAtomic n x => n == qpn && phPsn x.hdr == psn
        | _ => false

/-! ## Timestamps (R316, R317) -/

/-- An instant is captured in the timestamp queue of a port's group: whether it was, and the group. -/
def captureStamp (link : Nat) (s : Dev) : Bool × Option Nat × Dev :=
  let g := link / 8
  if 64 ≤ link then (true, none, s)
  else if 4096 ≤ tgetD s.stamps g 0 then (false, none, bump 0x2A g s)
  else (true, some g, { s with stamps := tset s.stamps g (tgetD s.stamps g 0 + 1) })

/-! ## The ingress meter (R300, R301) -/

/-- Colours. -/
inductive Colour where
  | green
  | yellow
  | red
  deriving DecidableEq, Repr

/-- The meter with its buckets, in bytes × 1,000, filled up to now. -/
def meterFill (now : Nat) (m : Meter) : Meter :=
  let d := now - m.at_
  { m with tc := Nat.min (m.cbs * 1000) (m.tc + m.cir * d), tp := Nat.min (m.pbs * 1000) (m.tp + m.pir * d), at_ := now }

/-- The colour of a packet of `b` bytes and the meter after it (RFC 2698, colour-blind). -/
def meterPacket (now b : Nat) (m : Meter) : Colour × Meter :=
  if m.pir = 0 then (.green, m)
  else
    let m := meterFill now m
    if m.tp < b * 1000 then (.red, m)
    else if m.tc < b * 1000 then (.yellow, { m with tp := m.tp - b * 1000 })
    else (.green, { m with tp := m.tp - b * 1000, tc := m.tc - b * 1000 })

/-- DELAY of a red packet's BUSY NAK, in units of 100 ns. -/
def redDelay (b : Nat) (m : Meter) : Nat := Nat.min 0xFFFF (Nat.max 1 (ceilDiv (b * 1000 - m.tp) (m.pir * 100)))

/-! ## Acceptance (R90, R94, R98) -/

def modRsp (qpn : Nat) (f : Responder → Responder) (s : Dev) : Dev := modQp qpn (fun q => { q with rsp := f q.rsp }) s

/-- `n` PSNs from `psn` are accepted; ePSN moves past the accepted ones. -/
def markAccepted (psn : U32) (n : Nat) (last : Bool) (r : Responder) : Responder :=
  let d := dist psn r.epsn
  let acc := (List.range n).foldl (fun (m : BitVec 512) i => m ||| (BitVec.ofNat 512 1 <<< (d + i))) r.accMap
  let lst := if last then r.lastMap ||| (BitVec.ofNat 512 1 <<< (d + n - 1)) else r.lastMap
  let run := ((List.range 512).find? fun i => !acc.getLsbD i).getD 512
  { r with epsn := r.epsn + u32 run, accMap := acc >>> run, lastMap := lst >>> run }

/-- Every PSN of `[a, b]` has been accepted. -/
def allAccepted (r : Responder) (a b : U32) : Bool := (List.range (dist b a + 1)).all fun i => acceptedPsn r (a + u32 i)

/-- The packet opcode asks for a response. -/
def pkFetches (op : Nat) : Bool := op == pkReadReq || pkAtomic op

/-- The data message that begins at a PSN. -/
def findMsg (q : Qp) (first : U32) : Option RxMsg := q.rsp.msgs.find? fun m => m.first == first && !pkFetches m.opcode

def modMsg (first : U32) (f : RxMsg → RxMsg) (r : Responder) : Responder :=
  { r with msgs := r.msgs.map fun m => if m.first = first then f m else m }

/-- A message whose descriptor has arrived, with its length if its LAST packet came before. -/
def newMsg (first : U32) (op : Nat) (d : BitVec 128) (len : Option Nat) (now : Nat) : RxMsg where
  first := first
  opcode := op
  desc := d
  last := none
  len := len
  accAt := now
  recvIndex := none
  bytes := 0
  poisoned := false
  stamp := none
  stampLost := false
  stampGroup := none
  refused := false

/-- Counters and the coalescing state of an acceptance. -/
def countAccepted (now : Nat) (ce : Bool) (r : Responder) : Responder :=
  { r with
    ceCount := if ce then sat 16 (r.ceCount + 1) else r.ceCount
    ackPending := r.ackPending + 1
    ackFirstAt := some (r.ackFirstAt.getD now) }

/-! ## Message triggers (R237) -/

/-- The tag of a message: MB_SEQ stands where IMM does. -/
def msgTag (op : Nat) (d : BitVec 128) : U32 := if pkImm op || op == pkStage then dsImm d else 0

/-- A retired message counts on the message triggers of its queue pair. -/
def fireMessage (qpn : Nat) (tag : U32) (s : Dev) : Dev :=
  s.triggers.foldl (fun s p =>
    let t := p.2
    if t.p.kind = 0 ∧ t.p.source = qpn ∧ tag &&& t.p.tagMask = t.p.tagValue then
      if t.p.count ≤ t.have_ + 1 then addCredit t.p.target { s with triggers := tset s.triggers p.1 { t with have_ := 0 } }
      else { s with triggers := tset s.triggers p.1 { t with have_ := t.have_ + 1 } }
    else s) s

/-! ## Receive entries that take no message, or whose message was refused (R95, R117, Table 11.8) -/

/-- The receive entry reads as poisoned, itself or in its fragment table. -/
def recvPoisoned (e : CachedEntry) : Bool := e.poisoned || e.tablePoisoned

/-- The receive queue moves past the entry at its consumer index. -/
def passRecv (counts : Bool) (q : Qp) : Qp :=
  let i := q.rq.ring.cons
  { q with
    rq := { q.rq with ring := { q.rq.ring with cons := i + 1 }, cache := q.rq.cache.filter fun e => !(e.index == i) }
    rsp := if counts then { q.rsp with recvSeq := (q.rsp.recvSeq + 1) % 65536 } else q.rsp }

/-- The entry at the consumer index completes if it is poisoned or its message was refused; false where it is neither, or its
completion is not accepted. -/
def pumpRecv1 (qpn : Nat) (s : Dev) : Bool × Dev :=
  match (getQp s qpn).filter fun q => q.st != .error with
  | none => (false, s)
  | some q =>
    let i := q.rq.ring.cons
    match cachedAt q.rq i with
    | none => (false, s)
    | some e =>
      let bad := q.rsp.msgs.find? fun m => m.refused && m.recvIndex == some i
      if recvPoisoned e then
        match deliver q.p.rcqn (plainCompletion qpn true i (tagOf (some e)) stPoisoned 0) false s with
        | (.refused, s) => (false, s)
        | (_, s) => (true, modQp qpn (passRecv false) s)
      else
        match bad with
        | none => (false, s)
        | some m =>
          let c := { plainCompletion qpn true i (weTag e.raw) stLocalAccess 0 with srcEpid := q.p.remEpid }
          match deliver q.p.rcqn c false s with
          | (.refused, s) => (false, s)
          | (_, s) => (true, modRsp qpn (modMsg m.first fun m => { m with recvIndex := none }) (modQp qpn (passRecv true) s))

def pumpRecv (qpn : Nat) : Nat → Dev → Dev
  | 0, s => s
  | n + 1, s =>
    match pumpRecv1 qpn s with
    | (true, s) => pumpRecv qpn n s
    | (false, s) => fetchQueue qpn true s

/-! ## Retirement (R94) -/

/-- The oldest message that is complete, with every PSN below its end placed. A READ_REQ or an atomic is one once it has been
executed. -/
def ripeMsg (s : Dev) (qpn : Nat) (q : Qp) : Option RxMsg :=
  let x := ackPsn s qpn q
  (q.rsp.msgs.filter fun m => !m.refused && m.last.any fun l => seqLt l x).foldl (fun b m =>
    match b with
    | none => some m
    | some o => if seqLt m.first o.first then some m else b) none

/-- What the retirement of a message of an owner opcode does. -/
def ownerRetired (qpn : Nat) (q : Qp) (m : RxMsg) (s : Dev) : Dev :=
  if m.opcode = pkColl then collRetired qpn m.desc m.poisoned s
  else if m.opcode = pkMoe then moeRetired m.desc m.poisoned s
  else if m.opcode = pkStage then
    match q.stream.bind fun n => (tget s.streams n).map fun x => (n, x) with
    | some (n, x) => { s with streams := tset s.streams n { x with nextSeq := x.nextSeq + 1 } }
    | none => s
  else s

/-- The receive completion of a message (Table 2.9, R95, R234, R315). -/
def recvCompletion (qpn : Nat) (q : Qp) (m : RxMsg) (i : U32) (tag : U32) : Completion :=
  let imm := pkImm m.opcode || m.opcode == pkStage
  { plainCompletion qpn true i tag (if m.poisoned then stPoisoned else stOk) m.bytes with
    srcEpid := q.p.remEpid
    imm := if imm then dsImm m.desc else 0
    immValid := imm
    timestamp := if m.stampLost then 0 else m.stamp.getD 0
    tsMissing := m.stampLost
    stampGroup := m.stampGroup }

/-- A message that is ripe retires; false where none is, or its completion is not accepted. -/
def retireMsg1 (qpn : Nat) (s : Dev) : Bool × Dev :=
  match getQp s qpn with
  | none => (false, s)
  | some q =>
    match if q.st == .error then none else ripeMsg s qpn q with
    | none => (false, s)
    | some m =>
      let (took, s) :=
        match m.recvIndex with
        | none => (true, freeStamp m.stampGroup s)
        | some i =>
          if i ≠ q.rq.ring.cons then (false, s)
          else
            match deliver q.p.rcqn (recvCompletion qpn q m i (tagOf (cachedAt q.rq i))) false s with
            | (.refused, s) => (false, s)
            | (_, s) => (true, modQp qpn (passRecv true) s)
      if !took then (false, s)
      else
        let s := modRsp qpn (fun r => { r with msgs := r.msgs.filter fun x => !(x.first == m.first) }) s
        let s := ownerRetired qpn q m s
        (true, fireMessage qpn (msgTag m.opcode m.desc) s)

/-- The moment at which the last packet of the message that retires next was accepted. -/
def ripeAt (qpn : Nat) (s : Dev) : Option Nat := ((getQp s qpn).bind fun q => ripeMsg s qpn q).map (·.accAt)

/-- Messages retire in order. The first part is the moment at which the last packet of the first of them was accepted, if any did. -/
def retireMsgs (qpn : Nat) : Nat → Dev → Option Nat × Dev
  | 0, s => (none, s)
  | n + 1, s =>
    let s := pumpRecv qpn 64 s
    let t := ripeAt qpn s
    match retireMsg1 qpn s with
    | (false, s) => (none, s)
    | (true, s) => (t, (retireMsgs qpn n s).2)

/-- An ACK that the packet accepted at a moment caused (R86, R98). -/
def ackFor (qpn t : Nat) (s : Dev) : Dev := sendAck qpn (modRsp qpn (fun r => { r with ackCause := t }) s)

/-- Messages retire, with an ACK if any did (R98). -/
def retireAll (qpn : Nat) (s : Dev) : Dev :=
  match getQp s qpn with
  | none => s
  | some q =>
    match retireMsgs qpn (q.rsp.msgs.length + 1) s with
    | (none, s) => s
    | (some t, s) => ackFor qpn t s

/-- An ACK caused by the packet accepted now (R98). -/
def ackNow (qpn : Nat) (s : Dev) : Dev := ackFor qpn s.now s

/-- A packet has been accepted, its data placed or under way: messages retire, and the ACK of R98 goes. -/
def afterAccept (qpn : Nat) (areq : Bool) (s : Dev) : Dev :=
  match getQp s qpn with
  | none => s
  | some q =>
    let (k, s) := retireMsgs qpn (q.rsp.msgs.length + 1) s
    match getQp s qpn with
    | none => s
    | some q =>
      if areq || k.isSome || decide (q.p.ackCount ≤ q.rsp.ackPending) then ackNow qpn s else s

/-- The data of a packet that arrived at the fabric time `since` has been placed: its PSN is accepted. -/
def acceptData (qpn link : Nat) (p : Packet) (since : Nat) (yellow : Bool) (s : Dev) : Dev :=
  match getQp s qpn with
  | none => s
  | some q =>
    let psn := phPsn p.hdr
    let first := psn - u32 (phIndex p.hdr)
    let r := countAccepted s.now (phCe p.hdr || yellow) (markAccepted psn 1 (phLast p.hdr) q.rsp)
    let mark := fun (m : RxMsg) => { m with
      bytes := m.bytes + p.payload.length, poisoned := m.poisoned || isPoison p, accAt := s.now
      last := if phLast p.hdr then some psn else m.last }
    let r := modMsg first mark r
    let s := bumpBy 0x04 q.slice p.payload.length (bump 0x03 q.slice (setQp qpn { q with rsp := r } s))
    let whole := (r.msgs.find? fun m => m.first == first).any fun m => m.last.any fun l => allAccepted r first l
    let s := if whole && q.p.rxTs && (pkRecv (phOp p.hdr) || phOp p.hdr == pkStage) then
        let (got, g, s) := captureStamp link s
        let put := fun (m : RxMsg) =>
          { m with stamp := if got then some since else none, stampLost := !got, stampGroup := g }
        modRsp qpn (modMsg first put) s
      else s
    afterAccept qpn (phAreq p.hdr) s

/-! ## Refusals (R95, R107, R108, R117) -/

/-- A request that fails the window check (R108): one WINDOW_ACCESS for its message, and an ACCESS NAK. The event goes to the slice of
the responder's queue pair, as R116 has it; R108 names the slice that owns the window, which step 2 of R116 finds to be another one in
one case only (log 148). -/
def accessRefused (qpn window : Nat) (p : Packet) (s : Dev) : Dev :=
  match getQp s qpn with
  | none => s
  | some q =>
    let first := phPsn p.hdr - u32 (phIndex p.hdr)
    let old := q.rsp.msgs.find? fun m => m.first == first && (m.refused || !pkFetches m.opcode)
    let s := match old with
      | some _ => modRsp qpn (modMsg first fun m => { m with refused := true }) s
      | none => modRsp qpn (fun r =>
          { r with msgs := r.msgs ++ [{ newMsg first (phOp p.hdr) (p.desc.getD 0) none s.now with refused := true }] }) s
    let s := if old.any fun m => m.refused then s
      else sliceEvent q.slice 0x8 2 (bankPipe (pipeOf qpn)) window (q.p.remEpid * 2 ^ 32 + q.p.remQpn) (phPsn p.hdr).toNat s
    sendNak qpn nakAccess 0 (phPsn p.hdr) s

/-- The receive entry's fragments cannot be used (R117): its entry completes with LOCAL_ACCESS in ring order. -/
def localRefused (qpn : Nat) (p : Packet) (s : Dev) : Dev := pumpRecv qpn 64 (accessRefused qpn 0 p s)

/-- A length that the responder does not accept: LENGTH NAK, and ERROR with the receive entry, if one owns the PSN (R95,
R107). -/
def lengthRefused (qpn : Nat) (p : Packet) (recv : Option U32) (s : Dev) : Dev :=
  sendNak qpn nakLength 0 (phPsn p.hdr)
    (enterError qpn 0x0B (some (phPsn p.hdr)) 0 (recv.map fun i => (true, i)) stLength s)

/-! ## Translation at the responder (R116, R126, R140) -/

/-- Untranslated pieces in physical terms, or the first page that misses. -/
def transPieces (s : Dev) (slice : Nat) (acc : BitVec 3) (l : List (Nat × Nat × Nat)) : List (Nat × Nat × Nat) ⊕ (Nat × Nat) :=
  l.foldl (fun r p =>
    match r with
    | .inr m => .inr m
    | .inl done =>
      match translate s slice p.1 p.2.1 p.2.2 acc with
      | .inr page => .inr (p.1, page)
      | .inl q => .inl (done ++ q.map fun x => (p.1, x.1, x.2))) (.inl [])

/-- A page of the pieces has a FAILED record (R136). -/
def anyFailed (s : Dev) (slice : Nat) (l : List (Nat × Nat × Nat)) : Bool :=
  l.any fun p => (pagesOf p.2.1 p.2.2).any fun g => failedAt s slice p.1 g

/-- A responder's lookup of pieces ends without a translation: their space is not the slice's, or a page has a FAILED record. -/
def pageRefused (s : Dev) (slice : Nat) (l : List (Nat × Nat × Nat)) : Bool :=
  (l.any fun x => !spaceBound s slice x.1) || anyFailed s slice l

/-- A packet's page is cached without the permission that it needs: it is answered as one whose walk ended in a fault (R119, R140). -/
def permFault (qpn slice sp page reason : Nat) (acc : BitVec 3) (epid window : Nat) (psn : U32) (s : Dev) : Dev :=
  let s := fault slice sp page reason false acc (.respond qpn epid window) s
  sendNak qpn nakPageWait (pageWaitDelay s slice sp page) psn s

/-- The pieces of a request are looked up: a closed port gives a BUSY NAK of 10 µs (R366), a FAILED record `failed`, a miss a
walk behind which the packet is parked; else `go` has the physical pieces. -/
def lookUp (qpn link : Nat) (p : Packet) (since window : Nat) (acc : BitVec 3) (pieces : List (Nat × Nat × Nat))
    (failed : Dev → Dev) (go : List (Nat × Nat × Nat) → Dev → Dev) (s : Dev) : Dev :=
  match getQp s qpn with
  | none => s
  | some q =>
    if pageRefused s q.slice pieces then failed s
    else if pieces.any fun x => !canWrite s x.1 then nakBusyFor qpn 100 (phPsn p.hdr) s
    else
      match transPieces s q.slice acc pieces with
      | .inr (sp, page) =>
        (match ((heldTrans s q.slice sp page).filter fun _ => !viaAts s q.slice sp).bind fun t => lacksPerm acc t.r t.w with
         | some reason => permFault qpn q.slice sp page reason acc q.p.remEpid window (phPsn p.hdr) s
         | none =>
           parkReq qpn link p (.walk sp page acc window) since
             (startWalk q.slice sp page acc (.respond qpn q.p.remEpid window)) s)
      | .inl l => go l (touchPieces q.slice acc pieces s)

/-- The meter's verdict on a packet that nothing else refuses (R300, R301); `red` is what goes with the refusal of one. -/
def meteredOr (red : Dev → Dev) (qpn : Nat) (p : Packet) (go : Bool → Dev → Dev) (s : Dev) : Dev :=
  match getQp s qpn with
  | none => s
  | some q =>
    let (c, m) := meterPacket s.now (wireLen p) (getSlice s q.slice).meter
    let s := modSlice q.slice (fun x => { x with meter := m }) s
    match c with
    | .green => go false s
    | .yellow => go true (bump 0x0C q.slice s)
    | .red => nakBusyFor qpn (redDelay (wireLen p) m) (phPsn p.hdr) (red (bump 0x0D q.slice s))

/-- A refused packet leaves nothing behind. -/
def metered (qpn : Nat) (p : Packet) (go : Bool → Dev → Dev) (s : Dev) : Dev := meteredOr id qpn p go s

/-! ## Window checks (R115, R116) -/

/-- What the window check of a request finds. -/
inductive WinRes where
  | bad
  | fetch
  | ok (w : Window)
  deriving DecidableEq, Repr

/-- Steps 1 to 6 of R116 for bytes `[off, off + n)`, where `n` is the length of the message for its first packet, if it is known; a live
entry that is not on-die is fetched first. -/
def winCheck (s : Dev) (slice op wkey off n : Nat) : WinRes :=
  match tget s.windows (wkIndex wkey) with
  | none => .bad
  | some w =>
    if !w.v then .bad
    else if !w.cached then .fetch
    else
      match windowOf s slice op wkey off with
      | none => .bad
      | some w => if off + n ≤ w.length then .ok w else .bad

/-- A request's window is checked; `go` runs with the window. -/
def withWindow (qpn link : Nat) (p : Packet) (since op wkey off n : Nat) (go : Window → Dev → Dev) (s : Dev) : Dev :=
  match getQp s qpn with
  | none => s
  | some q =>
    match winCheck s q.slice op wkey off n with
    | .bad => accessRefused qpn (wkIndex wkey) p s
    | .fetch => parkReq qpn link p (.window (wkIndex wkey)) since id s
    | .ok w => go w s

/-! ## Placing data -/

/-- Payload of the packet `op` written to physical pieces, each held until it is ordered at its port (R92, R142, R398). -/
def writeOut (op qpn : Nat) (slice : Nat) (window : Option Nat) (psn : U32) (owner : Option (Bool × U32)) (bad : Bool) :
    List (Nat × Nat × Nat) → List Byte → Dev → Dev
  | [], _, s => s
  | (sp, a, n) :: r, bs, s =>
    let (t, s) := addHolder op slice window .qp qpn s
    writeOut op qpn slice window psn owner bad r (bs.drop n)
      (storeFor (some t) sp a (bs.take n) bad false slice (some qpn) (some psn) owner s)

/-- POISON_LANDED for a poisoned WRITE or TRANSFORM_DATA (R400, Table 11.8). -/
def poisonLanded (qpn slice window off n : Nat) (s : Dev) : Dev :=
  sliceEvent slice 0x9 2 (bankPipe (pipeOf qpn)) window off n s

/-- Bytes that the window check covers: the first packet's message where its length is known (R116 step 4), else the packet's own. -/
def checkedLen (p : Packet) (m : RxMsg) (f : Nat → Nat) : Nat :=
  let n := f p.payload.length
  if phIndex p.hdr = 0 then Nat.max n ((m.len.map f).getD 0) else n

/-- Plain data of a message into its window. -/
def placeWindow (qpn link : Nat) (q : Qp) (p : Packet) (since op wkey off : Nat) (m : RxMsg) (s : Dev) : Dev :=
  let at_ := off + phIndex p.hdr * mtuOf q
  let n := p.payload.length
  withWindow qpn link p since op wkey at_ (checkedLen p m id) (fun w s =>
    lookUp qpn link p since (wkIndex wkey) accWrite (if n = 0 then [] else [(w.space, w.base + at_, n)])
      (accessRefused qpn (wkIndex wkey) p)
      (fun l s => metered qpn p (fun yellow s =>
        let s := writeOut s.freeCtr qpn q.slice (some (wkIndex wkey)) (phPsn p.hdr) none (isPoison p) l p.payload s
        let s := if isPoison p && (op == pkWrite || op == pkTransform) then poisonLanded qpn q.slice (wkIndex wkey) at_ n s else s
        acceptData qpn link p since yellow s) s) s) s

/-! ## Receive entries (R95) -/

/-- How many entries that did not read as poisoned a message's receive entry lies after the consumer index. -/
def recvAhead (q : Qp) (m : RxMsg) : Nat := (dsRecvSeq m.desc + 65536 - q.rsp.recvSeq) % 65536

/-- The receive entry of a message: the one it holds, or the k-th that did not read as poisoned. -/
def recvEntry (q : Qp) (m : RxMsg) : Option CachedEntry :=
  match m.recvIndex with
  | some i => cachedAt q.rq i
  | none => (q.rq.cache.filter fun e => !recvPoisoned e)[recvAhead q m]?

/-- Unstarted entries that the cache may hold while the entry of a message is read at once (R49, R95). -/
def recvNeeds (q : Qp) (m : RxMsg) : Nat :=
  Nat.max 8 ((unstartedIn q true).length + (recvAhead q m + 1 - (q.rq.cache.countP fun e => !recvPoisoned e)))

/-- A message that consumes a receive entry has one: `go` runs with it. A stalled completion queue, for a message that has taken no
entry yet, and an entry that is not posted give BUSY NAKs; a malformed entry stops the slice (R54, R66, R95). -/
def withRecv (qpn : Nat) (p : Packet) (m : RxMsg) (go : CachedEntry → Dev → Dev) (s : Dev) : Dev :=
  match getQp s qpn with
  | none => s
  | some q =>
    if m.recvIndex.isNone && cqStalled s q.p.rcqn then nakBusyFor qpn 100 (phPsn p.hdr) s
    else
      match recvEntry q m with
      | none => fetchUpTo (recvNeeds q m) qpn true (nakBusyFor qpn 10 (phPsn p.hdr) s)
      | some e =>
        match structCode e true with
        | some (code, frag) => nakBusyFor qpn 100 (phPsn p.hdr) (faultStop qpn true e.index code frag s)
        | none => go e (modRsp qpn (modMsg m.first fun m => { m with recvIndex := some e.index }) s)

/-- SEND data into the fragments of its receive entry (R95, R117). -/
def placeSend (qpn link : Nat) (q : Qp) (p : Packet) (since : Nat) (m : RxMsg) (s : Dev) : Dev :=
  if m.refused then sendNak qpn nakAccess 0 (phPsn p.hdr) s
  else withRecv qpn p m (fun e s =>
    let off := phIndex p.hdr * mtuOf q
    let n := p.payload.length
    let pieces := subPieces (entryPieces e) off n
    if weLen e.raw < off + n then lengthRefused qpn p (some e.index) s
    else if pieces.any fun x => decide (2 ^ 48 < x.2.1 + x.2.2) then localRefused qpn p s
    else
      lookUp qpn link p since 0 accWrite pieces (localRefused qpn p) (fun l s => metered qpn p (fun yellow s =>
        acceptData qpn link p since yellow (writeOut s.freeCtr qpn q.slice none (phPsn p.hdr) (some (true, e.index)) (isPoison p) l p.payload s)) s) s) s

/-! ## Owner opcodes -/

/-- A responder item over a packet: it needs its program's granularity, the item quota and the window (R158, R190, R191), looked at in
this order, since the manual gives none (log 170). From its window check on it holds the window (R114). Its engine translates the
output, and the packet is metered and its PSN accepted then (R127, R140, R300); `at_` is the offset of the output in the window. -/
def placeItem (qpn link : Nat) (q : Qp) (p : Packet) (since op wkey at_ slot : Nat) (m : RxMsg) (arg : U32) (gran : Nat)
    (weight : Option U32) (s : Dev) : Dev :=
  match findProg s q.slice slot with
  | none => accessRefused qpn (wkIndex wkey) p s
  | some g =>
    if p.payload.length % Nat.max 1 g.inGran ≠ 0 then lengthRefused qpn p none s
    else if itemsFull s q.slice then nakBusyFor qpn 5 (phPsn p.hdr) s
    else
      let n := outBytes g p.payload.length
      withWindow qpn link p since op wkey at_ (checkedLen p m (outBytes g)) (fun w s =>
        let out := if n = 0 then [] else [(w.space, w.base + at_, n)]
        if pageRefused s q.slice out then accessRefused qpn (wkIndex wkey) p s
        else if !canWrite s w.space then nakBusyFor qpn 100 (phPsn p.hdr) s
        else
          let (t, s) := addHolder s.freeCtr q.slice (some (wkIndex wkey)) .qp qpn s
          addItem { newItem q.slice qpn (phPsn p.hdr) g arg gran (.target qpn (phPsn p.hdr) op wkey at_) with
            slot := some slot, weight := weight, input := p.payload, len := p.payload.length, poisoned := isPoison p
            out := out, token := some t, arr := some ⟨link, p, since⟩ } s) s

/-- First granule of a TRANSFORM_DATA packet within its message, and the offset of its output (R190). -/
def transformAt (q : Qp) (d : BitVec 128) (index : Nat) (g : Program) : Nat × Nat :=
  let k := index * mtuOf q / Nat.max 1 g.inGran
  (k, dsOff d + k * g.outGran)

/-- TRANSFORM_DATA (R190). -/
def placeTransform (qpn link : Nat) (q : Qp) (p : Packet) (since : Nat) (m : RxMsg) (s : Dev) : Dev :=
  let x := ((findProg s q.slice (tdSlot m.desc)).map (transformAt q m.desc (phIndex p.hdr))).getD (0, 0)
  placeItem qpn link q p since pkTransform (dsWkey m.desc) x.2 (tdSlot m.desc) m (tdArg m.desc) x.1 none s

/-- The collective of a COLL_DATA message (R208). -/
inductive Admit where
  | yes
  | later
  | refuse
  deriving DecidableEq, Repr

/-- R208: `seq` against the current ordinal `cur`, where `ready` says that ordinal `cur` is current. An ordinal less than half the modulus
ahead is a later one (log 173). -/
def admits (seq cur : Nat) (ready : Bool) : Admit :=
  if seq = cur then (if ready then .yes else .later) else if (seq + 4096 - cur) % 4096 < 2048 then .later else .refuse

def collAdmit (s : Dev) (slice : Nat) (d : BitVec 128) : Admit :=
  match tget s.groups (cdGroup d) with
  | none => .refuse
  | some g =>
    if g.slice ≠ slice then .refuse
    else
      match g.run with
      | none => admits (cdSeq d) g.opSeq false
      | some r =>
        match admits (cdSeq d) g.opSeq (inPlaceNow s r) with
        | .yes => if r.op = cdOp d then .yes else .refuse
        | x => x

/-- Element size of accumulate-in-place (R212). -/
def accBytes (g : Group) : Nat := if g.p.accFmt = 0 then 4 else 2

/-- A reducing COLL_DATA packet is accumulated in place (R212): every piece is queued at its stack. One to a window of another space
than 0x1 is refused under R108. Its lookup sets the atomic bit of a Crumb's ACCESS: the manual names no bit for an accumulate (log
149). -/
def placeAccum (qpn link : Nat) (q : Qp) (g : Group) (p : Packet) (since wkey at_ : Nat) (m : RxMsg) (s : Dev) : Dev :=
  let n := p.payload.length
  if n % accBytes g ≠ 0 ∨ at_ % accBytes g ≠ 0 then lengthRefused qpn p none s
  else
    withWindow qpn link p since pkColl wkey at_ (checkedLen p m id) (fun w s =>
      if w.space ≠ 1 then accessRefused qpn (wkIndex wkey) p s
      else lookUp qpn link p since (wkIndex wkey) accAtomic (if n = 0 then [] else [(w.space, w.base + at_, n)])
        (accessRefused qpn (wkIndex wkey) p)
        (fun l s => metered qpn p (fun yellow s =>
          let op := s.freeCtr
          let (_, s) := l.foldl (fun (acc : List Byte × Dev) x =>
            let (t, s) := addHolder op q.slice (some (wkIndex wkey)) .qp qpn acc.2
            (acc.1.drop x.2.2, { s with accums := s.accums ++
              [⟨qpn, phPsn p.hdr, x.2.1, decide (g.p.accFmt = 0), acc.1.take x.2.2, isPoison p, t⟩] })) (p.payload, s)
          acceptData qpn link p since yellow s) s) s) s

/-- COLL_DATA (R206, R208, R212, R216). A REDUCE message that the receiver's mode does not reduce is refused (R217). -/
def placeColl (qpn link : Nat) (q : Qp) (p : Packet) (since : Nat) (m : RxMsg) (s : Dev) : Dev :=
  let wkey := dsWkey m.desc
  let at_ := dsOff m.desc + phIndex p.hdr * mtuOf q
  match collAdmit s q.slice m.desc with
  | .later => nakBusyFor qpn 10 (phPsn p.hdr) s
  | .refuse => accessRefused qpn (wkIndex wkey) p s
  | .yes =>
    match cdReduce m.desc, tget s.groups (cdGroup m.desc) with
    | true, some g =>
      if (getSlice s q.slice).redHa then accessRefused qpn (wkIndex wkey) p s
      else if g.p.path = 0 then placeAccum qpn link q g p since wkey at_ m s
      else
        let gran := ((findProg s q.slice g.p.redSlot).map fun r => phIndex p.hdr * mtuOf q / Nat.max 1 r.inGran).getD 0
        placeItem qpn link q p since pkColl wkey at_ g.p.redSlot m 0 gran none s
    | _, _ => placeWindow qpn link q p since pkColl wkey (dsOff m.desc) m s

/-- STAGE_DATA (R233, R234): it needs the queue pair's RECEIVER stream, a slot, and a receive entry. -/
def placeStage (qpn link : Nat) (q : Qp) (p : Packet) (since : Nat) (m : RxMsg) (s : Dev) : Dev :=
  match q.stream.bind fun n => tget s.streams n with
  | none => accessRefused qpn (wkIndex (dsWkey m.desc)) p s
  | some x =>
    if x.sender ∨ x.p.slots ≤ dist (dsImm m.desc) x.nextSeq then accessRefused qpn (wkIndex (dsWkey m.desc)) p s
    else withRecv qpn p m (fun _ s => placeWindow qpn link q p since pkStage (dsWkey m.desc) (dsOff m.desc) m s) s

/-- The phase and OP_SEQ of a MOE_DATA message against the binding (R222, R223). Its ordinal is 2 × OP_SEQ + PHASE. -/
def moeAdmit (s : Dev) (slice : Nat) (d : BitVec 128) : Admit :=
  match (tget s.groups (mdGroup d)).bind fun g => if g.slice = slice then g.moe else none with
  | none => .refuse
  | some m =>
    let cur := 2 * m.seq + b2n m.combining
    let seq := 2 * mdSeq d + b2n (mdCombine d)
    if seq = cur then (if m.run.isSome then .yes else .later)
    else if (seq + 8192 - cur) % 8192 < 4096 then .later else .refuse

/-- A dispatch row lands, or overflows (R225). -/
def placeRow (qpn link : Nat) (q : Qp) (p : Packet) (since : Nat) (gid : Nat) (g : Group) (mo : MoeState) (m : RxMsg) (s : Dev) : Dev :=
  let wkey := mbWkey (memberAt g g.p.rank 0)
  let rank := ((peerOf g qpn).map (·.1)).getD 0
  let x := mdLocal m.desc
  if mo.p.localExperts ≤ x ∨ p.payload.length ≠ mo.p.rowBytes then accessRefused qpn (wkIndex wkey) p s
  else
    match nextRow mo x with
    | none => metered qpn p (fun yellow s => acceptData qpn link p since yellow (modMoe gid overflowRow s)) s
    | some j =>
      let off := rowOffset mo.p x j
      let tkt := ticketOffset mo.p x j
      withWindow qpn link p since pkMoe wkey off mo.p.rowBytes (fun w s =>
        withWindow qpn link p since pkMoe wkey tkt 16 (fun _ s =>
          lookUp qpn link p since (wkIndex wkey) accWrite [(w.space, w.base + off, mo.p.rowBytes), (w.space, w.base + tkt, 16)]
            (accessRefused qpn (wkIndex wkey) p)
            (fun l s => metered qpn p (fun yellow s =>
              let t : MoeTicket := ⟨x, j, rank, mdKslot m.desc, mdToken m.desc, mdWeight m.desc⟩
              let s := modMoe gid (takeRow t) s
              let row := subPieces l 0 mo.p.rowBytes
              let rest := subPieces l mo.p.rowBytes 16
              let op := s.freeCtr
              let s := writeOut op qpn q.slice (some (wkIndex wkey)) (phPsn p.hdr) none (isPoison p) row p.payload s
              let s := writeOut op qpn q.slice (some (wkIndex wkey)) (phPsn p.hdr) none false rest (encTicket t) s
              acceptData qpn link p since yellow s) s) s) s) s

/-- MOE_DATA (R223 to R227). -/
def placeMoe (qpn link : Nat) (q : Qp) (p : Packet) (since : Nat) (m : RxMsg) (s : Dev) : Dev :=
  let gid := mdGroup m.desc
  match moeAdmit s q.slice m.desc, tget s.groups gid with
  | .later, _ => nakBusyFor qpn 10 (phPsn p.hdr) s
  | .yes, some g =>
    (match g.moe with
     | none => s
     | some mo =>
       let wkey := mbWkey (memberAt g g.p.rank 0)
       if mdTally m.desc then metered qpn p (fun yellow s => acceptData qpn link p since yellow s) s
       else if !mdCombine m.desc then placeRow qpn link q p since gid g mo m s
       else if p.payload.length ≠ mo.p.outRowBytes then accessRefused qpn (wkIndex wkey) p s
       else
         let prog := findProg s q.slice mo.p.combSlot
         placeItem qpn link q p since pkMoe wkey (mo.p.outOffset + mdToken m.desc * mo.p.outRowBytes) mo.p.combSlot m
           (u32 ((prog.map fun x => x.auxBytes).getD 0)) 0 (some (u32 (mdWeight m.desc))) s)
  | _, _ => accessRefused qpn 0 p s

/-- A data packet whose message's descriptor is here is placed by its opcode (R92). -/
def placeData (qpn link : Nat) (p : Packet) (since : Nat) (s : Dev) : Dev :=
  match getQp s qpn with
  | none => s
  | some q =>
    match findMsg q (phPsn p.hdr - u32 (phIndex p.hdr)) with
    | none => s
    | some m =>
      let op := m.opcode
      if op = pkSend ∨ op = pkSendImm then placeSend qpn link q p since m s
      else if op = pkWriteImm then
        withRecv qpn p m (fun _ s => placeWindow qpn link q p since op (dsWkey m.desc) (dsOff m.desc) m s) s
      else if op = pkTransform then placeTransform qpn link q p since m s
      else if op = pkColl then placeColl qpn link q p since m s
      else if op = pkStage then placeStage qpn link q p since m s
      else if op = pkMoe then placeMoe qpn link q p since m s
      else placeWindow qpn link q p since op (dsWkey m.desc) (dsOff m.desc) m s

/-! ## READ_REQ and atomics (R92, R100, R101, R127, R361) -/

/-- PSNs of a READ_REQ of `len` bytes (R88). -/
def readSpan (q : Qp) (len : Nat) : Nat := Nat.max 1 (ceilDiv len (mtuOf q))

/-- A READ_REQ or an atomic that can be executed: its descriptor stands in its packet of PKT_INDEX 0 (R82). -/
def isFetch (p : Packet) : Bool := pkFetches (phOp p.hdr) && decide (phIndex p.hdr = 0)

/-- PSNs that a request takes. -/
def reqSpan (q : Qp) (p : Packet) : Nat := if phOp p.hdr = pkReadReq ∧ phIndex p.hdr = 0 then readSpan q (dsLen (p.desc.getD 0)) else 1

/-- A response packet of the queue pair. One that has no route waits for one; one without a key is not sent, and the requester asks
again. -/
def respond (qpn op : Nat) (psn : U32) (index : Nat) (last : Bool) (bytes : List Byte) (bad : Bool) (s : Dev) : Dev :=
  (sendRsp qpn ⟨op, psn, index, last, bytes, bad, none, 0⟩ s).2

/-- One READ_RESP of the request `op`: its bytes come from the stacks at once, or by reads at the port, which share a tag. -/
def readResp (op qpn : Nat) (q : Qp) (p : Packet) (n : Nat) (l : List (Nat × Nat × Nat)) (window k : Nat) (s : Dev) : Dev :=
  let mine := subPieces l (k * mtuOf q) (mtuOf q)
  let psn := phPsn p.hdr + u32 k
  match mine with
  | [] => respond qpn pkReadResp psn k (decide (k + 1 = n)) [] false s
  | (sp, _, _) :: _ =>
    match portOfSpace sp with
    | none =>
      let (bs, bad) := readPieces s (mine.map fun x => (x.2.1, x.2.2))
      respond qpn pkReadResp psn k (decide (k + 1 = n)) bs bad s
    | some port =>
      let (t, s) := addHolder op q.slice (some window) .qp qpn s
      portRead port 0 sp q.slice (mine.map fun x => (x.2.1, x.2.2)) (.respRead qpn p k) (some qpn) [t] [] false s

/-- The request has been executed: its PSNs are accepted, and its message retires in its turn (R94). -/
def acceptExec (qpn : Nat) (p : Packet) (span : Nat) (yellow : Bool) (s : Dev) : Dev :=
  match getQp s qpn with
  | none => s
  | some q =>
    let psn := phPsn p.hdr
    if acceptedPsn q.rsp psn then s
    else
      let r := countAccepted s.now (phCe p.hdr || yellow) (markAccepted psn span true q.rsp)
      let m := { newMsg psn (phOp p.hdr) (p.desc.getD 0) none s.now with last := some (psn + u32 (span - 1)) }
      let r := { r with msgs := r.msgs ++ [m] }
      let s := bumpBy 0x04 q.slice p.payload.length (bump 0x03 q.slice (setQp qpn { q with rsp := r } s))
      afterAccept qpn (phAreq p.hdr) s

/-- The PSN and original value of an executed atomic enter the result cache (R101). -/
def keepResult (psn : U32) (v : U64) (bad : Bool) (r : Responder) : Responder :=
  let l := r.cache ++ [(psn, v, bad)]
  { r with cache := l.drop (l.length - 16) }

/-- The value of an atomic's target after it; none where a compare failed. -/
def atomicResult (op : Nat) (payload : List Byte) (old : Nat) : Option Nat :=
  let a := leNat (payload.take 8)
  if op = pkFetchAdd then some ((old + a) % 2 ^ 64)
  else if old = a then some (leNat ((payload.drop 8).take 8)) else none

/-- An atomic on a Millefeuille target (Table 11.8: a poisoned target stays unchanged). -/
def atomicHere (qpn : Nat) (p : Packet) (a : Nat) (s : Dev) : Dev :=
  let d := smemRead s a 8
  let old := leNat d.bytes
  let s := match d.poisoned, atomicResult (phOp p.hdr) p.payload old with
    | false, some v => smemWrite a (natLe v 8) (isPoison p) s
    | _, _ => s
  let s := modRsp qpn (keepResult (phPsn p.hdr) (BitVec.ofNat 64 old) d.poisoned) s
  respond qpn pkAtomicResp (phPsn p.hdr) 0 true (natLe old 8) d.poisoned s

/-- An atomic at a host or accelerator port: a PCIe AtomicOp, or FADD or CAS, with its operand and, where the payload is poisoned, EP
(R361, R373, R398). -/
def atomicThere (qpn : Nat) (q : Qp) (p : Packet) (port sp a window : Nat) (s : Dev) : Dev :=
  let (t, s) := addHolder s.freeCtr q.slice (some window) .qp qpn s
  portRead port (if phOp p.hdr = pkFetchAdd then 1 else 2) sp q.slice [(a, 8)] (.respAtomic qpn p) (some qpn) [t]
    (if phOp p.hdr = pkFetchAdd then p.payload.take 8 else p.payload.take 16) (isPoison p) s

/-- A READ_REQ or an atomic is executed, for the first time or again. -/
def execute (qpn link : Nat) (p : Packet) (since : Nat) (s : Dev) : Dev :=
  match getQp s qpn with
  | none => s
  | some q =>
    let op := phOp p.hdr
    let d := p.desc.getD 0
    let len := if op = pkReadReq then dsLen d else 8
    let dup := acceptedPsn q.rsp (phPsn p.hdr)
    withWindow qpn link p since op (dsWkey d) (dsOff d) len (fun w s =>
      if pkAtomic op && !atomicsOn s w.space then accessRefused qpn (wkIndex (dsWkey d)) p s
      else
        lookUp qpn link p since (wkIndex (dsWkey d)) (if op = pkReadReq then accRead else accAtomic)
          (if len = 0 then [] else [(w.space, w.base + dsOff d, len)]) (accessRefused qpn (wkIndex (dsWkey d)) p)
          (fun l s =>
            let go := fun (yellow : Bool) (s : Dev) =>
              if op = pkReadReq then
                let n := readSpan q len
                let s := (List.range n).foldl (fun t k => readResp s.freeCtr qpn q p n l (wkIndex (dsWkey d)) k t) s
                acceptExec qpn p n yellow s
              else
                match l with
                | (sp, a, _) :: _ =>
                  let s := match portOfSpace sp with
                    | none => atomicHere qpn p a s
                    | some port => atomicThere qpn q p port sp a (wkIndex (dsWkey d)) s
                  acceptExec qpn p 1 yellow s
                | [] => s
            if dup then go false s else metered qpn p go s) s) s

/-- The deferred request whose turn has come (R92): it stands at ePSN, and all data below it is placed. -/
def runDeferred1 (qpn link : Nat) (s : Dev) : Bool × Dev :=
  match getQp s qpn with
  | none => (false, s)
  | some q =>
    match q.rsp.deferred.find? fun p => phPsn p.hdr == q.rsp.epsn with
    | none => (false, s)
    | some p =>
      if ackPsn s qpn q ≠ q.rsp.epsn || quiet s q || !sliceLive s q.slice then (false, s)
      else
        let s := modRsp qpn (fun r => { r with deferred := r.deferred.filter fun x => !(x == p) }) s
        (true, execute qpn link p (timeNs s) s)

def runDeferred (qpn link : Nat) : Nat → Dev → Dev
  | 0, s => s
  | n + 1, s =>
    match runDeferred1 qpn link s with
    | (true, s) => runDeferred qpn link n s
    | (false, s) => s

/-- Every deferred request of a queue pair whose turn has come runs. -/
def runDeferreds (qpn : Nat) (s : Dev) : Dev :=
  runDeferred qpn loopLink (((getQp s qpn).map fun q => q.rsp.deferred.length).getD 0) s

/-- A duplicate request (R98, R100, R101). -/
def rxDuplicate (qpn link : Nat) (q : Qp) (p : Packet) (since : Nat) (s : Dev) : Dev :=
  let op := phOp p.hdr
  if phIndex p.hdr ≠ 0 then ackNow qpn s
  else if op = pkReadReq then
    if keyStopped s q then nakBusyFor qpn 100 (phPsn p.hdr) s else execute qpn link p since (ackNow qpn s)
  else if pkAtomic op then
    if keyStopped s q then nakBusyFor qpn 100 (phPsn p.hdr) s
    else if inFlight s qpn q (phPsn p.hdr) then ackNow qpn s
    else
      match q.rsp.cache.find? fun c => c.1 == phPsn p.hdr with
      | some c => respond qpn pkAtomicResp (phPsn p.hdr) 0 true (natLe c.2.1.toNat 8) c.2.2 (ackNow qpn s)
      | none => sendNak qpn nakSeq 0 (phPsn p.hdr) s
  else ackNow qpn s

/-! ## The packet as it arrives -/

/-- The parked packets that waited for the descriptor of a message are placed, in order of arrival. -/
def placeWaiting (qpn : Nat) (first : U32) (s : Dev) : Dev :=
  let mine := fun (x : Parked) => x.qpn == qpn && x.why == .descriptor && phPsn x.p.hdr - u32 (phIndex x.p.hdr) == first
  let l := (parkedIn s (pipeOf qpn)).filter mine
  l.foldl (fun s x => placeData qpn x.link x.p x.since s) (dropParked mine s)

/-- Length of a message whose LAST packet is parked and waits for its descriptor. -/
def parkedLen (s : Dev) (qpn : Nat) (q : Qp) (first : U32) : Option Nat :=
  ((parkedIn s (pipeOf qpn)).find? fun x => x.qpn == qpn && x.why == .descriptor && phLast x.p.hdr
    && phPsn x.p.hdr - u32 (phIndex x.p.hdr) == first).map fun x => phIndex x.p.hdr * mtuOf q + x.p.payload.length

/-- A request that has passed every check of its header (R90, R93). A READ_REQ that needs more than 64 PSNs, which R88 lets no sender
send, is answered with a SEQ NAK (log 150). -/
def rxClassify (qpn link : Nat) (p : Packet) (since : Nat) (s : Dev) : Dev :=
  match getQp s qpn with
  | none => s
  | some q =>
    let psn := phPsn p.hdr
    let d := dist psn q.rsp.epsn
    let n := reqSpan q p
    if acceptedPsn q.rsp psn then rxDuplicate qpn link q p since s
    else if isFetch p && keyStopped s q then nakBusyFor qpn 100 psn s
    else if inFlight s qpn q psn then s
    else if 512 < d + n ∨ 64 < n then sendNak qpn nakSeq 0 psn s
    else if isFetch p then modRsp qpn (fun r => { r with deferred := r.deferred ++ [p] }) s
    else
      let first := psn - u32 (phIndex p.hdr)
      match findMsg q first, p.desc with
      | none, some d =>
        if phIndex p.hdr = 0 then
          let s := modRsp qpn (fun r => { r with msgs := r.msgs ++ [newMsg first (phOp p.hdr) d (parkedLen s qpn q first) s.now] }) s
          placeData qpn link p since (placeWaiting qpn first s)
        else parkReq qpn link p .descriptor since id s
      | none, none => parkReq qpn link p .descriptor since id s
      | some _, _ => placeData qpn link p since s

/-- The queue pair drops inbound requests and counts them (Table 3.1, R338). -/
def dropsRequests (s : Dev) (q : Qp) : Bool := sliceGoing s q.slice || q.st == .reset || q.st == .error

/-- A request of a queue pair whose context is on-die; the Glaze of a READ_REQ, which writes nothing, comes before any answer (Table 3.1, R55, R91, R365, R397, R411, R445). -/
def rxOnDie (qpn link : Nat) (p : Packet) (since : Nat) (s : Dev) : Dev :=
  match getQp s qpn with
  | none => s
  | some q =>
    if dropsRequests s q then bump 0x0A q.slice s
    else
    match authentic qpn q p s with
    | (none, s) => s
    | (some p, s) =>
      let busy := fun (d : Nat) => nakBusyFor qpn d (phPsn p.hdr) s
      if phOp p.hdr = pkReadReq ∧ glazeOf p = .bad then bump 0x15 q.slice s
      else if (getSlice s q.slice).st = .faultStop ∨ q.held.isSome = true ∨ q.frozen.isSome = true then busy 100
      else if q.st = .init then busy 0
      else if phGen p.hdr ≠ q.gen then sendNak qpn nakStale 0 (phPsn p.hdr) s
      else if glazeOf p = .bad then bump 0x15 q.slice s
      else runDeferreds qpn (rxClassify qpn link p since (cacheContext qpn s))

/-- A request of a queue pair that holds its DQPN: dropped in a state that answers nothing, parked behind a context fetch, or
looked at (R70, R78, R338). -/
def rxKnown (qpn link : Nat) (q : Qp) (p : Packet) (s : Dev) : Dev :=
  if dropsRequests s q then bump 0x0A q.slice s
  else if !q.cached || ((parkedIn s (pipeOf qpn)).any fun x => x.qpn == qpn && x.why == .context) then
    parkReq qpn link p .context (timeNs s) id (if q.cached then s else bump 0x1B (pipeOf qpn) s)
  else rxOnDie qpn link p (timeNs s) s

/-- Responses, ACKs and NAKs of a pipeline's queue pairs that wait to leave: its endpoint response queue (R261). -/
def respQueued (s : Dev) (pipe : Nat) : Nat :=
  let mine := fun (e : EgressPkt) => e.slice.isSome && pkIsResp (phOp e.p.hdr) && pipeOf e.qpn == pipe
  s.ports.foldl (fun n p => n + p.2.queue.countP mine) 0 + (s.escWaiting.countP fun w => mine w.e)
    + s.qps.foldl (fun n q => if pipeOf q.1 = pipe then n + q.2.rsp.unsent.length else n) 0

/-- The pipeline's response queue has no place, of those that the adapter gives it (log 156). -/
def respFull (s : Dev) (pipe : Nat) : Bool := decide (Config.respQueue + 1 ≤ respQueued s pipe)

/-- A packet is addressed to this adapter (R266, R536). -/
def forUs (s : Dev) (p : Packet) : Bool := phDst p.hdr == s.routing.selfEpid

/-- A request packet for this adapter arrives on a link. -/
def rxRequest (link : Nat) (p : Packet) (s : Dev) : Dev :=
  if !dataOn s || !forUs s p || pkIsResp (phOp p.hdr) then s
  else if reqMalformed p then bump 0x22 link s
  else
    match getQp s (phDqpn p.hdr) with
    | none => bump 0x22 link s
    | some q =>
      if respFull s (pipeOf (phDqpn p.hdr)) then bump 0x1D (pipeOf (phDqpn p.hdr)) s
      else rxKnown (phDqpn p.hdr) link q p s

/-- RX_REQUEST_PACKET. -/
def execRxRequestPacket (link : Nat) (p : Packet) (s : State) : Res := runRetire (rxRequest link p) s

/-! ## ACK_TIMER_EXPIRY (R98) -/

/-- ACK_TIMER runs from the first packet accepted after the previous ACK. -/
def ackTimerDue (q : Qp) : Option Nat := q.rsp.ackFirstAt.map fun t => t + q.p.ackTimer

/-- The timer has run out: the ACK's delay counts from that first packet. -/
def ackTimerEffect (qpn : Nat) (s : Dev) : Dev :=
  match getQp s qpn with
  | none => s
  | some q =>
    atExpiry (ackTimerDue q) (fun s =>
      sendAck qpn (modRsp qpn (fun r => { r with ackCause := q.rsp.ackFirstAt.getD s.now }) s)) s

/-- ACK_TIMER_EXPIRY. -/
def execAckTimerExpiry (qpn : Nat) (s : State) : Res := runLevels (ackTimerEffect qpn) s

/-- Data of a queue pair's requests has been ordered at its target: messages retire, and requests that waited on it run. -/
def dataPlaced (qpn : Nat) (s : Dev) : Dev := runDeferreds qpn (retireAll qpn s)

end Sys2Proof.Machine
end

