-- ==== Sys2Proof/Machine/Requester.lean ====
section
/-!
DEFINITION. Sys2Proof/Machine/Requester.lean: what arrives for a requester and its timers: RX_ACK, RX_NAK, RX_RESPONSE,
RTO_EXPIRY, NAK_DELAY_EXPIRY, BUSY_LIMIT_EXPIRY, PAGE_WAIT_LIMIT_EXPIRY, CQ_STALL_TIMEOUT, KEY_WAIT_EXPIRY,
PREV_GRACE_EXPIRY and FEEDBACK_INTERVAL_END (R68, R87, R97, R98, R102 to R107, R139, R141, R292, R293, R298, R441, R442,
R446).
-/
namespace Sys2Proof.Machine

/-! ## Clocks (R55, R365, R411, R442) -/

/-- The clocks of the queue pair run: its slice is not in fault-stop, it is neither held nor frozen, and its transmit slot is
not stopped. -/
def clocksRun (s : Dev) (q : Qp) : Bool := sliceLive s q.slice && !quiet s q

/-- The clocks stood still for `d` ns. -/
def shiftClocks (d : Nat) (q : Qp) : Qp :=
  { q with rqr := { q.rqr with
    rtoDue := q.rqr.rtoDue.map (· + d), busySince := q.rqr.busySince.map (· + d), waitDue := q.rqr.waitDue.map (· + d) } }

/-- The timer starts again where the clocks run. -/
def rearm (s : Dev) (q : Qp) : Qp := if clocksRun s q then restartTimer s.now q else q

/-! ## Structural faults of response-class packets (R87) -/

/-- The opcode allows the payload length. -/
def respPayOk (op n : Nat) (enc : Bool) : Bool :=
  if op = pkAck then decide (n = 16)
  else if op = pkNak then decide (n = 8)
  else if op = pkAtomicResp then decide (n = 8)
  else enc || decide (n ≤ 8192)

/-- A fault of R87 in a response-class packet, but for a DQPN that no queue pair holds. -/
def respMalformed (p : Packet) : Bool :=
  let op := phOp p.hdr
  !pkIsResp op || decide (phVer p.hdr ≠ 1) || decide (phRsvd p.hdr ≠ 0) || decide (phPay p.hdr ≠ p.payload.length)
    || !respPayOk op p.payload.length (phEnc p.hdr)
    || (op == pkAck && decide (ackRsvd p.payload ≠ 0))
    || (op == pkNak && (decide (nakRsvd p.payload ≠ 0) || decide (nakCode p.payload = 0) || decide (6 < nakCode p.payload)))

/-- A response-class packet with a descriptor has another payload than was sent (R82). -/
def respGlaze (p : Packet) : GlazeState := if p.desc.isSome then .bad else glazeOf p

/-! ## The congestion engine (R292, R293) -/

/-- An ACK covers a PSN, through its PSN or its SACK_MAP. -/
def ackCovers (x : U32) (sack : U64) (psn : U32) : Bool :=
  seqLt psn x || (decide (dist psn (x + 1) < 64) && sack.getLsbD (dist psn (x + 1)))

/-- The delay sample that an ACK ends, in ns (R292). -/
def sampleRtt (x : U32) (sack : U64) (arrival delay : Nat) (q : Qp) : Option Nat :=
  match q.cc.sample with
  | none => none
  | some (psn, t) =>
    if ackCovers x sack psn then some ((Int.ofNat arrival - Int.ofNat t - Int.ofNat delay).emod (2 ^ 32)).toNat else none

/-- srtt after a sample: signed division rounds toward zero. -/
def nextSrtt (srtt rtt : Nat) : Nat := (Int.ofNat srtt + Int.tdiv (Int.ofNat rtt - Int.ofNat srtt) 8).toNat

/-- The sample ends. -/
def ccSample (rtt : Nat) (c : CcState) : CcState := { c with srtt := nextSrtt c.srtt rtt, lastRtt := rtt, sample := none }

/-- The window growth of a mark-free ACK under TARGET. -/
def ccGrow (p : CcProfile) (ce bytes : Nat) (c : CcState) : CcState :=
  if c.lastRtt ≤ p.target ∧ ce = 0 then { c with w := c.w + p.ai * bytes / Nat.max 1 c.w } else c

/-- The cut at the end of an epoch. -/
def ccEpoch (p : CcProfile) (next : U32) (c : CcState) : CcState :=
  let f := c.marked * 1024 / Nat.max 1 c.acked
  let alpha := c.alpha - c.alpha / 16 + f / 16
  let cut := if c.marked ≠ 0 then alpha / 2 else 0
  let cut := if p.target < c.srtt then Nat.max cut (p.beta * (c.srtt - p.target) / c.srtt) else cut
  { c with w := c.w - c.w * Nat.min cut p.maxMd / 1024, alpha := alpha, marked := 0, acked := 0, epochEnd := next }

/-- W within its bounds, and the pacing rate that follows from it. -/
def ccRate (p : CcProfile) (c : CcState) : CcState :=
  let w := Nat.min p.wMax (Nat.max p.wMin c.w)
  { c with w := w, rate := w * 1000 / Nat.max c.srtt p.target, unlimited := false, unpaced := false }

/-- R293 for an ACK that newly acknowledges `pkts` packets of `bytes` bytes. -/
def ccAck (p : CcProfile) (x next : U32) (ce pkts bytes : Nat) (c : CcState) : CcState :=
  if pkts = 0 then c
  else
    let c := ccGrow p ce bytes { c with marked := c.marked + ce, acked := c.acked + pkts }
    ccRate p (if seqLt c.epochEnd x then ccEpoch p next c else c)

/-! ## Feedback (R298) -/

/-- A feedback record with nothing in it. -/
def noFeedback (qpn : Nat) : Feedback := ⟨qpn, 0, 0, none, 0, 0, 0⟩

/-- Smallest and largest of two sets of delay samples. -/
def joinRtts : Option (Nat × Nat) → Option (Nat × Nat) → Option (Nat × Nat)
  | none, b => b
  | a, none => a
  | some a, some b => some (Nat.min a.1 b.1, Nat.max a.2 b.2)

/-- Two records merged; the second is the later. -/
def mergeFeedback (a b : Feedback) : Feedback where
  qpn := a.qpn
  intervalEnd := b.intervalEnd
  ackedBytes := a.ackedBytes + b.ackedBytes
  rtts := joinRtts a.rtts b.rtts
  cePkts := a.cePkts + b.cePkts
  ackedPkts := a.ackedPkts + b.ackedPkts
  timeouts := a.timeouts + b.timeouts

/-- An ACK enters the values of the running interval. -/
def fbAck (qpn ce pkts bytes : Nat) (rtt : Option Nat) (q : Qp) : Qp :=
  let b : Feedback := ⟨qpn, 0, bytes, rtt.map fun r => (r, r), ce, pkts, 0⟩
  { q with feedback := some (mergeFeedback (q.feedback.getD (noFeedback qpn)) b), fbAcked := true }

/-- The profiles as CC_PROFILE_SET last left them are in force from an ACK on (R294). -/
def takeProfile (s : Dev) (q : Qp) : Qp :=
  { q with cc := { q.cc with prof := getProfile s q.p.ccProfile, burst0 := (getProfile s 0).paceBurst } }

/-- What an ACK does to the congestion state of its queue pair's mode. -/
def ackRate (s : Dev) (qpn : Nat) (x : U32) (sack : U64) (arrival delay ce pkts bytes : Nat) (q : Qp) : Qp :=
  let rtt := sampleRtt x sack arrival delay q
  if ccHostAssisted s q then
    fbAck qpn ce pkts bytes rtt { q with cc := if rtt.isSome then { q.cc with sample := none } else q.cc }
  else
    let c := { q.cc with bucket := bucketNow s q, bucketAt := s.now }
    let c := match rtt with
      | some r => ccSample r c
      | none => c
    { q with cc := ccAck q.cc.prof x q.rqr.nextPsn ce pkts bytes c }

/-! ## Retirement at the requester (R97, R98) -/

/-- An outstanding PSN whose response has been placed: none of its translations is still held. -/
def placedOut (s : Dev) (o : OutPkt) : Bool :=
  o.answered && !(s.xlt.holders.any fun h => o.tokens.contains h.token)

/-- The responses that are in their place by now are acknowledgements of their PSNs (R98). -/
def notePlaced (s : Dev) (q : Qp) : Qp :=
  { q with rqr := { q.rqr with out := q.rqr.out.map fun o => if placedOut s o then { o with placed := true } else o } }

/-- A READ_REQ or atomic leaves the list once every response of it is placed. -/
def dropAnswered (q : Qp) : Qp :=
  let whole := fun (o : OutPkt) => ackedOut.opFetchesPk o.opcode && (groupOf q o).all (·.placed)
  let heads := q.rqr.out.filter fun o => o.head && whole o
  { q with rqr := { q.rqr with out := q.rqr.out.filter fun o => !(heads.any fun h => decide (dist o.psn h.psn < h.nPsn)) } }

/-- The acknowledged PSN: the first outstanding one that is not acknowledged, or the next PSN (R98). -/
def firstUnacked (q : Qp) : U32 :=
  match q.rqr.out.find? fun o => !(ackedOut.opFetchesPk o.opcode && o.placed) with
  | some o => o.psn
  | none => q.rqr.nextPsn

/-- The acknowledged PSN advances: the busy and wait clocks stop (R106, R141), and where an ACK brought the advance, RTO and retry
count are reset and the timer restarts (R104). -/
def advanceUna (byAck : Bool) (s : Dev) (q : Qp) : Qp :=
  let u := firstUnacked q
  if u = q.rqr.unaPsn then rearmIfIdle q
  else
    let q := { q with rqr := { q.rqr with unaPsn := u, busySince := none, waitDue := none } }
    if byAck then rearm s { q with rqr := { q.rqr with rto := q.p.rtoBase, retries := 0 } } else rearmIfIdle q
where
  /-- With no advance the timer only stops when nothing needs it. -/
  rearmIfIdle (q : Qp) : Qp := if timerNeeded q then q else { q with rqr := { q.rqr with rtoDue := none } }

/-- The started entry's packets are all sent and acknowledged. -/
def sendFinished (q : Qp) (e : SendEntry) : Bool :=
  !e.done && decide (0 < e.total) && decide (e.built = e.total) && !(q.rqr.out.any fun o => o.entry == some e.e.index)

/-- A replayed micro-batch is acknowledged; the last one ends the replay (R235). -/
def replayAcked (n : Nat) (s : Dev) : Dev :=
  match tget s.streams n with
  | none => s
  | some x =>
    match x.replay with
    | none => s
    | some (a, b) =>
      if a + 1 ≠ b then { s with streams := tset s.streams n { x with replay := some (a + 1, b) } }
      else
        let s := { s with streams := tset s.streams n { x with replay := none } }
        s.waits.foldl (fun s w => if w.2.2 = .replay n then ok (cmdRow w.2.1) w.1 (endWait w s) else s) s

/-- The last packet of a message of the sequencer is acknowledged. -/
def messageAcked (o : OutPkt) (s : Dev) : Dev :=
  match o.msg, o.last with
  | some (.coll g k), true => collAcked g k s
  | some (.moe g k), true => moeAcked g k (mdTally (o.desc.getD 0)) s
  | some (.replay n _), true => replayAcked n s
  | _, _ => s

/-- What is acknowledged or placed on a queue pair retires its entries (R97). -/
def settleSends (byAck : Bool) (qpn : Nat) (s : Dev) : Dev :=
  match getQp s qpn with
  | none => s
  | some q =>
    let una := q.rqr.unaPsn
    let q := advanceUna byAck s (dropAnswered (notePlaced s q))
    let s := setQp qpn q s
    let s := if byAck && q.rqr.unaPsn != una then collProgress qpn s else s
    let s := (q.rqr.started.filter (sendFinished q)).foldl (fun s e => finishSend qpn e.e.index stOk s) s
    retireSends qpn s

/-! ## RX_ACK -/

/-- A data PSN that the ACK newly acknowledges. -/
def newlyAcked (x : U32) (sack : U64) (o : OutPkt) : Bool :=
  !ackedOut.opFetchesPk o.opcode && o.sent && !o.sacked && ackCovers x sack o.psn

/-- The outstanding list after an ACK: data below its PSN leaves, what its SACK_MAP names is marked. -/
def ackOut (x : U32) (sack : U64) (l : List OutPkt) : List OutPkt :=
  (l.filter fun o => ackedOut.opFetchesPk o.opcode || !seqLt o.psn x).map fun o =>
    if ackedOut.opFetchesPk o.opcode then o
    else { o with sacked := o.sacked || ackCovers x sack o.psn, delayUntil := if ackCovers x sack o.psn then none else o.delayUntil }

/-- An ACK acts on its queue pair (R98, R104, R293). One whose PSN lies behind the acknowledged PSN has its SACK_MAP merged (R100);
one whose PSN lies beyond what was sent acknowledges nothing. -/
def rxAck (qpn : Nat) (p : Packet) (since : Nat) (s : Dev) : Dev :=
  match getQp s qpn with
  | none => s
  | some q =>
    let x0 := phPsn p.hdr
    let beyond := dist q.rqr.nextPsn q.rqr.unaPsn < dist x0 q.rqr.unaPsn ∧ dist x0 q.rqr.unaPsn < 2 ^ 31
    let x := if beyond then q.rqr.unaPsn else x0
    let sack := if beyond then 0 else ackSack p.payload
    let fresh := q.rqr.out.filter (newlyAcked x sack)
    let bytes := fresh.foldl (fun n o => n + o.wire) 0
    let q := ackRate s qpn x sack since (ackDelay p.payload) (ackCe p.payload) fresh.length bytes (takeProfile s q)
    let gone := q.rqr.out.filter fun o => !ackedOut.opFetchesPk o.opcode && seqLt o.psn x
    let q := { q with rqr := { q.rqr with out := ackOut x sack q.rqr.out } }
    let s := settleSends true qpn (setQp qpn q s)
    gone.foldl (fun s o => messageAcked o s) s

/-! ## RX_NAK -/

/-- The packet that a NAK's PSN belongs to. -/
def nakTarget (q : Qp) (psn : U32) : Option OutPkt :=
  q.rqr.out.find? fun o => o.head && decide (dist psn o.psn < o.nPsn)

/-- The oldest PSN that is not acknowledged (R104). -/
def oldestUnacked (q : Qp) : Option OutPkt := q.rqr.out.find? fun o => !ackedOut o

/-- The queue pair fails with RETRY_EXCEEDED: the cause is the code, or that of a clock. -/
def retryExceeded (qpn cause : Nat) (q : Qp) (s : Dev) : Dev :=
  let o := oldestUnacked q
  enterError qpn cause (o.map (·.psn)) 0 (o.bind fun o => ownerOf q o.psn) stRetryExceeded s

/-- Every PSN that is sent and not acknowledged, and does not wait out a NAK, is to be resent (R104 step 4). -/
def resendAll (q : Qp) : Qp :=
  { q with rqr := { q.rqr with out := q.rqr.out.map fun o =>
    if o.head && o.sent && groupOpen q o && o.delayUntil.isNone then { o with resend := true } else o } }

/-- Steps 3 and 4 of R104. -/
def timeoutStep (qpn : Nat) (q : Qp) (s : Dev) : Dev :=
  if q.p.retryLimit ≤ q.rqr.retries then retryExceeded qpn stRetryExceeded.toNat q s
  else
    let q := resendAll q
    let q := { q with rqr := { q.rqr with retries := q.rqr.retries + 1, rto := Nat.min (2 * q.rqr.rto) 4000000 } }
    setQp qpn (rearm s q) s

/-- A BUSY or PAGE_WAIT NAK: the PSN waits out its DELAY, and the clock of its kind starts (R105, R106, R141). -/
def nakWait (qpn : Nat) (q : Qp) (o : OutPkt) (page : Bool) (delay : Nat) (s : Dev) : Dev :=
  let t := s.now + (if delay = 0 then 500 else delay * 100)
  let q := modGroup o (fun o => { o with delayUntil := some t, resend := false }) q
  let q :=
    if page then { q with rqr := { q.rqr with
      waitDue := some (q.rqr.waitDue.getD (s.now + (getSlice s q.slice).pageWaitLimit)) } }
    else { q with rqr := { q.rqr with busySince := some (q.rqr.busySince.getD s.now) } }
  setQp qpn (if timerNeeded q then q else { q with rqr := { q.rqr with rtoDue := none } }) s

/-- A NAK acts by its code (Table 3.9). One for a PSN that is not outstanding is ignored. -/
def rxNak (qpn : Nat) (p : Packet) (s : Dev) : Dev :=
  match getQp s qpn with
  | none => s
  | some q =>
    let psn := phPsn p.hdr
    match nakTarget q psn with
    | none => s
    | some o =>
      let fail := fun (st : BitVec 8) => enterError qpn st.toNat (some psn) 0 (ownerOf q psn) st s
      if !groupOpen q o then s
      else
        match nakCode p.payload with
        | 1 => nakWait qpn q o false (nakDelay p.payload) s
        | 2 => nakWait qpn q o true (nakDelay p.payload) s
        | 3 => fail stStale
        | 4 => fail stRemoteAccess
        | 5 => timeoutStep qpn q s
        | _ => fail stLength

/-! ## RX_RESPONSE -/

/-- Response bytes written to the pieces of their PSN, each ending its holder. -/
def writeResponse (slice qpn : Nat) (owner : Option (Bool × U32)) (bad : Bool) : List (Nat × Nat × Nat) → List Nat → List Byte → Dev → Dev
  | [], _, _, s => s
  | (sp, a, n) :: r, ts, bs, s =>
    writeResponse slice qpn owner bad r ts.tail (bs.drop n)
      (storeFor ts.head? sp a (bs.take n) bad false slice (some qpn) none owner s)

/-- The response is of the kind that the outstanding PSN awaits. -/
def awaits (op : Nat) (o : OutPkt) : Bool :=
  if op = pkReadResp then o.opcode == pkReadReq else pkAtomic o.opcode

/-- A READ_RESP or ATOMIC_RESP: its data is placed, and it acknowledges its PSN (R97, R98, R100). Data of another length than
was asked for is dropped as malformed. -/
def rxResponse (qpn link : Nat) (p : Packet) (s : Dev) : Dev :=
  match getQp s qpn with
  | none => s
  | some q =>
    let psn := phPsn p.hdr
    match q.rqr.out.find? fun o => o.psn == psn with
    | none => if seqLt psn q.rqr.nextPsn then bump 0x37 q.slice s else s
    | some o =>
      if !awaits (phOp p.hdr) o then s
      else if o.answered then bump 0x37 q.slice s
      else if p.payload.length ≠ o.len then bump 0x22 link s
      else
        let s := bumpBy 0x04 q.slice p.payload.length (bump 0x03 q.slice s)
        let s := writeResponse q.slice qpn (o.entry.map fun i => (false, i)) (isPoison p) o.place o.tokens p.payload s
        let s := if isPoison p then poisonOwner qpn o.entry o.msg s else s
        settleSends false qpn (modQp qpn (modOut psn fun o => { o with answered := true }) s)

/-! ## Response-class packets as they arrive -/

/-- A tag that failed under every key of the queue pair's slot; AUTH_FAIL_LIMIT of them in a row fail the queue pair (R446). -/
def respAuthFailed (qpn : Nat) (p : Packet) (s : Dev) : Dev :=
  match getQp s qpn with
  | none => s
  | some q =>
    if !(phEnc p.hdr && p.cipher.isSome && q.p.rxKey.isSome && decide (p.payload.length ≤ 8192)) then s
    else
      let n := q.rqr.authFails + 1
      let s := setQp qpn { q with rqr := { q.rqr with authFails := n } } s
      if (getSlice s q.slice).authFailLimit ≤ n then
        enterError qpn stAuthFail.toNat (some (phPsn p.hdr)) 0 (ownerOf q (phPsn p.hdr)) stAuthFail s
      else s

/-- ENC and the tag of a response-class packet. ACK and NAK carry ENC 0 and are not authenticated (R86, R439).
An authenticated response ends the run of failures (R446). -/
def respAuthentic (qpn : Nat) (q : Qp) (p : Packet) (s : Dev) : Option Packet × Dev :=
  if phOp p.hdr = pkAck ∨ phOp p.hdr = pkNak then (if phEnc p.hdr then (none, countAuth qpn q s) else (some p, s))
  else
    match authentic qpn q p s with
    | (none, s) => (none, s)
    | (some p, s) => (some p, modQp qpn (fun q => { q with rqr := { q.rqr with authFails := 0 } }) s)

/-- A response-class packet of a queue pair whose context is on-die (R91, R365, R397, R411, R446). -/
def rxRespOnDie (qpn link : Nat) (p : Packet) (since : Nat) (s : Dev) : Dev :=
  match getQp s qpn with
  | none => s
  | some q =>
    if q.held.isSome || q.frozen.isSome || !(q.st == .live || q.st == .drain) then bump 0x0A q.slice s
    else
      match respAuthentic qpn q p s with
      | (none, s) => respAuthFailed qpn p s
      | (some p, s) =>
        let op := phOp p.hdr
        if phGen p.hdr ≠ q.gen then bump 0x0A q.slice s
        else
          match respGlaze p with
          | .bad => bump 0x15 q.slice s
          | _ =>
            let s := cacheContext qpn s
            if op = pkAck then rxAck qpn p since s
            else if op = pkNak then rxNak qpn p s
            else rxResponse qpn link p s

/-- A response-class packet of a queue pair that holds its DQPN (Table 3.1, R55, R78, R79, R338). -/
def rxRespKnown (qpn link : Nat) (q : Qp) (p : Packet) (s : Dev) : Dev :=
  let k := pipeOf qpn
  if (getSlice s q.slice).st = .faultStop then s
  else if sliceGoing s q.slice || !(q.st == .live || q.st == .drain) then bump 0x0A q.slice s
  else if !q.cached || ((parkedIn s k).any fun x => x.qpn == qpn && x.why == .context) then
    let s := if q.cached then s else bump 0x1B k s
    if parkRoom s k false then park ⟨qpn, link, p, .context, timeNs s⟩ s else bump 0x1C k s
  else rxRespOnDie qpn link p (timeNs s) s

/-- A response-class packet of one kind, for this adapter, arrives on a link. -/
def rxResp (kind : Nat → Bool) (link : Nat) (p : Packet) (s : Dev) : Dev :=
  if !dataOn s || !forUs s p || !kind (phOp p.hdr) then s
  else if respMalformed p then bump 0x22 link s
  else
    match getQp s (phDqpn p.hdr) with
    | none => bump 0x22 link s
    | some q => rxRespKnown (phDqpn p.hdr) link q p s

/-- RX_ACK. -/
def execRxAck (link : Nat) (p : Packet) (s : State) : Res := runRetire (rxResp (· == pkAck) link p) s

/-- RX_NAK. -/
def execRxNak (link : Nat) (p : Packet) (s : State) : Res := runRetire (rxResp (· == pkNak) link p) s

/-- RX_RESPONSE. -/
def execRxResponse (link : Nat) (p : Packet) (s : State) : Res :=
  runRetire (rxResp (fun op => op == pkReadResp || op == pkAtomicResp) link p) s

/-! ## Timers of a requester -/

/-- The expiry of a clock of a queue pair, if it runs. -/
def onClock (qpn : Nat) (due : Qp → Option Nat) (f : Qp → Dev → Dev) (s : Dev) : Dev :=
  match getQp s qpn with
  | none => s
  | some q => if clocksRun s q then atExpiry (due q) (f q) s else s

/-- The retransmission timer expires: the sample is abandoned, and in hardware mode W becomes W_MIN (R104, R292, R293); in
host-assisted mode the expiry counts (Table 8.3). -/
def rtoEffect (qpn : Nat) (s : Dev) : Dev :=
  onClock qpn (fun q => q.rqr.rtoDue) (fun q s =>
    let q := { q with rqr := { q.rqr with rtoDue := none }, cc := { q.cc with sample := none } }
    let q :=
      if ccHostAssisted s q then
        { q with feedback := some (mergeFeedback (q.feedback.getD (noFeedback qpn)) { noFeedback qpn with timeouts := 1 }) }
      else { q with cc := { q.cc with
        w := q.cc.prof.wMin, epochEnd := q.rqr.nextPsn, unlimited := false } }
    let s := cacheContext qpn (setQp qpn q s)
    match getQp s qpn with
    | some q => timeoutStep qpn q s
    | none => s) s

/-- RTO_EXPIRY. -/
def execRtoExpiry (qpn : Nat) (s : State) : Res := runRetire (rtoEffect qpn) s

/-- The DELAY of a NAK ends: the PSN is to be resent, a READ_REQ as long as one of its PSNs is not acknowledged, and the timer restarts at
the current RTO (R105). -/
def nakDelayEffect (qpn : Nat) (psn : U32) (s : Dev) : Dev :=
  match getQp s qpn with
  | none => s
  | some q =>
    match q.rqr.out.find? fun o => o.psn == psn && o.head with
    | none => s
    | some o =>
      atExpiry o.delayUntil (fun s =>
        let q := modGroup o (fun x => { x with delayUntil := none, resend := x.head }) q
        setQp qpn (rearm s q) s) s

/-- NAK_DELAY_EXPIRY. -/
def execNakDelayExpiry (qpn : Nat) (psn : U32) (s : State) : Res := runLevels (fun d => nakDelayEffect qpn psn (resendUnsent qpn psn d)) s

/-- The busy clock reaches BUSY_LIMIT (R106). -/
def busyLimitEffect (qpn : Nat) (s : Dev) : Dev :=
  onClock qpn (fun q => q.rqr.busySince.map fun t => t + q.p.busyLimit * 1000) (fun q s => retryExceeded qpn 0x80 q s) s

/-- BUSY_LIMIT_EXPIRY. -/
def execBusyLimitExpiry (qpn : Nat) (s : State) : Res := runRetire (busyLimitEffect qpn) s

/-- The wait clock reaches PAGE_WAIT_LIMIT (R141). -/
def pageWaitLimitEffect (qpn : Nat) (s : Dev) : Dev :=
  onClock qpn (fun q => q.rqr.waitDue) (fun q s => retryExceeded qpn 0x81 q s) s

/-- PAGE_WAIT_LIMIT_EXPIRY. -/
def execPageWaitLimitExpiry (qpn : Nat) (s : State) : Res := runRetire (pageWaitLimitEffect qpn) s

/-! ## CQ_STALL_TIMEOUT (R67, R68, R366) -/

/-- ARG2 of a queue pair's QP_ERROR with cause 0x83: the first of its completions that was discarded. -/
def stallArg (qpn : Nat) (l : List (Completion × Bool)) : Nat :=
  match l.find? fun x => x.1.qpn == qpn with
  | some (c, _) => 2 ^ 33 + b2n c.rq * 2 ^ 32 + c.wqIndex.toNat
  | none => 0

/-- A queue pair that feeds a failed completion queue enters ERROR; for one that is in ERROR already only the event is written
(R68 step 2). One in RESET stays there and writes none (log 46). -/
def stallError (x : Cq) (qpn : Nat) (s : Dev) : Dev :=
  match getQp s qpn with
  | none => s
  | some q =>
    if q.st = .error then qpErrorEvent qpn q ⟨0x83, none, stallArg qpn x.hold, [], stFlushed⟩ s
    else enterError qpn 0x83 none (stallArg qpn x.hold) none stFlushed s

/-- The queue pairs of a slice go on with what waited for room at their completion queues. -/
def sliceGoes (k : Nat) (s : Dev) : Dev :=
  (s.qps.filter fun p => p.2.slice == k).foldl (fun s p =>
    if (getQp s p.1).any fun q => q.st == .error then flushQp p.1 s else dataPlaced p.1 (retireSends p.1 s)) s

/-- The completion queue fails. What it held of the slice's reserve serves the slice's other queues (R69). -/
def failCq (c : Nat) (x : Cq) (s : Dev) : Dev :=
  let s := freeHold x.hold <| setCq c { x with error := true, hold := [], stalled := false, stallSince := none, armed := none } s
  let s := sliceEvent x.slice 0x2 2 bankCore c x.hold.length 0 s
  sliceGoes x.slice (unstall x.slice ((feeders s c).foldl (fun s q => stallError x q s) s))

/-- The stall timer reaches its timeout. It does not run for a ring in host memory while the host port is closed, nor in
fault-stop, which keeps the held completions (R55, R366). -/
def cqStallEffect (c : Nat) (s : Dev) : Dev :=
  match tget s.cqs c with
  | none => s
  | some x =>
    if canWrite s x.ring.space = false ∨ (getSlice s x.slice).st = .faultStop then s
    else atExpiry (x.stallSince.map fun t => t + x.stallTimeout * 1000) (failCq c x) s

/-- CQ_STALL_TIMEOUT. -/
def execCqStallTimeout (cqn : Nat) (s : State) : Res := runRetire (cqStallEffect cqn) s

/-- A queue pair or a counter trigger names the completion queue (R538). -/
def cqNamed (s : Dev) (cqn : Nat) : Bool :=
  (s.qps.any fun p => p.2.p.scqn == cqn || p.2.p.rcqn == cqn)
    || s.triggers.any fun p => p.2.p.kind == 1 && p.2.p.source == cqn

/-- CQ_DESTROY (R538): held completions are discarded with the queue, and the reserve that they leave serves the slice (R69). -/
def cqDestroyBody (cqn : Nat) (h : Cmd) (c : CmdInfo) (x : Cq) (s : Dev) : Dev :=
  if cqNamed s cqn then refuse c h csBusy s else ok c h (sliceGoes x.slice (unstall x.slice (freeHold x.hold { s with cqs := tdel s.cqs cqn })))

def cqDestroyEffect (h : Cmd) (cqn : Nat) : Dev → Dev :=
  command 0x010A h true (firstBad [(8, decide (cqn < 2 ^ 18))]) fun c => onCq c h cqn (cqDestroyBody cqn h c)

/-- CQ_DESTROY. -/
def execCqDestroy (h : Cmd) (cqn : Nat) (s : State) : Res := runRetire (cqDestroyEffect h cqn) s

/-! ## Key timers (R441, R442) -/

/-- KEY_WAIT has passed for a stopped slot: each queue pair that names it and has an entry unretired fails; the entry that was
waiting to send takes KEY_EXHAUSTED. -/
def keyExhausted (k : Nat) (s : Dev) : Dev :=
  s.qps.foldl (fun s p =>
    match getQp s p.1 with
    | none => s
    | some q =>
      if q.p.txKey = some k ∧ flushed q = false then
        let own := (buildOwner s p.1 q).bind fun o => if o.1 = p.1 then some (false, o.2) else none
        let psn := if q.rqr.keyWaiting || own.isSome then some (((nextResend q).map (·.psn)).getD q.rqr.nextPsn) else none
        enterError p.1 stKeyExhausted.toNat psn 0 own stKeyExhausted s
      else s) s

def keyWaitEffect (k : Nat) (s : Dev) : Dev :=
  match tget s.keySlots k with
  | none => s
  | some x =>
    let due := if x.waitOver || !sliceLive s x.owner then none else x.stoppedSince.map fun t => t + (getSlice s x.owner).keyWait
    atExpiry due (fun s => keyExhausted k { s with keySlots := tset s.keySlots k { x with waitOver := true } }) s

/-- KEY_WAIT_EXPIRY. -/
def execKeyWaitExpiry (slot : Nat) (s : State) : Res := runRetire (keyWaitEffect slot) s

/-- RX_GRACE has passed: PREV is erased. -/
def prevGraceEffect (k : Nat) (s : Dev) : Dev :=
  match tget s.keySlots k with
  | none => s
  | some x => atExpiry (x.prev.map (·.2)) (fun s => { s with keySlots := tset s.keySlots k { x with prev := none } }) s

/-- PREV_GRACE_EXPIRY. -/
def execPrevGraceExpiry (slot : Nat) (s : State) : Res := run (prevGraceEffect slot) s

/-! ## FEEDBACK_INTERVAL_END (R298, R299) -/

/-- Writes one record at the feedback ring's producer index. Without a delay sample the RTT fields are not stated: they are free
values (log 5). -/
def writeFeedback (slice : Nat) (r : Ring) (f : Feedback) (s : Dev) : Dev :=
  let (fill, s) := if f.rtts.isSome then (0, s) else freshValue s
  let bits := encFeedback f (fill % 2 ^ 32) (phaseOf r.prod r.lg)
  let s := storeRecord r.space r.base r.lg r.prod bits slice s
  let s := emit (.feedback slice r.prod r.space (r.base + r.prod.toNat % 2 ^ r.lg * 32) bits) s
  modSlice slice (fun x => { x with feedbackQ := some { r with prod := r.prod + 1 } }) s

/-- A queue pair's pending values are written where the ring has room. -/
def pumpFeedback1 (slice qpn : Nat) (s : Dev) : Dev :=
  match getQp s qpn, (getSlice s slice).feedbackQ with
  | some q, some r =>
    (match q.merged with
     | none => s
     | some f => if ringOpen s r then writeFeedback slice r f (setQp qpn { q with merged := none } s) else s)
  | _, _ => s

/-- Pending values of a slice's queue pairs are written while the ring has room, in QPN order. -/
def pumpFeedback (slice : Nat) (s : Dev) : Dev :=
  (s.qps.filter fun p => p.2.slice == slice).foldl (fun s p => pumpFeedback1 slice p.1 s) s

/-- The interval ends for one queue pair: its record joins its pending values, and is written where the ring has room, else the
merge counts. -/
def endInterval (slice qpn : Nat) (s : Dev) : Dev :=
  match getQp s qpn with
  | none => s
  | some q =>
    let q0 := { q with feedback := none, fbAcked := false }
    if !q.fbAcked then setQp qpn q0 s
    else
      let f := { q.feedback.getD (noFeedback qpn) with intervalEnd := time32 s }
      let m := match q.merged with
        | some g => mergeFeedback g f
        | none => f
      let open_ := (getSlice s slice).feedbackQ.any (ringOpen s)
      let s := setQp qpn { q0 with merged := some m } s
      if open_ then pumpFeedback1 slice qpn s else bump 0x17 slice s

/-- A feedback interval of a slice in host-assisted mode ends. -/
def feedbackEffect (slice : Nat) (s : Dev) : Dev :=
  let x := getSlice s slice
  if x.st ≠ .live ∨ x.ccHa = false then s
  else
    atExpiry (some (x.fbSince + x.feedbackInterval)) (fun s =>
      let s := modSlice slice (fun x => { x with fbSince := s.now }) s
      (s.qps.filter fun p => p.2.slice == slice).foldl (fun s p => endInterval slice p.1 s) (pumpFeedback slice s)) s

/-- FEEDBACK_INTERVAL_END. -/
def execFeedbackIntervalEnd (slice : Nat) (s : State) : Res := run (feedbackEffect slice) s

end Sys2Proof.Machine
end

