-- ==== Sys2Proof/Machine/Doorbell.lean ====
section
/-!
DEFINITION. Sys2Proof/Machine/Doorbell.lean: DOORBELL, CQ_CONSUMED, CQ_ARM, PUSH_PAGE_WRITE and PUSH_TRIGGER (R38 to R48, R52,
R55, R63, R64, R338, R349, R375).
-/
namespace Sys2Proof.Machine

/-! ## Admission (R55, R338, R349, R375) -/

/-- The slice takes doorbells and pushes at the port: it is LIVE, and an accelerator's port is bound to it. -/
def takesDoorbells (s : Dev) (port slice : Nat) : Bool :=
  sliceLive s slice && (decide (port = 15) || (getSlice s slice).accMask.getLsbD port)

/-- A doorbell or push that is discarded counts. -/
def discardDoorbell (slice : Nat) (s : Dev) : Dev := bump 0x08 slice s

/-- BAD_DOORBELL (R41): the doorbell changes nothing. -/
def badDoorbell (slice : Nat) (w : U64) (s : Dev) : Dev := sliceEvent slice 0x5 0 bankCore (dbQn w) w.toNat 0 s

/-! ## Work queues (R40 to R42, R49, R52) -/

/-- How R40 reads an index against the queue's own. -/
inductive IndexCheck where
  | tooFar
  | forward
  | stale
  | same
  deriving DecidableEq, Repr

/-- R40's check of an index `t`, where `old` is the index it moves and `room` bounds `t - base`. -/
def checkIndex (t old base : U32) (room : Nat) : IndexCheck :=
  let ahead := dist t old
  if ahead = 0 then .same
  else if 2 ^ 31 ≤ ahead then .stale
  else if room < dist t base then .tooFar
  else .forward

/-- A stopped or paused queue resumes with a fresh allowance of re-reads (R49, R51). -/
def resumeQueue (w : WorkQueue) : WorkQueue :=
  { w with stopped := false, paused := false, rereads := if w.stopped then 0 else w.rereads }

/-- A doorbell or push has set the producer index: its moment and its number are kept while an entry before it is unretired (R207, Table
8.5). -/
def notePosted (s : Dev) (w : WorkQueue) : WorkQueue :=
  { w with posted := (w.posted.filter fun x => seqLt w.ring.cons x.1) ++ [(w.ring.prod, s.now, s.postNo)] }

/-- A producer index has moved. -/
def countPost (s : Dev) : Dev := { s with postNo := s.postNo + 1 }

/-- R40 past its refusal: INV, the producer index, resumption. -/
def ringQueue (qpn : Nat) (rq inv : Bool) (t : U32) (c : IndexCheck) (q : Qp) (s : Dev) : Dev :=
  let w := wq q rq
  let w := if inv then dropCached w (firstUnstarted q rq) else w
  let w := if c = .forward then notePosted s { w with ring := { w.ring with prod := t } } else w
  let s := if c = .stale then bump 0x06 q.slice s else if c = .forward then countPost s else s
  let s := if inv then addStale qpn rq q s else s
  let s := setQp qpn (setWq q rq (resumeQueue w)) s
  if q.st = .error then flushQp qpn s else fetchQueue qpn rq s

/-- A send-queue or receive-queue doorbell (R40 to R42). -/
def workDoorbell (slice : Nat) (w : U64) (s : Dev) : Dev :=
  let rq := dbType w == 1
  match getQp s (dbQn w) with
  | none => badDoorbell slice w s
  | some q =>
    if q.slice ≠ slice then badDoorbell slice w s
    else if q.st = .reset then discardDoorbell slice s
    else
      let r := (wq q rq).ring
      match checkIndex (dbIndex w) r.prod r.cons (2 ^ r.lg) with
      | .tooFar => badDoorbell slice w s
      | c => ringQueue (dbQn w) rq (dbInv w) (dbIndex w) c q s

/-! ## Completion queues (R63 to R66) -/

/-- A completion queue has room again: what waited on it, or on the reserve of its slice, goes on (R65, R66, R69). -/
def feedersGo (c : Nat) (s : Dev) : Dev :=
  match tget s.cqs c with
  | none => s
  | some x => sliceGoes x.slice s

/-- CQ_CONSUMED (R63, R65, R67). -/
def consumedDoorbell (slice : Nat) (w : U64) (s : Dev) : Dev :=
  match tget s.cqs (dbQn w) with
  | none => badDoorbell slice w s
  | some x =>
    if x.slice ≠ slice then badDoorbell slice w s
    else if x.error then discardDoorbell slice s
    else
      match checkIndex (dbIndex w) x.ring.cons x.ring.cons (ringUsed x.ring) with
      | .tooFar => badDoorbell slice w s
      | .same => s
      | .stale => bump 0x06 slice s
      | .forward =>
        let n := dist (dbIndex w) x.ring.cons
        let x := { x with
          ring := { x.ring with cons := dbIndex w }, stallSince := x.stallSince.map fun _ => s.now, writtenAt := x.writtenAt.drop n }
        feedersGo (dbQn w) (pumpCq (dbQn w) (compareMarks (setCq (dbQn w) x s)))

/-- CQ_ARM (R64): the latest completion at an index at or after INDEX notifies at once. -/
def armDoorbell (slice : Nat) (w : U64) (s : Dev) : Dev :=
  match tget s.cqs (dbQn w) with
  | none => badDoorbell slice w s
  | some x =>
    if x.slice ≠ slice then badDoorbell slice w s
    else if x.error then discardDoorbell slice s
    else if seqLt (dbIndex w) x.ring.prod then
      sliceEvent slice 0x1 0 bankCore (dbQn w) (dbIndex w).toNat 0 (setCq (dbQn w) { x with armed := none } s)
    else setCq (dbQn w) { x with armed := some (dbIndex w) } s

/-! ## Doorbell words -/

/-- A doorbell word that a slice's page took acts by its TYPE (R38, R41). -/
def takeWord (slice : Nat) (w : U64) (s : Dev) : Dev :=
  if 4 ≤ dbType w ∨ dbRsvd w = true then badDoorbell slice w s
  else if dbType w = 2 then consumedDoorbell slice w s
  else if dbType w = 3 then armDoorbell slice w s
  else workDoorbell slice w s

/-- A write of a doorbell word at a port's page of a slice. -/
def doorbellWord (port slice : Nat) (w : U64) (s : Dev) : Dev :=
  if !dataOn s then s
  else if takesDoorbells s port slice then takeWord slice w s
  else discardDoorbell slice s

/-- A write of a part of a doorbell word is ignored and counted (R39). -/
def doorbellPart (port slice : Nat) (s : Dev) : Dev :=
  if !dataOn s then s else if takesDoorbells s port slice then bump 0x07 slice s else discardDoorbell slice s

/-- DOORBELL. -/
def execDoorbell (port slice : Nat) (word : U64) (whole : Bool) (s : State) : Res :=
  runRetire (if whole then doorbellWord port slice word else doorbellPart port slice) s

/-- CQ_CONSUMED. -/
def execCqConsumed (port slice : Nat) (word : U64) (s : State) : Res := runRetire (doorbellWord port slice word) s

/-- CQ_ARM. -/
def execCqArm (port slice : Nat) (word : U64) (s : State) : Res := runRetire (doorbellWord port slice word) s

/-! ## Push pages (R43 to R48) -/

/-- Key of a push page: pages of each port are their own. -/
def pushKey (port slice page : Nat) : Nat := (port * 512 + slice) * 16 + page

/-- Bytes of a page written since its last trigger. -/
def pushBytes (s : Dev) (k : Nat) : PushPage := tgetD s.pushPages k []

/-- `n` bytes from an offset, if every one has been written. -/
def writtenRun (p : PushPage) (a n : Nat) : Option (List Byte) :=
  (List.range n).foldr (fun i r =>
    match tget p (a + i), r with
    | some b, some l => some (b :: l)
    | _, _ => none) (some [])

/-- The staged payload of an entry: STAGED is set and every byte of it was written (R47). -/
def stagedOf (p : PushPage) (e : BitVec 512) : Option (List Byte) :=
  if weStaged e && decide (weLen e ≤ 256) then writtenRun p 0x100 (weLen e) else none

/-- Conditions 1 to 6 of R45 for a word and the bytes of its page: the entry to place. -/
def pushEntry (s : Dev) (slice : Nat) (p : PushPage) (w : U64) : Option (Qp × CachedEntry) :=
  match writtenRun p 0 64, getQp s (dbQn w) with
  | some bs, some q =>
    let e : BitVec 512 := BitVec.ofNat 512 (leNat bs)
    let i := q.sq.ring.prod
    let zero := p.all fun x => decide (x.1 < 0x40) || decide (0x78 ≤ x.1) || x.2 == 0
    let free := decide (q.sq.cache.length < 8) && decide (cacheUsed s < 32768)
    if dbType w = 0 ∧ dbInv w = false ∧ dbRsvd w = false ∧ zero = true ∧ q.slice = slice ∧ dbIndex w = i + 1
        ∧ checkIndex (dbIndex w) i q.sq.ring.cons (2 ^ q.sq.ring.lg) = .forward
        ∧ wePhase e = phaseOf i q.sq.ring.lg ∧ q.st = .live ∧ free = true then
      some (q, ⟨i, e, false, [], false, stagedOf p e, tableValid e⟩)
    else none
  | _, _ => none

/-- An accepted push: its entry is in the cache without a read of the ring, and the producer index moves (R45). -/
def acceptPush (qpn : Nat) (q : Qp) (e : CachedEntry) (s : Dev) : Dev :=
  let w := notePosted s (resumeQueue { q.sq with cache := q.sq.cache ++ [e], ring := { q.sq.ring with prod := e.index + 1 } })
  fetchQueue qpn false (setQp qpn { q with sq := w } (countPost s))

/-- The trigger of a page: the bytes written since the last one are bound, and the record of them is cleared (R44, R45). -/
def triggerPush (slice k : Nat) (w : U64) (s : Dev) : Dev :=
  let p := pushBytes s k
  let s := { s with pushPages := tdel s.pushPages k }
  match pushEntry s slice p w with
  | some (q, e) => acceptPush (dbQn w) q e s
  | none => takeWord slice w (bump 0x09 slice s)

/-- The record of a byte written to a page: where condition 2 of R45 asks for zeros, a byte that was not zero stays on record. -/
def recordByte (p : PushPage) (off : Nat) (b : Byte) : PushPage :=
  if 0x40 ≤ off ∧ off < 0x78 ∧ (tget p off).any (· != 0) = true then p else tset p off b

/-- One byte written to a page: it is recorded where the page has storage for it, and the last byte of the doorbell word
triggers. -/
def pushByte (slice k : Nat) (off : Nat) (b : Byte) (s : Dev) : Dev :=
  if off < 0x80 ∨ (0x100 ≤ off ∧ off < 0x200) then
    let p := recordByte (pushBytes s k) off b
    match (if 0x78 ≤ off ∧ off < 0x80 then writtenRun p 0x78 8 else none) with
    | some l => triggerPush slice k (BitVec.ofNat 64 (leNat l)) { s with pushPages := tset s.pushPages k p }
    | none => { s with pushPages := tset s.pushPages k p }
  else s

/-- Bytes written from an offset upwards. -/
def pushAll (slice k : Nat) : Nat → List Byte → Dev → Dev
  | _, [], s => s
  | off, b :: r, s => pushAll slice k (off + 1) r (pushByte slice k off b s)

/-- A write to a push page: discarded and counted where the page takes none. -/
def pushWrite (port slice page off : Nat) (data : List Byte) (s : Dev) : Dev :=
  if !dataOn s || decide (page = 0 ∨ 15 < page) then s
  else if takesDoorbells s port slice then pushAll slice (pushKey port slice page) off data s
  else discardDoorbell slice s

/-! ## Writes to the doorbell and push pages (R39, R349, R350, R375) -/

/-- Doorbell words of a write to a doorbell page, in ascending address order; a part of one counts. -/
def pageWords (port slice : Nat) : Nat → Nat → List Byte → Dev → Dev
  | 0, _, _, s => s
  | f + 1, off, bs, s =>
    if bs.isEmpty then s
    else
      let n := 8 - off % 8
      let whole := decide (off % 8 = 0) && decide (8 ≤ bs.length)
      let s := if whole then doorbellWord port slice (BitVec.ofNat 64 (leNat (bs.take 8))) s else doorbellPart port slice s
      pageWords port slice f (off + n) (bs.drop n) s

/-- One page's part of a write to the aperture. -/
def apertureWrite1 (port off : Nat) (bs : List Byte) (s : Dev) : Dev :=
  let slice := off / 0x10000
  let page := off / 0x1000 % 16
  if 512 ≤ slice then s
  else if page = 0 then pageWords port slice 513 (off % 0x1000) bs s else pushWrite port slice page (off % 0x1000) bs s

/-- A write to BAR2 or to an aperture, split at page boundaries (R350); nothing lies behind the page of slice 511. -/
def apertureWrite (port : Nat) : Nat → Nat → List Byte → Dev → Dev
  | 0, _, _, s => s
  | f + 1, off, bs, s =>
    if bs.isEmpty then s
    else
      let n := 0x1000 - off % 0x1000
      apertureWrite port f (off + n) (bs.drop n) (apertureWrite1 port off (bs.take n) s)

/-- The offset of a byte of a slice's page in BAR2, or in an aperture laid out as BAR2 (R349, R375). -/
def pageOffset (slice page offset : Nat) : Nat := slice * 0x10000 + page * 0x1000 + offset

/-- PUSH_PAGE_WRITE: one write TLP, which may run on into the pages behind (R350). -/
def execPushPageWrite (port slice page offset : Nat) (data : List Byte) (s : State) : Res :=
  runRetire (fun d =>
    if page = 0 ∨ 15 < page ∨ 4096 ≤ offset then d else apertureWrite port 3 (pageOffset slice page offset) data d) s

/-- PUSH_TRIGGER. -/
def execPushTrigger (port slice page : Nat) (word : U64) (s : State) : Res :=
  runRetire (pushWrite port slice page 0x78 (natLe word.toNat 8)) s

end Sys2Proof.Machine
end

