-- ==== Sys2Proof/Machine/Power.lean ====
section
/-!
DEFINITION. Sys2Proof/Machine/Power.lean: power-managed objects: their wake (R489, R491), and the paths that
latency-critical slices pin (R495).
-/
namespace Sys2Proof.Machine

/-- Time to ACTIVE from a state (Table 15.3). -/
def wakeTime (o : PowerObj) (st : PState) : Nat :=
  match st with
  | .standby => 20
  | .meringue =>
    (match o with
     | .engine _ => 120
     | .stack _ => 2000
     | _ => 1500)
  | _ => 0

/-- The moment at which the Soufflé of an engine in MERINGUE may start: four in any 40 ns (R491). -/
def wakeSlot (s : Dev) : Nat :=
  let recent := s.wakes.filter fun t => decide (s.now < t + 40)
  if recent.length < 4 then s.now else (recent.getD (recent.length - 4) s.now) + 40

/-- The object's Soufflé starts, unless it is ACTIVE, OFF or waking (R491, R493). -/
def startWake (o : PowerObj) (s : Dev) : Dev :=
  let p := getPower s o
  if p.wakeDue.isSome || p.st == .active || p.st == .off then s
  else
    let t := match o, p.st with
      | .engine _, .meringue => wakeSlot s
      | _, _ => s.now
    let s := match o, p.st with
      | .engine _, .meringue => { s with wakes := (s.wakes.filter fun x => decide (s.now < x + 40)) ++ [t] }
      | _, _ => s
    let s := setPower o { p with wakeDue := some (t + wakeTime o p.st) } s
    match o with
    | .fab _ | .acc _ => if p.st = .meringue then emit (.wakeSignal o) s else s
    | _ => s

/-- Pinned objects that are not ACTIVE and can be woken. -/
def pinsAsleep (s : Dev) : List PowerObj :=
  (pinnedObjs s).filter fun o => !((getPower s o).st == .active || (getPower s o).st == .off)

/-- A command that may change the pins, `before` being those in force before it: newly pinned objects wake, and the reply waits
for them (R495). -/
def replyPinned (before : List PowerObj) (c : CmdInfo) (h : Cmd) (result : Nat) (s : Dev) : Dev :=
  let s := unpinned before s
  let objs := (pinsAsleep s).filter fun o => !before.contains o
  if objs.isEmpty then reply c h csOk 0 result s
  else waitOn h c.op (.awake objs result) (objs.foldl (fun s o => startWake o s) s)

/-- Commands that wait for objects of which all are ACTIVE reply. -/
def awakeDone (s : Dev) : Dev :=
  s.waits.foldl (fun s w =>
    match w.2.2 with
    | .awake objs r =>
      if objs.all fun o => (getPower s o).st == .active || (getPower s o).st == .off then
        reply (cmdRow w.2.1) w.1 csOk 0 r (endWait w s)
      else s
    | _ => s) s

end Sys2Proof.Machine
end

