-- ==== Sys2Proof/Machine/Egress.lean ====
section
/-!
DEFINITION. Sys2Proof/Machine/Egress.lean: the packet that the scheduler of a port chooses (R283 to R285), frames (R275), and packets
that lose their port (R267 to R269).
-/
namespace Sys2Proof.Machine

/-! ## Packets that lose their place (R267, R268) -/

/-- A packet of this adapter that has lost its route is held: a request as an outstanding PSN, another for its queue pair (R268). -/
def holdPacket (e : EgressPkt) (s : Dev) : Dev :=
  let h := e.p.hdr
  if pkIsReq (phOp h) then
    modQp e.qpn (fun q => match q.rqr.out.find? fun o => o.psn == phPsn h with
      | some o => heldPsn s.now o q
      | none => q) s
  else keepUnsent e.qpn ⟨phOp h, phPsn h, phIndex h, phLast h, e.p.payload, isPoison e.p, e.ackAt, 0⟩ s

/-- Routes again a packet that has lost its port, or that may be sent again. Without a route, one in transit is dropped and counted
(R267), one of this adapter is held. -/
def reroute (e : EgressPkt) (s : Dev) : Dev :=
  match routeAgain s e with
  | .here => emit (.packet loopLink e.vc (stampAck s e)) s
  | .port n w => enqueue n { e with vc := w } s
  | .wait => waitEscape none e s
  | .none => if e.slice.isSome then holdPacket e s else bump 0x28 0 s

/-- A packet that waited out ESC_WAIT leaves the ingress allocation that it waited in. -/
def leaveEscape (w : EscWaiting) (s : Dev) : Dev :=
  let s := { s with escWaiting := s.escWaiting.filter fun x => x.id != w.id }
  match w.from_ with
  | some (n, v) => freeIngress n v (padLen w.e.p) s
  | none => s

/-- The packets that wait out ESC_WAIT take a port that has become eligible, and those without any candidate left are dropped or held
(R267). -/
def pumpEscape (s : Dev) : Dev :=
  s.escWaiting.foldl (fun s w => if routeAgain s w.e = .wait then s else reroute w.e (leaveEscape w s)) s

/-! ## The packet that leaves -/

/-- The send time of a delay sample's packet: its first symbol leaves the lanes now (R292). -/
def sampleSent (e : EgressPkt) (s : Dev) : Dev :=
  modQp e.qpn (fun q =>
    if q.cc.sample.any fun x => x.1 == phPsn e.p.hdr then { q with cc := { q.cc with sample := some (phPsn e.p.hdr, time32 s) } } else q) s

/-- The entry whose message's packet with PKT_INDEX 0 a packet is; of a message of the sequencer, the entry that it carries out. -/
def stampOwner (s : Dev) (e : EgressPkt) : Option (Nat × U32) :=
  if phIndex e.p.hdr ≠ 0 then none
  else (getQp s e.qpn).bind fun q => (q.rqr.out.find? fun o => o.psn == phPsn e.p.hdr).bind fun o =>
    match o.entry, o.msg with
    | some i, _ => some (e.qpn, i)
    | none, some k => seqOwner s k
    | none, none => none

/-- The timestamp of a TS_REQ entry: its first packet with PKT_INDEX 0 leaves for the first time (R315 to R317). -/
def stampSend (n : Nat) (e : EgressPkt) (s : Dev) : Dev :=
  match stampOwner s e with
  | none => s
  | some (qpn, i) =>
    let wants := fun (x : SendEntry) => weTsReq x.e.raw && !x.e.poisoned && x.stamp.isNone && !x.stampLost
    if (getQp s qpn).any fun q => (startedAt q i).any wants then
      let (got, g, s) := captureStamp n s
      modSend qpn i (fun x => { x with stamp := if got then some (timeNs s) else none, stampLost := !got, stampGroup := g }) s
    else s

/-- The headers of the frame that carries a packet of class `tc` (R275). The QPN of the packet's header names the flow. -/
def ethHeaders (s : Dev) (n tc : Nat) (h : BitVec 128) : FrameOut :=
  let f := getFab s (n / 2)
  let d := tget s.routing.neigh (phDst h)
  { dmac := (d.map (·.mac)).getD 0
    smac := (getPort s n).mac
    vlan := (d.map (·.vlan)).getD 0
    pcp := fld f.pcp (8 * tc + 2) (8 * tc)
    etherType := 0x86DD
    dscp := fld f.dscp (8 * tc + 5) (8 * tc)
    ecn := 2
    flowLabel := phDqpn h % 2 ^ 20
    nextHeader := 17
    hopLimit := 64
    src := (getPort s n).ip
    dst := (d.map (·.ipv6)).getD 0
    srcPort := 0xC000 + phDqpn h % 2 ^ 14
    dstPort := f.udpPort
    checksum := 0
    fcs := 0 }

/-- The bytes of a packet (Table 3.3). -/
def packetBytes (p : Packet) : List Byte :=
  natLe p.hdr.toNat 16 ++ (p.desc.map fun d => natLe d.toNat 16).getD [] ++ p.payload ++ natLe p.glaze.toNat 8
    ++ (p.cipher.map fun c => natLe c.toNat 16).getD []

/-- A number of `k` bytes, most significant first. -/
def netBytes (v k : Nat) : List Byte := (natLe v k).reverse

/-- The bytes of a frame up to its FCS (R275): Ethernet, IEEE 802.1Q, IPv6 and UDP headers, and the packet. -/
def frameBytes (f : FrameOut) (p : Packet) : List Byte :=
  let body := packetBytes p
  netBytes f.dmac.toNat 6 ++ netBytes f.smac.toNat 6 ++ netBytes 0x8100 2 ++ netBytes (f.pcp * 8192 + f.vlan) 2 ++ netBytes f.etherType 2
    ++ netBytes (0x60000000 + (f.dscp * 4 + f.ecn) * 2 ^ 20 + f.flowLabel) 4 ++ netBytes (8 + body.length) 2
    ++ netBytes f.nextHeader 1 ++ netBytes f.hopLimit 1 ++ netBytes f.src.toNat 16 ++ netBytes f.dst.toNat 16
    ++ netBytes f.srcPort 2 ++ netBytes f.dstPort 2 ++ netBytes (8 + body.length) 2 ++ netBytes f.checksum 2 ++ body

/-- The frame with its FCS (R275 item 7). -/
def withFcs (f : FrameOut) (p : Packet) : FrameOut := { f with fcs := u32 (crc32 (frameBytes f p)) }

/-- The packet's place in its queues goes: it starts. -/
def leaveQueue (n tc q : Nat) (e : EgressPkt) (s : Dev) : Dev :=
  let s := if gateOverrun s n e then bump 0x24 n s else s
  let s := (shapersOf n e).foldl (fun s k => shaperPay k (padLen e.p) s) s
  setPort n { afterLeave s tc q e (getPort s n) with lastRx := s.now } s

/-- The packet goes onto the lanes. -/
def putPacket (n : Nat) (e : EgressPkt) (s : Dev) : Dev :=
  let s := if e.firstTx && pkIsReq (phOp e.p.hdr) then stampSend n e (sampleSent e s) else s
  let p := stampAck s e
  if isEth s n then emit (.ethFrame n (withFcs (ethHeaders s n e.tc p.hdr) p) p) s else sendOut n (.packet n e.vc p) s

/-- The chosen packet leaves. -/
def sendPacket (n tc q : Nat) (e : EgressPkt) (s : Dev) : Dev :=
  let s := putPacket n e (leaveQueue n tc q e s)
  if (getPort s n).queue.isEmpty then setPower (.fab n) { getPower s (.fab n) with idleSince := s.now } s else s

/-! ## EGRESS_PACKET_SELECT -/

/-- EGRESS_PACKET_SELECT: at a packet boundary the port sends the packet that R284 and R285 choose, if one is eligible. -/
def egressSelect (n : Nat) (s : Dev) : Dev :=
  if !dataOn s || decide (64 ≤ n) then s
  else
    match nextPacket s n with
    | some (tc, q, e) => sendPacket n tc q e s
    | none => s

def execEgressPacketSelect (port : Nat) (s : State) : Res := runLevels (egressSelect port) s

end Sys2Proof.Machine
end

