-- ==== Sys2Proof/Machine/Follow.lean ====
section
/-!
DEFINITION. Sys2Proof/Machine/Follow.lean: whom the adapter follows for fabric time, and the loss of its parent (R307, R311, R313).
-/
namespace Sys2Proof.Machine

def timeSource (s : Dev) : Nat := fld s.time.cfg 27 24
def timeParent (s : Dev) : Nat := fld s.time.cfg 21 16
def timeBackup (s : Dev) : Option Nat := if s.time.cfg.getLsbD 15 then some (fld s.time.cfg 13 8) else none

/-- The adapter follows another clock: SOURCE 2 or 3. -/
def isFollower (s : Dev) : Bool := timeSource s == 2 || timeSource s == 3

def modTime (f : TimeUnit → TimeUnit) (s : Dev) : Dev := { s with time := f s.time }

/-- HOLDOVER: the last increment stays, and TIME_HOLDOVER names the SOURCE (R311, R313). -/
def holdover (s : Dev) : Dev :=
  if s.time.st == .holdover then s
  else devEvent 0x40 0 bankCore (timeSource s) 0 0 (modTime (fun t => { t with st := .holdover, good := 0 }) s)

/-- The peer is LOCKED or a root: a free-running root reports FREE with HOPS 0. -/
def peerGood (p : FPort) : Bool := p.peerState == 2 || (p.peerHops == 0 && p.peerState != 3)

/-- The port can be followed in place of the parent: a ZFL port offers a LOCKED peer or a root; an Ethernet port that is up is taken to
have a master (log 160). -/
def backupGood (s : Dev) (n : Nat) : Bool :=
  let p := getPort s n
  p.up && (if isEth s n then timeSource s == 3 else peerGood p)

/-- The parent is lost: HOLDOVER, and the BACKUP is followed where it is good. -/
def parentLost (s : Dev) : Dev :=
  let s := holdover s
  match timeBackup s with
  | some b => if backupGood s b then modTime (fun t => { t with following := b }) s else s
  | none => s

/-- The port that a follower follows has gone down: the parent is lost at once (R311). -/
def parentDown (s : Dev) : Dev :=
  if isFollower s && (s.time.st == .acquiring || s.time.st == .locked) && !(getPort s s.time.following).up then parentLost s else s

end Sys2Proof.Machine
end

