-- ==== Sys2Proof/Machine/Link.lean ====
section
/-!
DEFINITION. Sys2Proof/Machine/Link.lean: the link layer of fabric ports and of ZAL links (R241 to R259, R372), the route
tables' commands (R263 to R268, R277), route healing (R269 to R271), transit (R272) and PFC (R278, R279).
-/
namespace Sys2Proof.Machine

/-! ## Routes found and lost (R269, R270) -/

/-- Table keys that have an entry in the active bank. -/
def routeKeys (r : Routing) : List (Nat × Nat) :=
  ((if r.bank then r.groupB else r.groupA).map fun x => (0, x.1)) ++ ((if r.bank then r.memberB else r.memberA).map fun x => (1, x.1))

/-- Some minimal candidate of a destination is up and not withdrawn. -/
def minUp (s : Dev) (key : Nat × Nat) : Bool :=
  (List.range 64).any fun n => (rtMin (routeEntry s.routing key)).getLsbD n && candidateUp s key n

/-- Destinations with a minimal candidate in `a` and none in `b`. -/
def lostKeys (a b : Dev) : List (Nat × Nat) := (routeKeys a.routing).filter fun k => minUp a k && !minUp b k

/-- A list in parts of at most `k`. -/
def chunksOf {α : Type} (k : Nat) (l : List α) : List (List α) :=
  (List.range (ceilDiv l.length (Nat.max 1 k))).map fun i => (l.drop (i * k)).take k

/-- ROUTE_UPDATE flits for a list of destinations on one port (Table 7.9). The port keeps which destinations are withdrawn from its
peer. -/
def sendRoutes (kind hops m : Nat) (keys : List (Nat × Nat)) (s : Dev) : Dev :=
  let s := [0, 1].foldl (fun s level =>
    (chunksOf 120 ((keys.filter fun k => k.1 == level).map (·.2))).foldl (fun s part =>
      sendOut m (.routeUpdate m ⟨kind, hops, level, s.routing.selfEpid, part⟩) s) s) s
  modPort m (fun p =>
    let rest := p.withdrew.filter fun k => !keys.contains k
    { p with withdrew := if kind = 0 then rest ++ keys else rest }) s

/-- The up ports that carry ROUTE_UPDATEs (R269, R280). -/
def routePorts (s : Dev) : List Nat := (List.range 64).filter fun m => isZfl s m && (getPort s m).up

/-- ROUTE_UPDATE flits for a list of destinations on every up ZFL port but one. -/
def floodRoutes (kind hops skip : Nat) (keys : List (Nat × Nat)) (s : Dev) : Dev :=
  (routePorts s).foldl (fun s m => if m = skip then s else sendRoutes kind hops m keys s) s

/-- Each up port restores the destinations withdrawn from its peer that have a minimal candidate again (R270, log 135). -/
def restoreRoutes (s : Dev) : Dev :=
  (routePorts s).foldl (fun s m => sendRoutes 1 s.routing.floodHops m ((getPort s m).withdrew.filter (minUp s)) s) s

/-! ## Ports up and down (R242 to R244, R269) -/

/-- A link layer with nothing in it (R246, R496); scheduler, gates and power keep their settings. -/
def freshLink (p : FPort) : FPort :=
  { p with
    up := false
    training := false
    width := 0
    failedLanes := 0
    narrowSince := none
    scanLane := none
    txSeq := 0
    rxSeq := 0
    openFlit := none
    replay := []
    awaiting := none
    missed := 0
    awaitDue := 0
    replayTill := 0
    heldCtl := []
    peerOff := 0
    offVc := 0
    offAll := false
    xoffAt := []
    occupancy := [0, 0, 0, 0, 0, 0, 0, 0]
    partials := []
    forwarding := []
    leaving := []
    laneErrors := []
    queue := []
    v1 := 0
    tags1 := []
    v2 := []
    tags2 := []
    pfc := []
    parkAt := none
    parkTxOff := false }

/-- A packet that is being forwarded on a VC ends downstream (R251). -/
def abortOne (vc : Nat) (f : Forward) (s : Dev) : Dev := if f.port < 64 then sendAbort f.port vc s else s

/-- Those that a port forwards end downstream. -/
def abortForwards (n : Nat) (s : Dev) : Dev :=
  (getPort s n).forwarding.foldl (fun s v => v.2.foldl (fun s f => abortOne v.1 f s) s) s

/-- The packet that is still arriving on a VC ends, here and downstream. -/
def abortArrival (n vc : Nat) (s : Dev) : Dev :=
  let p := getPort s n
  match openForward p vc with
  | none => s
  | some f => abortOne vc f (modPort n (setForwards vc ((forwardsOf p vc).erase f)) s)

/-- Packets that other ports forward to a port are lost with it. -/
def loseForwards (n : Nat) (s : Dev) : Dev :=
  { s with ports := tmap s.ports fun _ p => { p with
    forwarding := tmap p.forwarding fun _ l => l.map fun f => if f.port = n then { f with port := 64 } else f } }

/-- Everything of a port's link layer is lost; packets not started are routed again (R251, R269 steps 1 to 3). -/
def loseLink (n : Nat) (s : Dev) : Dev :=
  let q := (getPort s n).queue
  let s := loseForwards n (modPort n freshLink (abortForwards n s))
  let s := { s with escWaiting := s.escWaiting.filter fun w => !(w.from_.any fun f => f.1 == n) }
  q.foldl (fun s e => reroute e s) s

/-- A scan that a lane failure or the port's end has ended replies BUSY (R502). -/
def endScan (n : Nat) (s : Dev) : Dev :=
  let s := modPort n (fun p => { p with scanLane := none }) s
  s.waits.foldl (fun s w =>
    match w.2.2 with
    | .scan m _ => if m = n then reply (cmdRow w.2.1) w.1 csBusy 0 0 (endWait w s) else s
    | _ => s) s

/-- A fabric port goes down (R269). -/
def portDown (n cause : Nat) (s : Dev) : Dev :=
  if !(getPort s n).up then modPort n (fun p => { p with training := false }) s
  else
    let s := endScan n s
    let s' := parentDown (devEvent 0x30 0 (bankFab n) n cause 0 (loseLink n s))
    if s'.routeHa then s' else floodRoutes 0 s'.routing.floodHops n (lostKeys s s') s'

/-- PORT_DOWN events of the ports that go down together, with no codeword (R269, log 92). -/
def fabricLost (s : Dev) : Dev :=
  (List.range 64).foldl (fun s n => if (getPort s n).up then devEvent 0x30 0 (bankFab n) n 0 0 s else s) s

/-- PORT_DOWN of a fabric port. -/
def execPortDown (n cause : Nat) (s : State) : Res := runLevels (fun d => if n < 64 then portDown n cause d else d) s

/-- The configuration takes effect as a port trains (R242). While the other half of the physical port is up, only this half's FEC
does, and only in the same MODE. -/
def loadCfg (n : Nat) (s : Dev) : Dev :=
  let f := getFab s (n / 2)
  let other := if n % 2 = 0 then n + 1 else n - 1
  let i := if n % 2 = 0 then 22 else 23
  let live :=
    if !(getPort s other).up then f.cfg
    else if fld f.cfg 27 24 ≠ fld f.live 27 24 then f.live
    else (f.live &&& ~~~((1 : U32) <<< i)) ||| (f.cfg &&& ((1 : U32) <<< i))
  setFab (n / 2) { f with live := live } s

/-- A PORT_RETRAIN that waits on a port replies (R537). -/
def retrainDone (n : Nat) (up : Bool) (s : Dev) : Dev :=
  s.waits.foldl (fun s w =>
    match w.2.2 with
    | .port m => if m = n then reply (cmdRow w.2.1) w.1 csOk 0 (packResult [(b2n up, 1)]) (endWait w s) else s
    | _ => s) s

/-- The port's lane group is OFF (Table 15.3). -/
def portOff (s : Dev) (n : Nat) : Bool := (getPower s (.fab n)).st == .off

/-- A link layer that has just come up, at its full width (R243, R246). -/
def upLink (now w rtt : Nat) (p : FPort) : FPort :=
  { freshLink p with up := true, width := w, rtt := rtt, txAt := now * 1024, retrains := 0, retrainDue := none, lastRx := now }

/-- The port is up: its link layer starts afresh and the routes through it are restored (R243, R270). -/
def portComesUp (n rtt : Nat) (s : Dev) : Dev :=
  let s' := modPort n (fun p =>
    { upLink s.now (linkWidth s n) rtt p with queue := p.queue, v1 := p.v1, tags1 := p.tags1, v2 := p.v2, tags2 := p.tags2 }) s
  let s' := setPower (.fab n) { getPower s' (.fab n) with st := .active, idleSince := s.now, wakeDue := none } s'
  let s' := updateOff n s'
  pumpEscape (if s'.routeHa then s' else restoreRoutes s')

/-- The reference clock of a logical port, or of accelerator port `n - 64`, has stopped (Table 17.3, R525). -/
def clockLost (s : Dev) (n : Nat) : Bool := s.refLost.contains (if n < 64 then (false, n / 8) else (true, (n - 64) / 4))

/-- The port cannot train: it is up, or its lane group, its clock, its reset or a device-fatal error keeps it down (R418, R491, R500,
R525). -/
def cannotTrain (s : Dev) (n : Nat) : Bool := (getPort s n).up || portOff s n || s.transitReset || s.dataStopped || clockLost s n

/-- Training of a fabric port ends (R243, R244, R274), with the FEC and the width that the peer's PEER flit reports. A port that cannot
train stays as it is, and a PORT_RETRAIN that waits on it learns so (R537). -/
def fabTrained (n : Nat) (peerFull : Bool) (peerWidth rtt : Nat) (s : Dev) : Dev :=
  if cannotTrain s n then retrainDone n (getPort s n).up (modPort n (fun p => { p with training := false }) s)
  else
    let s := loadCfg n s
    let s := modPort n (fun p => { p with training := false }) s
    if !portExists s n then retrainDone n false s
    else if isEth s n then retrainDone n true (portComesUp n rtt s)
    else if 1500 < rtt then retrainDone n false (devEvent 0x32 0 (bankFab n) n rtt 0 s)
    else
      let s := emit (.peerFlit n (portMode s n) (fullFec s n) (cfgWidth s n) s.routing.selfEpid) s
      if peerFull = fullFec s n ∧ peerWidth = cfgWidth s n then retrainDone n true (portComesUp n rtt s)
      else retrainDone n false (devEvent 0x31 0 (bankFab n) n 0 0 s)

/-! ## Replay (R249 to R252) -/

/-- The link takes part in the exchange of flits now. -/
def linkOn (s : Dev) (n : Nat) : Bool := (getPort s n).up && linkFlits s n && (getPort s n).narrowSince.isNone

/-- A REPLAY_REQ for the failed flit (R249). -/
def requestReplay (n : Nat) (s : Dev) : Dev :=
  let p := getPort s n
  bump 0x20 n (sendOut n (.replayReq n p.rxSeq)
    (setPort n { p with awaiting := some p.rxSeq, awaitDue := s.now + p.rtt + 200 } s))

/-- A control flit that passed its checks takes its sequence number. A receiver that waits for a replay accepts only
REPLAY_REQ and REPLAY_MISS, by their code alone, since the count is lost (log 61). -/
def tookFlit (n : Nat) (s : Dev) : Dev :=
  modPort n (fun p => { p with
    lastRx := s.now
    rxSeq := if p.awaiting.isSome then p.rxSeq else p.rxSeq + 1
    missed := if p.awaiting.isSome then p.missed else p.missed - 1 }) s

/-- An IDLE flit takes its number and is no traffic (R246, R490). -/
def tookIdle (n : Nat) (s : Dev) : Dev := modPort n (fun p => { p with rxSeq := p.rxSeq + 1, missed := p.missed - 1 }) s

/-- A port accepts a control flit other than REPLAY_REQ and REPLAY_MISS. -/
def acceptsFlit (s : Dev) (n : Nat) : Bool := linkOn s n && (getPort s n).awaiting.isNone

/-- A REPLAY_REQ arrives: the flits go again, or REPLAY_MISS with the next number, which neither end counts (R250, log 60). -/
def gotReplayReq (n : Nat) (seq : BitVec 16) (s : Dev) : Dev :=
  let s := layIdle n s
  let p := getPort s n
  if p.txSeq = seq ∨ replayHolds s p seq = true then replayFrom n seq s else emit (.replayMiss n p.txSeq) s

def execReplayReq (n : Nat) (seq : BitVec 16) (s : State) : Res :=
  runLevels (fun d => if linkOn d n then gotReplayReq n seq (tookFlit n d) else d) s

/-- The parts of packets held at a port's ingress are discarded (R251). -/
def dropPartials (n : Nat) (s : Dev) : Dev :=
  let l := (getPort s n).partials
  let s := l.foldl (fun s v => abortArrival n v.1 s) s
  l.foldl (fun s v => freeIngress n v.1 v.2.length s) (modPort n (fun p => { p with partials := [] }) s)

/-- A REPLAY_MISS arrives at a receiver that waits: the flits between are lost (R250, R251). It takes no number. -/
def gotReplayMiss (n : Nat) (seq : BitVec 16) (s : Dev) : Dev :=
  let p := getPort s n
  match p.awaiting with
  | none => s
  | some a =>
    let lost := (seq - a).toNat
    devEvent 0x34 1 (if n < 64 then bankFab n else bankIo (n - 64)) n lost 0
      (bumpBy 0x21 n lost (dropPartials n (setPort n { p with awaiting := none, missed := 0, rxSeq := seq } s)))

def execReplayMiss (n : Nat) (seq : BitVec 16) (s : State) : Res :=
  runLevels (fun d => if linkOn d n then gotReplayMiss n seq (modPort n (fun p => { p with lastRx := d.now }) d) else d) s

/-- REPLAY_REQ_TIMEOUT (R249 step 4). -/
def replayReqTimeout (n : Nat) (s : Dev) : Dev :=
  let p := getPort s n
  if !linkOn s n || p.awaiting.isNone then s else atExpiry (some p.awaitDue) (requestReplay n) s

def execReplayReqTimeout (n : Nat) (s : State) : Res := runLevels (replayReqTimeout n) s

/-- REPLAY_BUFFER_EXPIRY: the oldest flit has been kept for 2.0 µs of link-up time (R250, R255). -/
def replayExpiry (n : Nat) (s : Dev) : Dev :=
  match (getPort s n).replay with
  | [] => s
  | r :: _ =>
    if linkOn s n then atExpiry (some (ceilDiv (r.at_ + keepTicks) 1024)) (modPort n fun p => { p with replay := dropRuns 1 p.replay }) s
    else s

def execReplayBufferExpiry (n : Nat) (s : State) : Res := runLevels (replayExpiry n) s

/-- An ABORT arrives (R251). -/
def gotAbort (n vc : Nat) (s : Dev) : Dev :=
  let held := (tgetD (getPort s n).partials vc []).length
  freeIngress n vc held (modPort n (fun p => { p with partials := tdel p.partials vc }) (abortArrival n vc s))

def execAbort (n vc : Nat) (s : State) : Res :=
  runLevels (fun d => if acceptsFlit d n && decide (vc < 7) then gotAbort n vc (tookFlit n d) else d) s

/-- A FLOW flit arrives (R257). -/
def gotFlow (n : Nat) (off : BitVec 7) (s : Dev) : Dev := pumpEscape (modPort n (fun p => { p with peerOff := off }) s)

/-- FLOW_REFRESH_TIMER: every 1 µs while any VC is OFF (Table 7.4). -/
def flowRefresh (n : Nat) (s : Dev) : Dev :=
  let p := getPort s n
  if !linkOn s n || offShown p = 0 then s else atExpiry (some (p.flowAt + 1000)) (sendFlow n) s

def execFlowRefreshTimer (n : Nat) (s : State) : Res := runLevels (flowRefresh n) s

/-! ## Lanes (R254, R255, R280) -/

/-- A lane is declared failed: NARROW on a link with replay, the end of an Ethernet port. -/
def laneFails (n lane : Nat) (s : Dev) : Dev :=
  let p := getPort s n
  if !p.up then s
  else if n < 64 ∧ isEth s n = true then portDown n 2 s
  else modPort n (fun p => { p with
    failedLanes := p.failedLanes ||| (1 <<< lane), narrowSince := some (p.narrowSince.getD s.now), laneErrors := [] }) (layIdle n s)

def execLaneFailed (n lane : Nat) (s : State) : Res :=
  runLevels (fun d => if lane < 16 ∧ (n < 64 ∨ linkIsZal d n = true) then laneFails n lane d else d) s

/-- The lane groups of a link, widest first (Table 7.5, R372): width and first lane. -/
def laneGroups (s : Dev) (n : Nat) : List (Nat × Nat) :=
  if 64 ≤ n then [(8, 0), (8, 8), (4, 0), (4, 4), (4, 8), (4, 12)]
  else if !isSplit s n then [(4, 0), (4, 4), (2, 0), (2, 2), (2, 4), (2, 6)]
  else if n % 2 = 0 then [(2, 0), (2, 2)] else [(2, 4), (2, 6)]

/-- The clocks of a link that stopped in NARROW go on at a width (R255). -/
def resumeLink (now w : Nat) (p : FPort) : FPort :=
  let d := now - p.narrowSince.getD now
  { p with
    width := w, narrowSince := none, awaiting := none, missed := 0, txAt := now * 1024, openFlit := none
    replay := p.replay.map fun r => { r with at_ := r.at_ + d * 1024 } }

/-- The link resumes at a width: each sender replays from what its receiver expects next, and what waited follows. -/
def resumeAt (n w : Nat) (peerNext : BitVec 16) (s : Dev) : Dev :=
  updateOff n (releaseHeld n (replayFrom n peerNext (modPort n (resumeLink s.now w) s)))

/-- The link resumes after a lane failure, which LANE_NARROWED reports: bits 11:8 the new width, bits 7:0 the mask of failed lanes, of which
a ZAL link's lanes 8 to 15 have no bit (Table 12.12, log 180). -/
def resumeNarrow (n w : Nat) (peerNext : BitVec 16) (s : Dev) : Dev :=
  resumeAt n w peerNext
    (devEvent 0x33 1 (if n < 64 then bankFab n else bankIo (n - 64)) n (low w 4 * 256 + low (getPort s n).failedLanes.toNat 8) 0 s)

/-- The lanes of a link that cannot carry traffic: the failed ones, and the one held for a scan (R502). -/
def badLanes (p : FPort) : BitVec 16 :=
  p.failedLanes ||| (match p.scanLane with | some l => 1 <<< l | none => 0)

/-- NARROW_COMPLETE (R255): the peer reports the lanes that failed at its end, and the flit it expects next. The narrowing for an
eye-margin scan is no lane failure and writes no event (R502). -/
def narrowDone (n peerLanes : Nat) (peerNext : BitVec 16) (s : Dev) : Dev :=
  let p := getPort s n
  if !p.up || p.narrowSince.isNone then s
  else
    let bad := p.failedLanes ||| BitVec.ofNat 16 peerLanes
    let p := { p with failedLanes := bad }
    let s := setPort n p s
    match (laneGroups s n).find? fun g => (List.range g.1).all fun i => !(badLanes p).getLsbD (g.2 + i) with
    | some g =>
      let w := Nat.min g.1 p.width
      if p.scanLane.isNone then resumeNarrow n w peerNext s
      else if bad = 0 then resumeAt n w peerNext s
      else endScan n (resumeNarrow n w peerNext s)
    | none => if n < 64 then portDown n 2 s else endScan n s

/-! ## Route updates (R269 to R271) -/

/-- The destinations that a ROUTE_UPDATE names, for this adapter's tables. -/
def updateKeys (s : Dev) (u : RouteUpdate) : List (Nat × Nat) :=
  let g := s.routing.gActive
  if u.level = 1 ∧ u.origin / 2 ^ (18 - g) ≠ s.routing.selfEpid / 2 ^ (18 - g) then []
  else u.indices.map fun i => (u.level, i)

/-- A ROUTE_UPDATE arrives on port `n`. -/
def gotRoute (n : Nat) (u : RouteUpdate) (s : Dev) : Dev :=
  if s.routeHa then bump 0x23 n s
  else if 1 < u.kind ∨ 1 < u.level ∨ u.indices.length = 0 ∨ 120 < u.indices.length then s
  else
    let keys := updateKeys s u
    let f := fun (p : FPort) =>
      if u.kind = 0 then { p with withdrawn := p.withdrawn ++ keys.filter fun k => !p.withdrawn.contains k }
      else { p with withdrawn := p.withdrawn.filter fun k => !keys.contains k }
    let s' := modPort n f s
    let changed := if u.kind = 0 then lostKeys s s' else lostKeys s' s
    let s' := if u.hops = 0 ∨ changed.isEmpty = true then s' else floodRoutes u.kind (u.hops - 1) n changed s'
    pumpEscape s'

def execRouteUpdate (n : Nat) (u : RouteUpdate) (s : State) : Res :=
  runLevels (fun d => if decide (n < 64) && acceptsFlit d n then gotRoute n u (tookFlit n d) else d) s

/-! ## Transit (R267, R272, R401) -/

/-- A packet of another endpoint as it is queued at a port. -/
def transitPkt (vc : Nat) (p : Packet) (s : Dev) : EgressPkt := ⟨p, vc, phTc p.hdr, none, s.now, 0, false, none⟩

/-- A packet of which only the header is known, with the length that it names (R82). -/
def shapeOf (h : BitVec 128) : Packet where
  hdr := h
  desc := if pkIsReq (phOp h) ∧ phIndex h = 0 then some 0 else none
  payload := List.replicate (phPay h) 0
  glaze := 0
  cipher := if phEnc h then some 0 else none
  flaw := false

/-- The header of a packet for another endpoint has been routed (R272): where the scheduler of its port would let it start now, with
nothing queued before it, its egress starts. Else the packet is stored. -/
def headerRouted (n vc : Nat) (h : BitVec 128) (s : Dev) : Dev :=
  match routeTransit s vc (phDst h) with
  | .port m v =>
    let e := transitPkt vc (shapeOf h) s
    if v = vc ∧ (getPort s m).queue.isEmpty = true ∧ headEligible s m e = true then
      let s := enqueue m e s
      (match (getPort s m).queue with
       | e :: _ =>
         modPort n (fun p => setForwards vc (forwardsOf p vc ++ [⟨m, h, padLen e.p⟩]) p) (leaveQueue m e.tc (queueNo e) e s)
       | [] => s)
    else s
  | _ => s

/-- A packet for another endpoint is complete at port `n` on a VC: what has not left of one that is being forwarded follows it, another
is queued at the port of its route. -/
def transit (n vc : Nat) (p : Packet) (bad : Bool) (s : Dev) : Dev :=
  let l := forwardsOf (getPort s n) vc
  let free := freeIngress n vc (padLen p)
  match l.find? fun f => f.hdr == p.hdr with
  | some f =>
    let s := modPort n (setForwards vc (l.erase f)) s
    if bad then free (abortOne vc f (bump 0x29 0 s))
    else free (if f.port < 64 then sendBytes f.port f.left (.packet f.port vc p) s else s)
  | none =>
    if bad then free (bump 0x29 0 s)
    else
      match routeTransit s vc (phDst p.hdr) with
      | .here => s
      | .port m v => free (enqueue m { transitPkt vc p s with vc := v } s)
      | .wait => waitEscape (some (n, vc)) (transitPkt vc p s) s
      | .none => free (bump 0x28 0 s)

/-- TRANSIT_PACKET. An Ethernet port forwards nothing (R280). -/
def transitPacket (n vc : Nat) (p : Packet) (bad : Bool) (s : Dev) : Dev :=
  if !(getPort s n).up || !dataOn s || phDst p.hdr = s.routing.selfEpid || decide (64 ≤ n) then s
  else if isEth s n then bump 0x26 n s
  else if 6 < vc then s
  else transit n vc { p with flaw := false } (bad || p.flaw) s

def execTransitPacket (n vc : Nat) (p : Packet) (uncorrectable : Bool) (s : State) : Res :=
  runLevels (transitPacket n vc p uncorrectable) s

/-- A packet has waited out ESC_WAIT: it takes an eligible port, moves to VC1, or is dropped (R267). -/
def escapeNow (w : EscWaiting) (s : Dev) : Dev :=
  let s := pumpEscape s
  if !(s.escWaiting.any fun x => x.id == w.id) then s
  else
    leaveEscape w (match escapePort s w.e with
      | some n => enqueue n { w.e with vc := 1 } s
      | none => bump 0x27 0 s)

/-- ESC_WAIT_EXPIRY. -/
def escWaitExpiry (id : Nat) (s : Dev) : Dev :=
  match s.escWaiting.find? fun w => w.id == id with
  | none => s
  | some w => atExpiry (some (w.since + s.routing.escWait)) (escapeNow w) s

def execEscWaitExpiry (waiting : Nat) (s : State) : Res := runLevels (escWaitExpiry waiting) s

/-! ## PFC (R278) -/

/-- `t` quanta of 512 bit times at a port, in ns: 800 or 400 Gbit/s. -/
def quantaNs (s : Dev) (n t : Nat) : Nat := if isSplit s n then ceilDiv (t * 128) 100 else ceilDiv (t * 64) 100

/-- A PFC frame arrives. -/
def gotPfc (n enable : Nat) (times : List Nat) (s : Dev) : Dev :=
  (List.range 8).foldl (fun s i =>
    if enable.testBit i then modPort n (fun p => { p with pfc := tset p.pfc i (s.now + quantaNs s n (times.getD i 0)) }) s else s) s

def execPfcFrameReceive (n enable : Nat) (times : List Nat) (s : State) : Res :=
  runLevels (fun d => if (getPort d n).up && isEth d n then gotPfc n enable times d else d) s

/-- PFC_PAUSE_EXPIRY: a pause runs out. -/
def pfcExpiry (n i : Nat) (s : Dev) : Dev :=
  atExpiry (tget (getPort s n).pfc i) (modPort n fun p => { p with pfc := tdel p.pfc i }) s

def execPfcPauseExpiry (n priority : Nat) (s : State) : Res := runLevels (pfcExpiry n priority) s

/-- PFC_XOFF_REFRESH: an XOFF is sent again at half its time. -/
def xoffRefresh (n i : Nat) (s : Dev) : Dev :=
  let p := getPort s n
  if !(p.up && isEth s n && (offShown p).getLsbD i) then s
  else
    atExpiry ((tget p.xoffAt i).map fun t => t + quantaNs s n 0xFFFF / 2) (fun s =>
      let s := pumpLeaving n s
      if (offShown (getPort s n)).getLsbD i then sendPfc n (1 <<< i) (1 <<< i) s else s) s

def execPfcXoffRefresh (n priority : Nat) (s : State) : Res := runLevels (xoffRefresh n priority) s

/-! ## Registers of chapter 7 -/

/-- FAB_VC_THRESH_A or _B of physical port `p` is written (R511). -/
def vcThreshWrite (p : Nat) (halfB : Bool) (v : U64) (s : Dev) : Dev :=
  let f := getFab s p
  updateOff (2 * p + b2n halfB) (setFab p (if halfB then { f with threshB := v } else { f with threshA := v }) s)

def execFabVcThreshWrite (port : Nat) (halfB : Bool) (value : U64) (s : State) : Res :=
  runLevels (fun d => if port < 32 then vcThreshWrite port halfB value d else d) s

/-- RTG_SELF_EPID is written (R536). -/
def selfEpidWrite (v : U64) (s : Dev) : Dev := { s with routing := { s.routing with selfEpid := fld v 17 0 } }

def execRtgSelfEpidWrite (value : U64) (s : State) : Res := runLevels (selfEpidWrite value) s

/-! ## Commands of chapter 7 -/

/-- RTG_WRITE: entries of the shadow bank, which has 2^G and 2^(18 − G) of them (R264, R265). -/
def rtgWriteBad (g : Nat) (l : List RouteWrite) : Option Nat :=
  (l.find? fun w => !(decide (w.table < 2) && decide (w.index < if w.table = 0 then 2 ^ g else 2 ^ (18 - g))
    && decide (fld w.entry 255 135 = 0))).map fun _ => 8

def writeRoute (r : Routing) (w : RouteWrite) : Routing :=
  if w.table = 0 then
    (if r.bank then { r with groupA := tset r.groupA w.index w.entry } else { r with groupB := tset r.groupB w.index w.entry })
  else
    (if r.bank then { r with memberA := tset r.memberA w.index w.entry } else { r with memberB := tset r.memberB w.index w.entry })

def rtgWrite (h : Cmd) (l : List RouteWrite) : Dev → Dev :=
  fun s => command 0x0503 h false (rtgWriteBad s.routing.g l) (fun c s => ok c h { s with routing := l.foldl writeRoute s.routing }) s

def execRtgWrite (h : Cmd) (writes : List RouteWrite) (s : State) : Res := runLevels (rtgWrite h writes) s

/-- RTG_SWAP (R265): the shadow bank becomes active under the G now set, and learned withdrawals go. -/
def rtgSwap (h : Cmd) : Dev → Dev :=
  command 0x0504 h false none fun c s =>
    let r := s.routing
    let s := { s with
      routing := { r with bank := !r.bank, swaps := r.swaps + 1, gActive := r.g }
      ports := tmap s.ports fun _ p => { p with withdrawn := [] } }
    ok c h (pumpEscape s)

def execRtgSwap (h : Cmd) (s : State) : Res := runLevels (rtgSwap h) s

/-- EP_MAP (R268). -/
def epMapSet (h : Cmd) (l : Nat) (e : U32) : Dev → Dev :=
  command 0x0505 h false (firstBad [(8, decide (l < 2 ^ 18)), (12, decide (fld e 30 18 = 0))]) fun c s =>
    ok c h { s with routing := { s.routing with epMap := tset s.routing.epMap l e } }

def execEpMap (h : Cmd) (logical : Nat) (entry : U32) (s : State) : Res := runLevels (epMapSet h logical entry) s

/-- The packets of this adapter that wait at an Ethernet port for an endpoint are routed again: one without an entry is held (R268, R277,
log 179). -/
def rerouteNeigh (epid : Nat) (s : Dev) : Dev :=
  let mine := fun (n : Nat) (e : EgressPkt) => isEth s n && phDst e.p.hdr == epid
  let l := s.ports.flatMap fun p => p.2.queue.filter (mine p.1)
  if l.isEmpty then s
  else
    l.foldl (fun s e => reroute e s)
      { s with ports := tmap s.ports fun n p => retag s { p with queue := p.queue.filter fun e => !mine n e } }

/-- NEIGH_SET (R277): an entry with V clear leaves the table, which holds 4,096. A packet that waits follows its endpoint's entry. -/
def neighSet (h : Cmd) (p : NeighP) : Dev → Dev :=
  command 0x0506 h false
    (firstBad [(8, decide (p.epid < 2 ^ 18)), (12, decide (p.v < 2)), (40, decide (p.vlan < 4096)), (42, decide (p.port < 64))])
    fun c s =>
    let t := s.routing.neigh
    if p.v = 0 then ok c h (rerouteNeigh p.epid { s with routing := { s.routing with neigh := tdel t p.epid } })
    else if (tget t p.epid).isNone && decide (4096 ≤ t.length) then refuse c h csNoFit s
    else
      let moved := (tget t p.epid).any fun x => x.port != p.port
      let s := { s with routing := { s.routing with neigh := tset t p.epid p } }
      ok c h (if moved then rerouteNeigh p.epid s else s)

def execNeighSet (h : Cmd) (p : NeighP) (s : State) : Res := runLevels (neighSet h p) s

end Sys2Proof.Machine
end

