-- ==== Sys2Proof/Machine/Items.lean ====
section
/-!
DEFINITION. Sys2Proof/Machine/Items.lean: work items on the transform engines: dispatch, translation of their operands, range locks
and start (R127, R138, R140, R153 to R158, R171, R179, R184, R185, R190 to R192).
-/
namespace Sys2Proof.Machine

/-! ## Items on engines -/

/-- Engine of an item that has been dispatched. -/
def stageEngine : ItemStage → Option Nat
  | .queued => none
  | .waiting e => some e
  | .walking e => some e
  | .resident e => some e
  | .waitLock e => some e
  | .aside e => some e
  | .writing e => some e

/-- Items at an engine; those of them that are resident (R155). -/
def itemsAt (s : Dev) (e : Nat) : List Item := s.items.filter fun i => stageEngine i.stage == some e
def residentAt (s : Dev) (e : Nat) : Nat :=
  s.items.countP fun i => i.stage == .resident e || i.stage == .waitLock e || i.stage == .walking e || i.stage == .writing e

/-- Issue cycles of an item: those of its granules. -/
def itemCycles (s : Dev) (i : Item) : Nat :=
  match progOf s i.prog with
  | some p => i.len / Nat.max 1 p.inGran * p.cycles
  | none => 0

/-- Queued cycles of an engine (R154, R491). -/
def engineLoad (s : Dev) (e : Nat) : Nat :=
  let work := (itemsAt s e).foldl (fun n i => n + itemCycles s i) 0
  match (getPower s (.engine e)).st with
  | .standby => work + 72
  | .meringue => work + 432
  | _ => work

/-- Engines of a set that are in service. -/
def inService (s : Dev) (l : List Nat) : List Nat := l.filter fun e => (getEngine s e).mode == .service

/-- The engine with the fewest queued cycles, the lowest of equals (R154). -/
def bestEngine (s : Dev) (l : List Nat) : Option Nat :=
  (inService s l).foldl (fun b e =>
    match b with
    | none => some e
    | some x => if engineLoad s e < engineLoad s x ∨ (engineLoad s e = engineLoad s x ∧ e < x) then some e else b) none

/-! ## Range locks (R192) -/

/-- Under which an item holds its locks: the holder that its write ends, or the item itself. -/
def lockKey (i : Item) : Nat := i.token.getD i.id

/-- The physical 128-byte lines of the pieces of an item's output. -/
def itemLines (i : Item) : List Nat :=
  (i.outAt.flatMap fun x =>
    (List.range ((x.2.1 + (x.2.2 - 1)) / 128 + 1 - x.2.1 / 128)).map fun k => x.1 * 2 ^ 52 + x.2.1 / 128 + k).eraseDups

/-- A lock is held until its holder's write is ordered. -/
def lockLive (s : Dev) (k : Nat) : Bool := (s.xlt.holders.any fun h => h.token == k) || s.items.any fun i => lockKey i == k

/-- The locks that are still held. -/
def dropLocks (s : Dev) : Dev := { s with locks := s.locks.filter fun l => lockLive s l.2 }

/-- The item can take all its lines: none is locked by another, and no other asked for one before. -/
def lockFree (s : Dev) (i : Item) : Bool :=
  let before := s.lockQ.takeWhile fun x => x.2 != lockKey i
  (itemLines i).all fun l => !(s.locks.any fun x => x.1 == l && x.2 != lockKey i) && !(before.any fun x => x.1 == l)

/-- The target of an item in Millefeuille, as the item reads it once it has its locks. -/
def readTarget (s : Dev) (i : Item) : Option ReadData :=
  if i.outAt.any fun x => x.1 != 1 then none
  else
    let (bs, bad) := readPieces s (i.outAt.map fun x => (x.2.1, x.2.2))
    some ⟨bs, bad, false⟩

/-- The item takes its lines and reads its target. -/
def takeLocks (e : Nat) (i : Item) (s : Dev) : Dev :=
  modItem i.id (fun x => { x with stage := .resident e, snap := readTarget s i })
    { s with
      lockQ := s.lockQ.filter fun x => !(x.2 == lockKey i)
      locks := s.locks ++ (itemLines i).map fun l => (l, lockKey i) }

/-- The item asks for its lines, behind those who asked before. -/
def askLocks (e : Nat) (i : Item) (s : Dev) : Dev :=
  modItem i.id (fun x => { x with stage := .waitLock e })
    { s with lockQ := s.lockQ ++ (itemLines i).map fun l => (l, lockKey i) }

/-- An item whose operands are translated runs, or waits for its range locks, if its program reads the target. -/
def lockItem (e : Nat) (p : Program) (id : Nat) (s : Dev) : Dev :=
  match findItem s id with
  | none => s
  | some i =>
    let s := dropLocks s
    if p.tgtGran = 0 then modItem id (fun x => { x with stage := .resident e }) s
    else if lockFree s i then takeLocks e i s
    else askLocks e i s

/-! ## Operands (R127, R138, R140, R192) -/

/-- On whose behalf an engine translates an item's operands (Table 4.6): the entry or the inbound packet that dispatched it. -/
def itemWho (s : Dev) (e : Nat) (i : Item) : Requestor :=
  .engine e i.id i.qpn (match i.arr, i.dest with
    | some _, .target qpn _ _ wkey _ => some (((getQp s qpn).map fun q => q.p.remEpid).getD 0, wkIndex wkey)
    | _, _ => none)

/-- The output range that an item translates before it runs, for a read and a write: that of a program that reads it (R192). A program
that reads no target has its result writes translated as they are issued (R127). -/
def earlyOut (p : Program) (out : List (Nat × Nat × Nat)) : List (Nat × Nat × Nat) := if p.tgtGran = 0 then [] else out

/-- Access to an output range that the program reads. -/
def accBoth : BitVec 3 := accRead ||| accWrite

/-- What the translation of an item's operands finds. -/
inductive Operands where
  | miss (space page : Nat) (acc : BitVec 3)
  | got (src out : List (Nat × Nat × Nat))
  deriving DecidableEq, Repr

/-- The operand pieces of an item, translated: its source first, then the whole of an output range that it reads. -/
def itemOperands (s : Dev) (i : Item) (p : Program) (out : List (Nat × Nat × Nat)) : Operands :=
  match transPieces s i.slice accRead i.src with
  | .inr (sp, page) => .miss sp page accRead
  | .inl a =>
    match transPieces s i.slice accBoth (earlyOut p out) with
    | .inr (sp, page) => .miss sp page accBoth
    | .inl b => .got a b

/-- A space of an item's operands lies behind a port that is closed now. -/
def operandsClosed (s : Dev) (i : Item) : Bool := (i.src ++ i.out).any fun x => !canWrite s x.1

/-- The output range of an item that writes a window. -/
def windowOut (w : Window) (off n : Nat) : List (Nat × Nat × Nat) := if n = 0 then [] else [(w.space, w.base + off, n)]

/-- A responder item is abandoned: its packet is answered by `f` (R140). -/
def abandonItem (id : Nat) (f : Dev → Dev) (s : Dev) : Dev := f (dropItems (fun i => i.id == id) s)

/-- An operand of a responder item is cached without the permission: the item is abandoned and its packet answered as for a fault
(R119, R140). -/
def respondFault (i : Item) (p : Packet) (sp page reason : Nat) (ats : Bool) (acc : BitVec 3) (who : Requestor) (s : Dev) : Dev :=
  abandonItem i.id (fun s =>
    let s := fault i.slice sp page reason ats acc who s
    sendNak i.qpn nakPageWait (pageWaitDelay s i.slice sp page) (phPsn p.hdr) s) s

/-- A holder of an operation is now an engine's. -/
def engineHolds (e t : Nat) (s : Dev) : Dev :=
  { s with xlt := { s.xlt with holders := s.xlt.holders.map fun h => if h.token = t then { h with kind := .engine, id := e } else h } }

/-- The engine holds the range that an item writes: a responder item holds it since its window check (R114, R142). -/
def holdOut (e : Nat) (i : Item) (out : List (Nat × Nat × Nat)) (s : Dev) : Option Nat × Dev :=
  match i.token with
  | some t => (some t, engineHolds e t s)
  | none =>
    if out.isEmpty then (none, s)
    else
      let (t, s) := addHolder s.freeCtr i.slice none .engine e s
      (some t, s)

/-- An item's operands have their translations, which it holds, and it starts: it keeps the engine's seed and its program's AUX region as
they are now (R142, R171, R179). Where its output has been translated, its packet is no longer needed. -/
def runItemAt (e : Nat) (i : Item) (p : Program) (src out : List (Nat × Nat × Nat)) (s : Dev) : Dev :=
  let (a, s) := if src.isEmpty then (none, s)
    else
      let (t, s) := addHolder s.freeCtr i.slice none .engine e s
      (some t, s)
  let (b, s) := holdOut e i out s
  let s := touchPieces i.slice accRead i.src (touchPieces i.slice accBoth (earlyOut p i.out) s)
  let begun := fun (x : Item) =>
    { x with
      srcAt := src, outAt := out, srcToken := a, token := b, seed := (getEngine s e).seed, aux := p.aux
      arr := if p.tgtGran = 0 then x.arr else none, out := i.out }
  lockItem e p i.id (modItem i.id begun s)

/-- An item waits at its engine for the walk of a page. -/
def walkItem (e : Nat) (i : Item) (sp page : Nat) (acc : BitVec 3) (s : Dev) : Dev :=
  missWalk i.slice sp page acc (itemWho s e i)
    (modItem i.id (fun x => { x with stage := if i.made.isSome then .writing e else .walking e, out := i.out }) s)

/-- An item waits for a page that its lookup missed; a responder item whose page is cached without the permission is answered as for a
fault. -/
def missItem (e : Nat) (i : Item) (sp page : Nat) (acc : BitVec 3) (s : Dev) : Dev :=
  match i.arr, (heldTrans s i.slice sp page).bind fun t => lacksPerm acc t.r t.w with
  | some a, some reason =>
    if viaAts s i.slice sp then walkItem e i sp page acc s
    else respondFault i a.p sp page reason false acc (itemWho s e i) s
  | _, _ => walkItem e i sp page acc s

/-- A responder item whose queue pair has stopped meanwhile is abandoned, and its packet answered as one that arrives. -/
def whileOpen (i : Item) (a : Arrival) (go : Dev → Dev) (s : Dev) : Dev :=
  match getQp s i.qpn with
  | none => abandonItem i.id id s
  | some q =>
    if !(q.st == .live || q.st == .drain) then abandonItem i.id id s
    else if q.held.isSome || q.frozen.isSome then abandonItem i.id (nakBusyFor i.qpn 100 (phPsn a.p.hdr)) s
    else go s

/-- The packet of a responder item is accepted: POISON_LANDED first, where its payload is poisoned (R190, R400). -/
def acceptItem (i : Item) (a : Arrival) (op wkey off n : Nat) (yellow : Bool) (s : Dev) : Dev :=
  acceptData i.qpn a.link a.p a.since yellow
    (if isPoison a.p && op == pkTransform then poisonLanded i.qpn i.slice (wkIndex wkey) off n s else s)

/-- A responder item starts: an output range that its program reads is translated, then its packet is metered and its PSN accepted (R116,
R127, R140, R190, R300). Its window has been checked: a program that a load has put into its slot meanwhile may pass the window's end. -/
def startRespond (e : Nat) (i : Item) (g : Program) (a : Arrival) (op wkey off : Nat) (s : Dev) : Dev :=
  whileOpen i a (fun s =>
    let n := outBytes g i.len
    match (tget s.windows (wkIndex wkey)).filter fun w => decide (off + n ≤ w.length) with
    | none => abandonItem i.id (accessRefused i.qpn (wkIndex wkey) a.p) s
    | some w =>
      let out := windowOut w off n
      let i := { i with out := out }
      if pageRefused s i.slice out then abandonItem i.id (accessRefused i.qpn (wkIndex wkey) a.p) s
      else if operandsClosed s i then abandonItem i.id (nakBusyFor i.qpn 100 (phPsn a.p.hdr)) s
      else
        match itemOperands s i g out with
        | .miss sp page acc => missItem e i sp page acc s
        | .got src at_ =>
          if g.tgtGran = 0 then runItemAt e i g src at_ s
          else
            meteredOr (abandonItem i.id id) i.qpn a.p (fun yellow s =>
              acceptItem i a op wkey off n yellow (runItemAt e i g src at_ s)) s) s

/-- An item starts on its engine: its operands are translated first. -/
def startItem (e : Nat) (i : Item) (s : Dev) : Dev :=
  match progOf s i.prog, i.arr, i.dest with
  | none, _, _ => s
  | some p, some a, .target _ _ op wkey off => startRespond e i p a op wkey off s
  | some p, _, _ =>
    match itemOperands s i p i.out with
    | .miss sp page acc => missItem e i sp page acc s
    | .got src out => runItemAt e i p src out s

/-- The engine can start a waiting item: its slice is LIVE (R55), and the ports of a requester item's operands are open (R366). -/
def mayStartItem (s : Dev) (e : Nat) (i : Item) : Bool :=
  i.stage == .waiting e && sliceLive s i.slice && (i.arr.isSome || !operandsClosed s i)

/-- The engine takes the next of its waiting items while it has a context free. -/
def fillEngine (e : Nat) : Nat → Dev → Dev
  | 0, s => s
  | n + 1, s =>
    if (getPower s (.engine e)).st ≠ .active ∨ 4 ≤ residentAt s e then s
    else
      match s.items.find? (mayStartItem s e) with
      | none => s
      | some i => fillEngine e n (startItem e i s)

/-- The item has left its engine: its place is taken, and an engine that quiesces with nothing left goes to its test (R159). -/
def leaveEngine (e : Nat) (s : Dev) : Dev :=
  let s := fillEngine e 4 s
  if !(itemsAt s e).isEmpty then s
  else
    let s := setPower (.engine e) { getPower s (.engine e) with idleSince := s.now } s
    let x := getEngine s e
    if x.mode = .quiescing then { s with engines := tset s.engines e { x with mode := .selfTest, quiesceSince := s.now } } else s

/-! ## Results of a program that reads no target (R127, R190) -/

/-- A range of a space, cut at its pages. -/
def cutPages (x : Nat × Nat × Nat) : List (Nat × Nat × Nat) :=
  (pagesOf x.2.1 x.2.2).map fun p =>
    let lo := Nat.max x.2.1 (p * 4096)
    (x.1, lo, Nat.min (x.2.1 + x.2.2) (p * 4096 + 4096) - lo)

/-- The message that holds a PSN carries poison (R216, R400). -/
def poisonMsgAt (psn : U32) (r : Responder) : Responder :=
  let owner := r.msgs.foldl (fun (b : Option U32) m =>
    if seqLe m.first psn then
      match b with
      | none => some m.first
      | some x => if seqLt x m.first then some m.first else b
    else b) none
  match owner with
  | some f => modMsg f (fun m => { m with poisoned := true }) r
  | none => r

/-- The window and the PSN of an item's output, where it is a responder's. -/
def outWindow (i : Item) : Option (Nat × U32) :=
  match i.dest with
  | .target _ psn _ wkey _ => some (wkIndex wkey, psn)
  | _ => none

/-- One result write, with its translation, for operation `op` of the item; its engine holds it until it is ordered (R142). -/
def putPage (e op : Nat) (i : Item) (x : Nat × Nat × Nat) (l : List (Nat × Nat)) (s : Dev) : Dev :=
  let (bs, bad) := i.made.getD ([], false)
  let (t, s) := addHolder op i.slice ((outWindow i).map (·.1)) .engine e s
  match l with
  | [] => endHolder (some t) s
  | p :: _ =>
    storeFor (some t) x.1 p.1 (bs.take x.2.2) bad false i.slice (some i.qpn) ((outWindow i).map (·.2)) none
      (touchTrans i.slice x.1 x.2.1 x.2.2 accWrite s)

/-- The result writes before the last leave while their pages translate; the item with what is left. -/
def putPages (e op : Nat) : List (Nat × Nat × Nat) → Item → Dev → Item × Dev
  | [], i, s => (i, s)
  | [_], i, s => (i, s)
  | x :: y :: r, i, s =>
    match translate s i.slice x.1 x.2.1 x.2.2 accWrite with
    | .inr _ => (i, s)
    | .inl l =>
      putPages e op (y :: r) { i with out := y :: r, made := i.made.map fun m => (m.1.drop x.2.2, m.2) } (putPage e op i x l s)

/-- The item has written everything and leaves its engine. -/
def endItem (i : Item) (s : Dev) : Dev :=
  endHolder i.token { s with items := s.items.filter fun x => !(x.id == i.id) }

/-- The last result write of an item leaves: a responder's packet is metered before it, and accepted after it (log 171). -/
def lastPage (i : Item) (put : Dev → Dev) (s : Dev) : Dev :=
  let bad := (i.made.getD ([], false)).2
  match i.arr, i.dest with
  | some a, .target qpn psn pk wkey off =>
    meteredOr (abandonItem i.id id) qpn a.p (fun yellow s =>
      let s := endItem i (put s)
      let s := if bad then modRsp qpn (poisonMsgAt psn) s else s
      let n := ((progOf s i.prog).map fun g => outBytes g i.len).getD 0
      dataPlaced qpn (acceptItem i a pk wkey off n yellow s)) s
  | _, .own g _ => ownRowDone g bad (endItem i (put s))
  | _, _ => endItem i (put s)

/-- An item that has made its output writes what it can. A page without a translation makes it wait; for a responder item, one with a
FAILED record fails the window check, and a packet whose queue pair has stopped is answered as one that arrives. -/
def writeOn (e : Nat) (i : Item) (s : Dev) : Dev :=
  let op := i.token.getD s.freeCtr
  let go := fun (s : Dev) =>
    match i.arr.filter (fun _ => pageRefused s i.slice i.out) with
    | some a => abandonItem i.id (accessRefused i.qpn (((outWindow i).map (·.1)).getD 0) a.p) s
    | none =>
      let (i, s) := putPages e op i.out i s
      let s := modItem i.id (fun _ => i) s
      match i.out with
      | [] => lastPage i id s
      | x :: _ =>
        match translate s i.slice x.1 x.2.1 x.2.2 accWrite with
        | .inr page => missItem e i x.1 page accWrite s
        | .inl l => lastPage i (putPage e op i x l) s
  match i.arr with
  | some a => whileOpen i a go s
  | none => go s

/-- The item writes on; its engine's context is free once it has ended or stands aside. In fault-stop nothing is delivered (R55). -/
def writeItem (e : Nat) (id : Nat) (s : Dev) : Dev :=
  match findItem s id with
  | none => s
  | some i =>
    let s := if sliceLive s i.slice then writeOn e i s else dropItems (fun x => x.id == id) s
    if (findItem s id).any fun i => i.stage == .writing e then s else leaveEngine e s

/-- The walk that an item waited on has brought its translation: the item goes on; one that was set aside waits for a context again, or
goes on writing. -/
def resumeItem (id : Nat) (s : Dev) : Dev :=
  match findItem s id with
  | none => s
  | some i =>
    match i.stage with
    | .walking e =>
      if mayStartItem s e { i with stage := .waiting e } then startItem e i s
      else modItem id (fun i => { i with stage := .waiting e }) s
    | .aside e =>
      if i.made.isSome then writeItem e id (modItem id (fun i => { i with stage := .writing e }) s)
      else fillEngine e 4 (modItem id (fun i => { i with stage := .waiting e }) s)
    | .writing e => writeItem e id s
    | _ => s

/-! ## Dispatch (R154, R184) -/

/-- The program of an item's slot cannot run it: a responder's packet is answered by `f`, and an own row's COMBINE fails (R185, R191,
log 126). -/
def refuseItem (i : Item) (f : Packet → Dev → Dev) (s : Dev) : Dev :=
  match i.arr with
  | some a => abandonItem i.id (f a.p) s
  | none => abandonItem i.id (failOwner i.qpn (itemEntry s i) stLocalAccess stLocalAccess) s

/-- An item under a program that a load has put into its slot since the item was formed (R178, R184). -/
def underProgram (s : Dev) (g : Program) (i : Item) : Item :=
  match i.arr, i.dest, getQp s i.qpn with
  | some a, .target qpn psn op wkey _, some q =>
    (match findMsg q (phPsn a.p.hdr - u32 (phIndex a.p.hdr)) with
     | some m =>
       let (k, off) := transformAt q m.desc (phIndex a.p.hdr) g
       if op = pkTransform then { i with prog := g.id, msgGran := k, dest := .target qpn psn op wkey off }
       else if op = pkColl then { i with prog := g.id, msgGran := k }
       else { i with prog := g.id, arg := if i.weight.isSome then u32 g.auxBytes else i.arg }
     | none => { i with prog := g.id, arg := if i.weight.isSome then u32 g.auxBytes else i.arg })
  | _, _, _ => { i with prog := g.id, arg := if i.weight.isSome then u32 g.auxBytes else i.arg }

/-- An item takes its program as it is dispatched: that of its slot, or the one its entry bound (R184). -/
def bindItem (i : Item) (go : Dev → Dev) (s : Dev) : Dev :=
  match i.slot with
  | none => go s
  | some k =>
    let wkey := match i.dest with
      | .target _ _ _ w _ => w
      | _ => 0
    match findProg s i.slice k with
    | none => refuseItem i (accessRefused i.qpn (wkIndex wkey)) s
    | some g =>
      if i.len % Nat.max 1 g.inGran ≠ 0 then refuseItem i (fun p => lengthRefused i.qpn p none) s
      else if g.id = i.prog then go s
      else go (modItem i.id (underProgram s g) s)

/-- ITEM_DISPATCH (R154): the item goes to the least loaded engine of its program's set, which wakes if it sleeps. An item that has
been dispatched and waits is started, if its engine can. -/
def itemDispatch (id : Nat) (s : Dev) : Dev :=
  match findItem s id with
  | none => s
  | some i =>
    if !sliceLive s i.slice then s
    else
      match i.stage with
      | .queued =>
        bindItem i (fun s =>
          match ((findItem s id).bind fun i => progOf s i.prog).bind fun p => bestEngine s p.engines with
          | none => s
          | some e => fillEngine e 4 (startWake (.engine e) (modItem id (fun i => { i with stage := .waiting e }) s))) s
      | .waiting e => fillEngine e 4 s
      | _ => s

def execItemDispatch (item : Nat) (s : State) : Res := runRetire (itemDispatch item) s

/-- RANGE_LOCK_GRANT (R192): an item that waits takes its lines once they are free and its turn has come. -/
def rangeLockGrant (id : Nat) (s : Dev) : Dev :=
  match findItem s id with
  | none => s
  | some i =>
    match i.stage with
    | .waitLock e =>
      let s := dropLocks s
      if lockFree s i then takeLocks e i s else s
    | _ => s

def execRangeLockGrant (item : Nat) (s : State) : Res := run (rangeLockGrant item) s

end Sys2Proof.Machine
end

