-- ==== Sys2Proof/Machine/Formats.lean ====
section
/-!
DEFINITION. Sys2Proof/Machine/Formats.lean: the number formats of the transform engines and of accumulate-in-place (R160 to
R170, R213): exact values, rounding, special values, and microscaling blocks.
-/
namespace Sys2Proof.Machine

/-- A value as the engines see it: NaN, an infinity, or exactly (-1)^neg × m × 2^e. -/
inductive Num where
  | nan (neg : Bool)
  | inf (neg : Bool)
  | fin (neg : Bool) (m : Nat) (e : Int)
  deriving DecidableEq, Repr

/-- What Table 5.2 says of a floating-point format: its fields, and its special values: 2 infinity and NaN, 1 NaN only at
exponent and mantissa all ones, 0 none. -/
structure FloatFmt where
  ebits : Nat
  mbits : Nat
  bias : Nat
  special : Nat
  deriving DecidableEq, Repr

/-- The floating-point format of a FMT code, or of the elements of a microscaling one (Tables 5.2 and 5.3). -/
def floatFmt : Nat → Option FloatFmt
  | 0x0 => some ⟨8, 23, 127, 2⟩
  | 0x1 => some ⟨8, 7, 127, 2⟩
  | 0x2 => some ⟨5, 10, 15, 2⟩
  | 0x3 => some ⟨4, 3, 7, 1⟩
  | 0x4 => some ⟨5, 2, 15, 2⟩
  | 0x8 => some ⟨4, 3, 7, 1⟩
  | 0x9 => some ⟨5, 2, 15, 2⟩
  | 0xA => some ⟨2, 3, 1, 0⟩
  | 0xB => some ⟨3, 2, 3, 0⟩
  | 0xC => some ⟨2, 1, 1, 0⟩
  | _ => none

def fp32 : FloatFmt := ⟨8, 23, 127, 2⟩
def bf16 : FloatFmt := ⟨8, 7, 127, 2⟩

/-- The code is an integer format; a microscaling one; a defined one (R160). -/
def fmtInt (f : Nat) : Bool := f == 5 || f == 6
def fmtMx (f : Nat) : Bool := decide (8 ≤ f) && decide (f ≤ 0xD)
def fmtOk (f : Nat) : Bool := decide (f ≤ 6) || fmtMx f

/-- Bits of an element in a register (Table 5.2, R166), and lanes. -/
def fmtBits (f : Nat) : Nat := if f = 0 ∨ f = 6 then 32 else if f = 1 ∨ f = 2 then 16 else 8
def fmtLanes (f : Nat) : Nat := 1024 / fmtBits f

/-- Bits of an element in a packed block, and bytes of a block (Table 5.5). -/
def mxBits (f : Nat) : Nat := if f = 0xA ∨ f = 0xB then 6 else if f = 0xC then 4 else 8
def mxBytes (f : Nat) : Nat := 1 + 4 * mxBits f

/-- emax of an element type (Table 5.3). -/
def mxEmax (f : Nat) : Int := if f = 8 then 8 else if f = 9 then 15 else if f = 0xA then 2 else if f = 0xB then 4 else if f = 0xC then 2 else 0

/-! ## Decoding -/

/-- The value of the bits of a floating-point format (R161). -/
def floatVal (f : FloatFmt) (x : Nat) : Num :=
  let neg := x.testBit (f.ebits + f.mbits)
  let ex := bitsN x (f.ebits + f.mbits - 1) f.mbits
  let ma := bitsN x (f.mbits - 1) 0
  let top := 2 ^ f.ebits - 1
  if f.special = 2 ∧ ex = top then (if ma = 0 then .inf neg else .nan neg)
  else if f.special = 1 ∧ ex = top ∧ ma = 2 ^ f.mbits - 1 then .nan neg
  else if ex = 0 then .fin neg ma (1 - (f.bias : Int) - f.mbits)
  else .fin neg (2 ^ f.mbits + ma) ((ex : Int) - f.bias - f.mbits)

/-- The exact value of an integer. -/
def intNum (z : Int) : Num := .fin (decide (z < 0)) z.natAbs 0

/-- The two's complement value of `n` bits. -/
def signedN (n x : Nat) : Int := if x.testBit (n - 1) then Int.ofNat (low x n) - Int.ofNat (2 ^ n) else Int.ofNat (low x n)

/-- A finite value scaled by a power of two. -/
def scaleNum (k : Int) : Num → Num
  | .fin s m e => .fin s m (e + k)
  | x => x

/-- The value of an element of a microscaling block with its scale byte (R160, R168). -/
def mxVal (f scale x : Nat) : Num :=
  if scale = 255 then .nan false
  else
    let k : Int := (scale : Int) - 127
    match floatFmt f with
    | some g =>
      match floatVal g x with
      | .fin s m e => .fin s m (e + k)
      | .inf s => .nan s
      | .nan s => .nan s
    | none => scaleNum (k - 6) (intNum (signedN 8 x))

/-- The value of an element of a format that is not a microscaling one. -/
def fmtVal (f x : Nat) : Num :=
  match floatFmt f with
  | some g => floatVal g x
  | none => intNum (signedN (fmtBits f) x)

/-! ## Exact arithmetic (R162, R164) -/

def isNan : Num → Bool
  | .nan _ => true
  | _ => false

def negNum : Num → Num
  | .nan s => .nan (!s)
  | .inf s => .inf (!s)
  | .fin s m e => .fin (!s) m e

def absNum : Num → Num
  | .nan _ => .nan false
  | .inf _ => .inf false
  | .fin _ m e => .fin false m e

/-- m × 2^e as a signed multiple of 2^b, for b at most e. -/
def mantAt (s : Bool) (m : Nat) (e b : Int) : Int :=
  let v := Int.ofNat (m * 2 ^ (e - b).toNat)
  if s then -v else v

/-- Exact sum; infinity minus infinity is NaN. A zero sum is -0 only where both terms are negative (IEEE 754). A NaN operand
gives a NaN, with the sign of the first. -/
def addNum : Num → Num → Num
  | .nan s, _ => .nan s
  | _, .nan s => .nan s
  | .inf s, .inf t => if s = t then .inf s else .nan false
  | .inf s, _ => .inf s
  | _, .inf s => .inf s
  | .fin s m e, .fin t n f =>
    let b := if e ≤ f then e else f
    let z := mantAt s m e b + mantAt t n f b
    if z = 0 then .fin (s && t) 0 0 else .fin (decide (z < 0)) z.natAbs b

/-- Exact product; zero times infinity is NaN. -/
def mulNum : Num → Num → Num
  | .nan s, _ => .nan s
  | _, .nan s => .nan s
  | .inf s, .inf t => .inf (s != t)
  | .inf s, .fin t n _ => if n = 0 then .nan false else .inf (s != t)
  | .fin s m _, .inf t => if m = 0 then .nan false else .inf (s != t)
  | .fin s m e, .fin t n f => .fin (s != t) (m * n) (e + f)

/-- Exact comparison of two values neither of which is NaN: a < b. -/
def ltNum : Num → Num → Bool
  | .inf s, .inf t => s && !t
  | .inf s, _ => s
  | _, .inf t => !t
  | .fin s m e, .fin t n f =>
    let b := if e ≤ f then e else f
    decide (mantAt s m e b < mantAt t n f b)
  | _, _ => false

def eqNum (a b : Num) : Bool := !isNan a && !isNan b && !ltNum a b && !ltNum b a

/-! ## Rounding (R162, R164, R167, R169, R170) -/

/-- What became of one element: its value, and whether a NaN was made of a value, written as zero, or the element
saturated (R165). -/
structure Rounded where
  val : Num
  made : Bool
  zeroed : Bool
  sat : Bool
  deriving DecidableEq, Repr

def plain (x : Num) : Rounded := ⟨x, false, false, false⟩

/-- m × 2^e as a multiple of 2^q: to nearest with ties to even, or stochastically with a random value (R170). -/
def roundAt (m : Nat) (e q : Int) (r : Option Nat) : Nat :=
  if q ≤ e then m * 2 ^ (e - q).toNat
  else
    let sh := (q - e).toNat
    let lo := m >>> sh
    let rem := m % 2 ^ sh
    match r with
    | none => if 2 ^ sh < 2 * rem ∨ (2 * rem = 2 ^ sh ∧ lo % 2 = 1) then lo + 1 else lo
    | some r => if r < rem * 65536 / 2 ^ sh then lo + 1 else lo

/-- Exponent of the spacing of a format's values at the magnitude of m × 2^e. -/
def spacing (f : FloatFmt) (m : Nat) (e : Int) : Int :=
  let k := (Nat.log2 m : Int) + e
  let lowest := 1 - (f.bias : Int)
  (if lowest ≤ k then k else lowest) - f.mbits

/-- Largest finite value of a format as mantissa and exponent (Table 5.2). -/
def largest (f : FloatFmt) : Nat × Int :=
  let top : Int := (2 ^ f.ebits : Nat) - 1 - f.bias
  if f.special = 2 then (2 ^ (f.mbits + 1) - 1, top - 1 - f.mbits)
  else if f.special = 1 then (2 ^ (f.mbits + 1) - 2, top - f.mbits)
  else (2 ^ (f.mbits + 1) - 1, top - f.mbits)

/-- m × 2^e lies beyond n × 2^f. -/
def beyond (m : Nat) (e : Int) (n : Nat) (f : Int) : Bool :=
  let b := if e ≤ f then e else f
  decide (n * 2 ^ (f - b).toNat < m * 2 ^ (e - b).toNat)

/-- A value past the largest finite one (Table 5.4). -/
def overflowNum (f : FloatFmt) (sat neg : Bool) : Rounded :=
  let (m, e) := largest f
  if sat || f.special = 0 then ⟨.fin neg m e, false, false, true⟩
  else if f.special = 2 then plain (.inf neg)
  else ⟨.nan neg, true, false, false⟩

/-- Conversion of a value into a floating-point format (Table 5.4). -/
def toFloat (f : FloatFmt) (sat : Bool) (r : Option Nat) : Num → Rounded
  | .nan s => if f.special = 0 then ⟨.fin false 0 0, false, true, false⟩ else plain (.nan s)
  | .inf s => overflowNum f sat s
  | .fin s m e =>
    if m = 0 then plain (.fin s 0 0)
    else
      let q := spacing f m e
      let n := roundAt m e q r
      if beyond n q (largest f).1 (largest f).2 then overflowNum f sat s else plain (.fin s n q)

/-- A sum saturated to `n` bits of two's complement (R163). -/
def clampInt (n : Nat) (z : Int) : Int × Bool :=
  let hi : Int := (2 ^ (n - 1) : Nat) - 1
  let lo : Int := -((2 ^ (n - 1) : Nat) : Int)
  if hi < z then (hi, true) else if z < lo then (lo, true) else (z, false)

/-- The largest finite value of an integer format, with a sign (Table 5.2). -/
def largestInt (n : Nat) (neg : Bool) : Int :=
  let z : Int := (2 ^ (n - 1) : Nat) - 1
  if neg then -z else z

/-- Conversion of a value into an integer format (R163, Table 5.4). A value that two's complement of `n` bits does not hold
goes to the largest finite value with its sign; the lowest value of two's complement itself is kept (log 120). -/
def toInt (n : Nat) (r : Option Nat) : Num → Rounded
  | .nan _ => ⟨.fin false 0 0, false, true, false⟩
  | .inf s => ⟨intNum (largestInt n s), false, false, true⟩
  | .fin s m e =>
    let k := Int.ofNat (roundAt m e 0 r)
    let (z, sat) := clampInt n (if s then -k else k)
    ⟨intNum (if sat then largestInt n s else z), false, false, sat⟩

/-- A value as a signed integer, where it is one. -/
def numInt : Num → Int
  | .fin s m e => mantAt s m e (if e ≤ 0 then e else 0)
  | _ => 0

/-! ## Encoding -/

/-- The bits of a value that a floating-point format holds exactly; a NaN takes the canonical encoding (Table 5.4). -/
def floatBits (f : FloatFmt) (x : Num) : Nat :=
  let sign := fun (s : Bool) => b2n s * 2 ^ (f.ebits + f.mbits)
  let top := 2 ^ f.ebits - 1
  match x with
  | .nan s => sign s + top * 2 ^ f.mbits + (if f.special = 1 then 2 ^ f.mbits - 1 else 2 ^ (f.mbits - 1))
  | .inf s => sign s + top * 2 ^ f.mbits
  | .fin s m e =>
    if m = 0 then sign s
    else
      let q := spacing f m e
      let n := roundAt m e q none
      sign s + (if n < 2 ^ f.mbits then n else (q + f.mbits + f.bias).toNat * 2 ^ f.mbits + (n - 2 ^ f.mbits))

/-- The bits of an integer of `n` bits. -/
def intBits (n : Nat) (z : Int) : Nat := (BitVec.ofInt n z).toNat

/-- A rounded value as the bits of a format that is not a microscaling one. -/
def fmtEnc (f : Nat) (x : Num) : Nat :=
  match floatFmt f with
  | some g => floatBits g x
  | none => intBits (fmtBits f) (numInt x)

/-- Conversion into a format that is not a microscaling one. INT32 ignores the rounding mode (R169). -/
def convert (f : Nat) (sat : Bool) (r : Option Nat) (x : Num) : Rounded :=
  match floatFmt f with
  | some g => toFloat g sat (if f = 0 then none else r) x
  | none => toInt (fmtBits f) (if f = 6 then none else r) x

/-! ## Microscaling blocks (R166, R167) -/

/-- floor(log2 |x|) of a finite value that is not zero. -/
def exponentOf : Num → Option Int
  | .fin _ m e => if m = 0 then none else some ((Nat.log2 m : Int) + e)
  | _ => none

/-- The largest exponent of the values. -/
def maxExponent (l : List Num) : Option Int :=
  l.foldl (fun b x =>
    match b, exponentOf x with
    | none, y => y
    | some a, none => some a
    | some a, some y => some (if a ≤ y then y else a)) none

/-- One element of a block with a scale byte, always saturated. -/
def mxElement (f : Nat) (scale : Int) (r : Option Nat) (x : Num) : Nat × Bool :=
  let v := scaleNum (127 - scale) x
  match floatFmt f with
  | some g =>
    let y := toFloat g true r v
    (floatBits g y.val, y.sat)
  | none =>
    match scaleNum 6 v with
    | .fin s m e =>
      let k := roundAt m e 0 r
      let n := Nat.min k 127
      (intBits 8 (if s then -(n : Int) else n), decide (127 < k))
    | _ => (0, false)

/-- A block: its scale byte, its element bits, and what R165 counts. The random values are those of its elements. -/
structure Block where
  scale : Nat
  elems : List Nat
  made : Nat
  sat : Nat
  deriving DecidableEq, Repr

/-- A result of one lane: its value, whether an input was NaN, and whether the arithmetic saturated it (R165). -/
structure Lane where
  val : Num
  nanIn : Bool
  sat : Bool
  deriving DecidableEq, Repr

/-- A value that a lane only converts. -/
def laneOf (x : Num) : Lane := ⟨x, isNan x, false⟩

/-- Values quantised into one block (R167). -/
def quantise (f : Nat) (l : List (Lane × Option Nat)) : Block :=
  let vs := l.map (·.1.val)
  let special := fun (x : Num) => match x with
    | .fin _ _ _ => false
    | _ => true
  if vs.any special then ⟨255, vs.map fun _ => 0, l.countP fun p => !p.1.nanIn, l.countP (·.1.sat)⟩
  else
    match maxExponent vs with
    | none => ⟨0, vs.map fun _ => 0, 0, l.countP (·.1.sat)⟩
    | some k =>
      let x := k - mxEmax f + 127
      let scale : Int := if x < 0 then 0 else if 254 < x then 254 else x
      let es := l.map fun p => mxElement f scale p.2 p.1.val
      ⟨scale.toNat, es.map (·.1), 0, (l.zip es).countP fun p => p.1.1.sat || p.2.2⟩

/-- A block as Table 5.5 packs it. -/
def packBlock (f scale : Nat) (elems : List Nat) : List Byte :=
  natLe scale 1 ++ natLe (pack (elems.map fun e => (e, mxBits f))) (4 * mxBits f)

/-- Scale and elements of a packed block. -/
def unpackBlock (f : Nat) (bs : List Byte) : Nat × List Nat :=
  let v := leNat (bs.drop 1)
  (leNat (bs.take 1), (List.range 32).map fun j => bitsN v (j * mxBits f + mxBits f - 1) (j * mxBits f))

/-! ## The stochastic source (R170) -/

/-- The key of an item. -/
def itemKey (seed : U64) (slice qpn : Nat) (key : U32) : U64 :=
  seed ^^^ (BitVec.ofNat 64 slice <<< 55) ^^^ (BitVec.ofNat 64 qpn <<< 32) ^^^ key.zeroExtend 64

/-- The 16-bit random value of element `e`. -/
def rand16 (key : U64) (e : Nat) : Nat :=
  let z := key + BitVec.ofNat 64 (e + 1) * 0x9E3779B97F4A7C15
  let z := (z ^^^ (z >>> 30)) * 0xBF58476D1CE4E5B9
  let z := (z ^^^ (z >>> 27)) * 0x94D049BB133111EB
  let z := z ^^^ (z >>> 31)
  (z >>> 48).toNat

/-! ## Accumulate-in-place (R213) -/

/-- One element added to its target: FP32 or BF16, rounded once. -/
def accumulate (single : Bool) (target operand : Nat) : Nat × Rounded :=
  let f := if single then fp32 else bf16
  let a := floatVal f target
  let b := floatVal f operand
  let y := toFloat f false none (addNum a b)
  (floatBits f y.val, { y with made := isNan y.val && !isNan a && !isNan b })

end Sys2Proof.Machine
end

