-- ==== Sys2Proof/Machine/Isa.lean ====
section
/-!
DEFINITION. Sys2Proof/Machine/Isa.lean: the instructions of the transform engines: their words, the checks of an image at
load (R172 to R181), and the cycle count.
-/
namespace Sys2Proof.Machine

/-! ## Instruction words (Tables 5.6 and 5.8) -/

/-- An instruction word, field by field. -/
structure Ins where
  op : Nat
  fa : Nat
  fd : Nat
  rm : Bool
  sat : Bool
  rsvd : Nat
  dst : Nat
  a : Nat
  b : Nat
  c : Nat
  imm : Nat
  deriving DecidableEq, Repr

/-- The fields of an instruction word. -/
def insOf (w : U64) : Ins where
  op := fld w 63 56
  fa := fld w 55 52
  fd := fld w 51 48
  rm := bit w 47
  sat := bit w 46
  rsvd := fld w 45 44
  dst := fld w 43 37
  a := fld w 36 30
  b := fld w 29 23
  c := fld w 22 16
  imm := fld w 15 0

/-- An operand: a vector register, scratch through an address register with or without advance, a stream, a scalar. -/
inductive Opd where
  | v (n : Nat)
  | mem (a : Nat) (inc : Bool)
  | inS
  | tgtS
  | outS
  | s (n : Nat)
  | bad
  deriving DecidableEq, Repr

/-- An operand field (Table 5.8). -/
def opdOf (f : Nat) : Opd :=
  let x := f % 32
  match f / 32 with
  | 0 => .v x
  | 1 => if 16 ≤ x then .bad else .mem (x % 8) (x.testBit 3)
  | 2 => if x = 0 then .inS else if x = 1 then .tgtS else if x = 2 then .outS else .bad
  | _ => if 16 ≤ x then .bad else .s x

/-- Mode of an operand field. -/
def opdMode (f : Nat) : Nat := f / 32

/-! ## Opcodes (Table 5.7) -/

/-- What an opcode does with an operand field: nothing; a source of any mode; a vector or stored source, a destination, of a
vector, scratch or OUT; a vector register; scratch or a stream; a scalar register; scratch; a number below 8. -/
inductive Slot where
  | none
  | src
  | vec
  | dst
  | reg
  | memS
  | scal
  | scr
  | small
  deriving DecidableEq, Repr

/-- The mode of an operand field is one that its slot takes; an unused field is zero. -/
def slotOk (k : Slot) (f : Nat) : Bool :=
  let m := opdMode f
  match k with
  | .none => f == 0
  | .src => true
  | .vec => m != 3
  | .dst => m != 3
  | .reg => m == 0
  | .memS => m == 1 || m == 2
  | .scal => m == 3
  | .scr => m == 1
  | .small => decide (f < 8)

/-- Use of a format field: unused, any format, a microscaling one, FP32 or BF16 or FP16. -/
inductive FmtUse where
  | none
  | any
  | mx
  | fl
  deriving DecidableEq, Repr

def fmtUseOk (u : FmtUse) (f : Nat) : Bool :=
  match u with
  | .none => f == 0
  | .any => fmtOk f
  | .mx => fmtMx f
  | .fl => decide (f ≤ 2)

/-- A row of Table 5.7; `rate` is the number of cycles that an issue occupies its unit at the lowest throughput named. -/
structure OpRow where
  op : Nat
  dst : Slot
  a : Slot
  b : Slot
  c : Slot
  fa : FmtUse
  fd : FmtUse
  rm : Bool
  sat : Bool
  lat : Nat
  rate : Nat
  deriving DecidableEq, Repr

def opRowsA : List OpRow :=
  [⟨0x00, .none, .none, .none, .none, .none, .none, false, false, 1, 1⟩,
   ⟨0x01, .dst, .src, .none, .none, .any, .none, false, false, 2, 1⟩,
   ⟨0x02, .dst, .src, .none, .none, .any, .any, true, true, 3, 1⟩,
   ⟨0x03, .dst, .src, .none, .none, .fl, .mx, true, false, 6, 1⟩,
   ⟨0x04, .dst, .reg, .none, .none, .mx, .any, true, true, 4, 1⟩,
   ⟨0x05, .reg, .memS, .none, .none, .mx, .none, false, false, 3, 2⟩,
   ⟨0x06, .memS, .reg, .none, .none, .none, .mx, false, false, 3, 2⟩,
   ⟨0x10, .dst, .src, .src, .none, .any, .any, true, true, 4, 1⟩,
   ⟨0x11, .dst, .src, .src, .none, .any, .any, true, true, 4, 1⟩,
   ⟨0x12, .dst, .src, .src, .none, .any, .any, true, true, 4, 1⟩,
   ⟨0x13, .dst, .src, .src, .src, .any, .any, true, true, 5, 1⟩,
   ⟨0x14, .dst, .src, .src, .none, .any, .any, true, true, 2, 1⟩,
   ⟨0x15, .dst, .src, .src, .none, .any, .any, true, true, 2, 1⟩,
   ⟨0x16, .dst, .src, .none, .none, .any, .any, false, false, 1, 1⟩,
   ⟨0x17, .dst, .src, .none, .none, .any, .any, false, false, 1, 1⟩,
   ⟨0x18, .dst, .src, .scal, .src, .any, .any, true, true, 5, 1⟩]
def opRowsB : List OpRow :=
  [⟨0x20, .small, .src, .src, .none, .any, .none, false, false, 2, 1⟩,
   ⟨0x21, .dst, .src, .src, .small, .any, .none, false, false, 1, 1⟩,
   ⟨0x22, .dst, .src, .none, .none, .any, .none, false, false, 8, 2⟩,
   ⟨0x23, .reg, .src, .none, .reg, .fl, .none, false, false, 12, 4⟩,
   ⟨0x30, .dst, .scr, .scr, .none, .none, .none, false, false, 6, 1⟩,
   ⟨0x31, .scr, .vec, .scr, .none, .none, .none, false, false, 6, 1⟩,
   ⟨0x40, .scal, .none, .none, .none, .none, .none, false, false, 1, 1⟩,
   ⟨0x41, .scal, .scal, .scal, .none, .none, .none, false, false, 1, 1⟩,
   ⟨0x42, .scal, .scr, .none, .none, .none, .none, false, false, 3, 1⟩,
   ⟨0x43, .small, .scal, .none, .none, .none, .none, false, false, 1, 1⟩,
   ⟨0x44, .small, .none, .none, .none, .none, .none, false, false, 1, 1⟩,
   ⟨0x50, .none, .none, .none, .none, .none, .none, false, false, 0, 1⟩,
   ⟨0x51, .none, .none, .none, .none, .none, .none, false, false, 0, 1⟩,
   ⟨0x5F, .none, .none, .none, .none, .none, .none, false, false, 0, 1⟩]

def opRow (op : Nat) : Option OpRow := (opRowsA ++ opRowsB).find? fun r => r.op == op

def isLoop (i : Ins) : Bool := i.op == 0x50
def isEndLoop (i : Ins) : Bool := i.op == 0x51
def isEnd (i : Ins) : Bool := i.op == 0x5F

/-! ## Operand sizes (R174) -/

/-- Elements that an instruction processes. -/
def lanesOf (i : Ins) : Nat := fmtLanes (if i.op = 0x06 then i.fd else i.fa)

/-- The opcode computes a result that is converted into FMTD. -/
def hasFmtD (op : Nat) : Bool := op == 0x02 || op == 0x04 || (decide (0x10 ≤ op) && decide (op ≤ 0x18))

/-- Bits of the destination and of source C in a register. VRED's result is FP32 (R177). -/
def dBits (i : Ins) : Nat :=
  if hasFmtD i.op then lanesOf i * fmtBits i.fd
  else if i.op = 0x03 then lanesOf i * 8
  else if i.op = 0x22 then lanesOf i * 32
  else 1024
def cBits (i : Ins) : Nat := if i.op = 0x13 ∨ i.op = 0x18 then lanesOf i * fmtBits i.fd else 1024

/-- Bytes that an operand moves in scratch or stream mode. -/
def aBytes (i : Ins) : Nat := if i.op = 0x05 then 4 * mxBytes i.fa else if i.op = 0x42 then 8 else if i.op = 0x30 then 4 else 128
def bBytes (i : Ins) : Nat := if i.op = 0x31 then 4 else 128
def cBytes (i : Ins) : Nat := cBits i / 8
def dBytes (i : Ins) : Nat :=
  if i.op = 0x06 then 4 * mxBytes i.fd
  else if i.op = 0x03 then lanesOf i / 32 * mxBytes i.fd
  else dBits i / 8

/-- A register operand of `bits` bits is narrower than a register. -/
def narrow (f bits : Nat) : Bool := opdMode f == 0 && decide (bits < 1024)

/-- IMM selects a part of a register for the instruction, of which there are this many. -/
def immParts (i : Ins) : Option Nat :=
  if i.op = 0x03 then (if opdMode i.dst = 0 then some (5 - lanesOf i / 32) else none)
  else if narrow i.dst (dBits i) || ((i.op == 0x13 || i.op == 0x18) && narrow i.c (cBits i)) then some (1024 / dBits i)
  else none

/-- IMM is valid for the opcode (Table 5.7, R174). -/
def immOk (i : Ins) : Bool :=
  if i.op = 0x20 then decide (i.imm ≤ 5)
  else if i.op = 0x22 then decide (i.imm ≤ 1)
  else if i.op = 0x23 then decide (1 ≤ i.imm) && decide (i.imm ≤ 8)
  else if i.op = 0x40 ∨ i.op = 0x44 ∨ i.op = 0x50 then true
  else match immParts i with
    | some n => decide (i.imm < Nat.max n 4)
    | none => i.imm == 0

/-! ## Checks 3 to 7 of Table 5.10 -/

/-- Check 3 on one instruction. SRCA of a LOOP is used where IMM is 0. -/
def wordOk (i : Ins) : Bool :=
  match opRow i.op with
  | none => false
  | some r =>
    i.rsvd == 0 && slotOk r.dst i.dst && (if isLoop i then decide (i.imm = 0) || i.a == 0 else slotOk r.a i.a)
      && slotOk r.b i.b && slotOk r.c i.c && fmtUseOk r.fa i.fa && fmtUseOk r.fd i.fd && (r.rm || !i.rm) && (r.sat || !i.sat)
      && immOk i

/-- Check 5: the loop depth after an instruction; none where it breaks the nesting, or a LOOP has no count. -/
def loopStep (d : Option Nat) (i : Ins) : Option Nat :=
  match d with
  | none => none
  | some n =>
    if isLoop i then (if n < 4 ∧ (i.imm ≠ 0 ∨ opdMode i.a = 3) then some (n + 1) else none)
    else if isEndLoop i then (if n = 0 then none else some (n - 1))
    else some n

/-- An operand of `bits` bits in a register fits where it starts; a wider one, and a microscaling one, is in register mode. -/
def spanOk (f bits : Nat) (mx : Bool) : Bool :=
  match opdOf f with
  | .v n => decide (n + ceilDiv bits 1024 ≤ 32)
  | .s _ => !mx
  | .bad => false
  | _ => decide (bits ≤ 1024) && !mx

/-- The operands that an opcode reads as vectors: field, bits, and whether they are in register form. -/
def vecSources (i : Ins) (r : OpRow) : List (Nat × Nat × Bool) :=
  let mx := fmtMx i.fa && i.op != 0x05
  (if r.a = .src ∨ r.a = .vec ∨ r.a = .reg then [(i.a, 1024, mx)] else [])
    ++ (if r.b = .src then [(i.b, 1024, mx)] else [])
    ++ (if r.c = .src then [(i.c, cBits i, fmtMx i.fd)] else if r.c = .reg then [(i.c, 1024, false)] else [])

/-- The operand fields that an opcode uses as operands of R173. -/
def usedFields (i : Ins) (r : OpRow) : List Nat :=
  let used := fun (k : Slot) => !(k == .none || k == .small)
  (if used r.a then [i.a] else []) ++ (if used r.b then [i.b] else []) ++ (if used r.c then [i.c] else [])
    ++ (if used r.dst then [i.dst] else []) ++ (if isLoop i && decide (i.imm = 0) then [i.a] else [])

/-- Check 6 on one instruction (R173, R174). -/
def operandsOk (i : Ins) : Bool :=
  match opRow i.op with
  | none => false
  | some r =>
    let stored := fun (k : Slot) (f : Nat) => !(k == .none || k == .small) && (opdMode f == 1 || opdMode f == 2)
    let srcs := (if stored r.a i.a then [i.a] else []) ++ (if stored r.b i.b then [i.b] else [])
      ++ (if stored r.c i.c then [i.c] else [])
    let dstUsed := !(r.dst == .none || r.dst == .small)
    (usedFields i r).all (fun f => opdOf f != .bad)
      && srcs.all (fun f => opdOf f != .outS) && decide (srcs.length ≤ 2)
      && (!dstUsed || !(opdOf i.dst == .inS || opdOf i.dst == .tgtS))
      && (vecSources i r).all (fun x => spanOk x.1 x.2.1 x.2.2)
      && (!dstUsed || r.dst == .scal || r.dst == .scr || r.dst == .memS || spanOk i.dst (dBits i) (hasFmtD i.op && fmtMx i.fd))
      && (immParts i).all fun n => decide (i.imm < n)

/-- Check 7: the instruction uses a stream. -/
def usesStream (i : Ins) : Bool :=
  match opRow i.op with
  | none => false
  | some r => (usedFields i r).any fun f => opdMode f == 2

/-! ## Walking loops -/

/-- The code up to the ENDLOOP that matches, and the code after it. -/
def splitLoop : Nat → List Ins → List Ins × List Ins
  | _, [] => ([], [])
  | d, i :: r =>
    if isEndLoop i && decide (d = 0) then ([], r)
    else
      let (x, y) := splitLoop (if isLoop i then d + 1 else if isEndLoop i then d - 1 else d) r
      (i :: x, y)

/-- `f` applied `n` times. -/
def rep {α : Type} (f : α → α) : Nat → α → α
  | 0, a => a
  | n + 1, a => rep f n (f a)

/-- Code run from its start to END or its last instruction, its loops repeated by their counts. -/
def walkCode {α : Type} (one : Ins → α → α) (count : Ins → α → Nat) (enter : Ins → α → α) : Nat → List Ins → α → α
  | 0, _, a => a
  | _, [], a => a
  | f + 1, i :: r, a =>
    if isEnd i then a
    else if isLoop i then
      let (body, rest) := splitLoop 0 r
      let a' := enter i a
      walkCode one count enter f rest (rep (walkCode one count enter f body) (count i a) a')
    else walkCode one count enter f r (one i a)

/-! ## Check 8: stream bytes -/

/-- Bytes that an instruction takes from IN and TGT and gives to OUT. -/
def streamBytes (i : Ins) : Nat × Nat × Nat :=
  match opRow i.op with
  | none => (0, 0, 0)
  | some r =>
    let at_ := fun (k : Slot) (f n : Nat) (o : Opd) => if k = .none ∨ k = .small then 0 else if opdOf f = o then n else 0
    let sum := fun (o : Opd) => at_ r.a i.a (aBytes i) o + at_ r.b i.b (bBytes i) o + at_ r.c i.c (cBytes i) o
    (sum .inS, sum .tgtS, at_ r.dst i.dst (dBytes i) .outS)

/-- The bytes of a body, loops counted. A loop counted by a scalar register touches no stream, so one pass of it does. -/
def bodyBytes (code : List Ins) : Nat × Nat × Nat :=
  walkCode (fun i t => let b := streamBytes i; (t.1 + b.1, t.2.1 + b.2.1, t.2.2 + b.2.2))
    (fun i _ => if i.imm = 0 then 1 else i.imm) (fun _ t => t) (code.length + 1) code (0, 0, 0)

/-- No loop counted by a scalar register touches a stream. -/
def scalarLoopsClear : List Ins → Bool
  | [] => true
  | i :: r => !(isLoop i && decide (i.imm = 0) && (splitLoop 0 r).1.any usesStream) && scalarLoopsClear r

/-! ## Check 9: issue cycles (R175, R177) -/

/-- Registers by number: vectors 0 to 31, masks from 32, scalars from 64, address registers from 96. -/
def regV (n : Nat) : Nat := n
def regM (n : Nat) : Nat := 32 + n
def regS (n : Nat) : Nat := 64 + n
def regA (n : Nat) : Nat := 96 + n

/-- Registers that an operand of `bits` bits names. -/
def opdRegs (f bits : Nat) : List Nat :=
  match opdOf f with
  | .v n => (List.range (Nat.max 1 (ceilDiv bits 1024))).map fun k => regV (n + k)
  | .mem a _ => [regA a]
  | .s n => [regS n]
  | _ => []

/-- Registers that an instruction waits for. -/
def readRegs (i : Ins) (r : OpRow) : List Nat :=
  let used := fun (k : Slot) => !(k == .none || k == .small)
  (if used r.a then opdRegs i.a 1024 else []) ++ (if used r.b then opdRegs i.b 1024 else [])
    ++ (if used r.c then opdRegs i.c (cBits i) else [])
    ++ (if used r.dst && opdMode i.dst == 1 then opdRegs i.dst 0 else [])
    ++ (if r.c = .small then [regM i.c] else [])
    ++ (if i.op = 0x23 then [regS 3] else [])
    ++ (if i.op = 0x44 then [regA i.dst] else [])
    ++ (if isLoop i && decide (i.imm = 0) then opdRegs i.a 0 else [])

/-- The address register that an operand advances. -/
def advanced (f : Nat) : List Nat :=
  match opdOf f with
  | .mem a true => [regA a]
  | _ => []

/-- Registers that an instruction writes, those that it advances among them. -/
def writeRegs (i : Ins) (r : OpRow) : List Nat :=
  let used := fun (k : Slot) => !(k == .none || k == .small)
  (if used r.dst && (opdMode i.dst == 0 || opdMode i.dst == 3) then opdRegs i.dst (dBits i) else [])
    ++ (if i.op = 0x20 then [regM i.dst] else [])
    ++ (if i.op = 0x43 ∨ i.op = 0x44 then [regA i.dst] else [])
    ++ (if used r.a then advanced i.a else []) ++ (if used r.b then advanced i.b else [])
    ++ (if used r.c then advanced i.c else []) ++ (if used r.dst then advanced i.dst else [])
    ++ (if i.op = 0x30 then opdRegs i.a 0 else []) ++ (if i.op = 0x31 then opdRegs i.b 0 else [])

/-- Issue so far: the next free cycle, when each register and each opcode's unit is ready, and the cycle at which all is
issued. -/
structure Score where
  t : Nat
  regs : Tbl Nat
  units : Tbl Nat
  fin : Nat
  deriving DecidableEq, Repr

/-- Cycles that an issue occupies its unit: VMXL and VMXS at full rate but for the 8-bit formats. -/
def occupies (i : Ins) (r : OpRow) : Nat :=
  if i.op = 0x05 then (if mxBits i.fa = 8 then 2 else 1)
  else if i.op = 0x06 then (if mxBits i.fd = 8 then 2 else 1)
  else r.rate

/-- One instruction issues. -/
def issue (i : Ins) (x : Score) : Score :=
  match opRow i.op with
  | none => x
  | some r =>
    let ready := (readRegs i r).foldl (fun t g => Nat.max t (tgetD x.regs g 0)) x.t
    let t := Nat.max ready (tgetD x.units i.op 0)
    let occ := occupies i r
    { t := t + 1
      regs := (writeRegs i r).foldl (fun m g => tset m g (t + r.lat)) x.regs
      units := tset x.units i.op (t + occ)
      fin := Nat.max x.fin (t + occ) }

/-- A LOOP takes no issue cycle, but waits for the register that counts it. -/
def enterLoop (i : Ins) (x : Score) : Score :=
  match opRow i.op with
  | none => x
  | some r => { x with t := (readRegs i r).foldl (fun t g => Nat.max t (tgetD x.regs g 0)) x.t }

/-- Issue cycles of a body. How often a loop that a scalar register counts runs is open at load (R175). -/
def bodyCycles (code : List Ins) : Nat :=
  (walkCode issue (fun i _ => if i.imm = 0 then Nat.max 1 (Nat.min 65535 (Config.loopCount i.a)) else i.imm) enterLoop
    (code.length + 1) code ⟨0, [], [], 0⟩).fin

/-! ## Images (R180, R181) -/

/-- A program image that has passed checks 1 to 9 (Table 5.9). -/
structure Image where
  count : Nat
  proLen : Nat
  inGran : Nat
  outGran : Nat
  tgtGran : Nat
  auxBytes : Nat
  workBytes : Nat
  cycles : Nat
  minShare : Nat
  engines : Nat
  code : List U64
  aux : List Byte
  deriving DecidableEq, Repr

/-- Instruction words of an image. -/
def codeWords (bs : List Byte) : Nat → List U64
  | 0 => []
  | n + 1 => BitVec.ofNat 64 (leNat (bs.take 8)) :: codeWords (bs.drop 8) n

/-- The image as its header lays it out. -/
def imageOf (bs : List Byte) : Image :=
  let h := leNat (bs.take 64)
  let n := bitsN h 463 448
  { count := n
    proLen := bitsN h 447 432
    inGran := bitsN h 431 416
    outGran := bitsN h 415 400
    tgtGran := bitsN h 399 384
    auxBytes := bitsN h 383 352
    workBytes := bitsN h 351 320
    cycles := bitsN h 319 288
    minShare := bitsN h 287 280
    engines := bitsN h 279 275
    code := codeWords (bs.drop 64) n
    aux := bs.drop (64 + 8 * n) }

/-- Check 2. -/
def headerOk (bs : List Byte) (x : Image) : Bool :=
  let h := leNat (bs.take 64)
  bitsN h 511 480 == 0x5A585450 && bitsN h 479 464 == 1 && bitsN h 274 0 == 0
    && decide (1 ≤ x.count) && decide (x.count ≤ 16384) && decide (x.proLen < x.count)
    && ((List.range 8).any fun k => x.inGran == 2 ^ (5 + k))
    && decide (1 ≤ x.outGran) && decide (x.outGran ≤ 4096) && (x.tgtGran == 0 || x.tgtGran == x.outGran)
    && decide (x.auxBytes ≤ 0x100000) && decide (x.workBytes ≤ 0x40000)
    && decide (1 ≤ x.engines) && decide (x.engines ≤ 24)

/-- The body of a list of instructions. -/
def bodyOf (x : Image) (code : List Ins) : List Ins := code.drop x.proLen

/-- The first of checks 1 to 9 that an image fails, or what it holds. -/
def checkImage (r : ImageRead) : Nat ⊕ Image :=
  let x := imageOf r.bytes
  let code := x.code.map insOf
  let pro := code.take x.proLen
  let body := bodyOf x code
  if !r.readable || decide (r.bytes.length ≠ r.len) || decide (r.len < 64) || decide (r.bytes.length ≠ 64 + 8 * x.count + x.auxBytes) then .inl 1
  else if !headerOk r.bytes x then .inl 2
  else if !code.all wordOk then .inl 3
  else if !((code.getLast?.map isEnd).getD false) || decide (code.countP isEnd ≠ 1) || pro.any (fun i => isLoop i || isEndLoop i) then
    .inl 4
  else if body.foldl loopStep (some 0) ≠ some 0 then .inl 5
  else if !code.all operandsOk then .inl 6
  else if pro.any usesStream then .inl 7
  else if bodyBytes body ≠ (x.inGran, x.tgtGran, x.outGran) || !scalarLoopsClear body then .inl 8
  else if bodyCycles body ≠ x.cycles then .inl 9
  else .inr x

end Sys2Proof.Machine
end

