-- ==== Sys2Proof/Machine/Load.lean ====
section
/-!
DEFINITION. Sys2Proof/Machine/Load.lean: the commands that load and unload transform programs (R181 to R185).
-/
namespace Sys2Proof.Machine

/-! ## Loading (R181 to R185) -/

/-- Instructions, and scratch bytes, that programs place on an engine (checks 11 and 12). -/
def storeOn (l : List Program) (e : Nat) : Nat := l.foldl (fun n p => if p.engines.contains e then n + p.code.length else n) 0
def scratchOn (l : List Program) (e : Nat) : Nat :=
  l.foldl (fun n p => if p.engines.contains e then n + p.auxBytes + 4 * p.workBytes else n) 0

/-- Engines in ascending order of used program store, the lower number first of equals (R182). -/
def byStore (l : List Program) (es : List Nat) : List Nat :=
  es.foldl (fun acc e =>
    let (a, b) := acc.span fun x => decide (storeOn l x ≤ storeOn l e)
    a ++ e :: b) []

/-- The engines that a mask names. -/
def maskEngines (mask : Nat) : List Nat := (List.range 24).filter fun n => mask.testBit n

/-- The engine set of a load, if R182 finds one: as named, or chosen among the engines that have not failed. -/
def engineSet (s : Dev) (l : List Program) (mask n : Nat) : List Nat :=
  if mask = 0 then (byStore l ((List.range 24).filter fun e => (getEngine s e).mode != .failed)).take n else maskEngines mask

/-- The first of checks 10 to 15 that a program fails among all that would be placed. -/
def fitFails (s : Dev) (l : List Program) (slice : Nat) (p : Program) (engines : Nat) : Option Nat :=
  let own := l.filter fun q => q.slice == slice
  let shares := own.foldl (fun n q => n + q.minShare) 0
  let aux := own.foldl (fun n q => n + q.auxBytes) 0
  if 64 < l.countP fun q => q.slice == slice && !q.dead then some 10
  else if p.engines.any (fun e => decide (16384 < storeOn l e)) || decide (p.engines.length < engines) then some 11
  else if p.engines.any fun e => decide (1792 * 1024 < scratchOn l e) then some 12
  else if quotaLimit s slice 4 < shares then some 13
  else if quotaLimit s slice 6 * 1024 < aux then some 14
  else if quotaLimit s slice 5 < 4 * engines then some 15
  else none

/-- The programs with an image placed in a slot: the one there is replaced, and stays while something runs it (R184). -/
def placeImage (s : Dev) (l : List Program) (slice slot mask id : Nat) (x : Image) : List Program × Program :=
  let l := (l.map fun p => if p.slice = slice ∧ p.slot = slot then { p with dead := true } else p).filter fun p =>
    !p.dead || progUsed s p.id || unloading s p.id
  let p : Program :=
    { id := id, slice := slice, slot := slot, proLen := x.proLen, inGran := x.inGran, outGran := x.outGran
      tgtGran := x.tgtGran, auxBytes := x.auxBytes, workBytes := x.workBytes, cycles := x.cycles, minShare := x.minShare
      code := x.code, aux := x.aux, engines := engineSet s l mask x.engines, dead := false }
  (l ++ [p], p)

/-- Mask of an engine set. -/
def maskOf (l : List Nat) : Nat := l.foldl (fun n e => n ||| 2 ^ e) 0

/-- The pages of an image enter the translation cache as a command's read walks them (R125). -/
def fillPage (slice space : Nat) (s : Dev) (page : Nat) : Dev :=
  match lookup s slice space page accRead, walk s slice space page 0 with
  | none, .leaf pfn run r w ns =>
    addTrans page ⟨slice, space, page, run, pfn, r, w, ns, (getSlice s slice).epoch, false, false⟩ (fillPtrs slice space page s)
  | _, _ => s

/-- An image that a command names is read through the slice's translation (R181): one in Millefeuille from the stacks, one in host
memory as the host port answers. A refused read is one that returned poison (R380). -/
def readImage (slice space : Nat) (x : ImageRead) (s : Dev) : ImageRead × Dev :=
  let s := if viaAts s slice space then s else (pagesOf x.addr x.len).foldl (fillPage slice space) s
  match translate s slice space x.addr x.len accRead with
  | .inr _ => ({ x with readable := false }, s)
  | .inl l =>
    let s := touchTrans slice space x.addr x.len accRead s
    if space = 1 then
      let (bs, bad) := readPieces s l
      ({ x with readable := !bad, bytes := bs }, s)
    else if x.refused then ({ x with readable := false }, refusedIn slice space x.addr s)
    else (x, s)

/-- The image of a row whose address and length are in reach of translation (R118). -/
def imageFits (x : ImageRead) : Bool := decide (x.addr + x.len ≤ 2 ^ 48)

/-- Pages of an image that have still to be translated through ATS (R148, R150): none of one that cannot be read. -/
def imageMisses (s : Dev) (slice space : Nat) (x : ImageRead) : List Nat :=
  if viaAts s slice space && x.readable then (pagesOf x.addr x.len).filter fun p => (lookup s slice space p accRead).isNone else []

/-- A load whose images miss in the translation that goes through ATS sends its requests and waits for them (R150); it has not
committed. -/
def awaitImages (h : Cmd) (op : Nat) (pages : List Nat) (on : WaitOn) (s : Dev) : Dev :=
  pages.foldl (fun s p => startWalk h.slice 0 p accRead (.load h.aq h.index) s) { s with waits := s.waits ++ [(h, op, on)] }

/-- TXE_LOAD with its image read: the checks of Table 5.10 in order; DETAIL is the number of the one that fails (Table 14.4). -/
def loadImage (slot mask space : Nat) (image : ImageRead) (h : Cmd) (c : CmdInfo) (s : Dev) : Dev :=
  let (image, s) := readImage h.slice space image s
  match checkImage image with
  | .inl n => badParam c h n s
  | .inr x =>
    if mask ≠ 0 ∧ (maskEngines mask).length ≠ x.engines then badParam c h 12 s
    else
      let (l, p) := placeImage s s.programs h.slice slot mask s.freeCtr x
      match fitFails s l h.slice p x.engines with
      | some n => reply c h csNoFit n 0 s
      | none => replyPinned (pinnedObjs s) c h (maskOf p.engines) { s with programs := l, freeCtr := s.freeCtr + 1 }

/-- TXE_LOAD. -/
def txeLoadBody (slot mask space : Nat) (image : ImageRead) (h : Cmd) (c : CmdInfo) (s : Dev) : Dev :=
  let miss := imageMisses s h.slice space image
  if miss.isEmpty then loadImage slot mask space image h c s
  else awaitImages h c.op miss (.image slot mask space image) s

/-- Parameters of TXE_LOAD: SLOT at 8, ENGINE_MASK at 12, SPACE at 16, and the image's address at 24 and length at 32 (log 13). -/
def txeLoadEffect (h : Cmd) (slot mask space : Nat) (image : ImageRead) : Dev → Dev :=
  command 0x0301 h true (firstBad [(8, decide (slot < 64)), (12, decide (mask < 2 ^ 24)), (16, decide (space < 2)), (24, imageFits image)])
    (txeLoadBody slot mask space image h)

def execTxeLoad (h : Cmd) (slot mask space : Nat) (image : ImageRead) (s : State) : Res :=
  runLevels (txeLoadEffect h slot mask space image) s

/-- The images of a plan placed one after another, with the programs they make; the first image that fails checks 1 to 9 or
R182 stops it, by position and check. A mask of a plan that does not name ENGINES engines fails as check 2, the check of the header
field that it contradicts: Table 5.10 has no check of it (log 152). -/
def placePlan (s : Dev) (slice : Nat) : Nat → List PlanItem → List Program → List (Program × Nat) →
    (Nat × Nat) ⊕ (List Program × List (Program × Nat))
  | _, [], l, ps => .inr (l, ps)
  | k, x :: r, l, ps =>
    match checkImage x.image with
    | .inl n => .inl (k, n)
    | .inr y =>
      if x.mask ≠ 0 ∧ (maskEngines x.mask).length ≠ y.engines then .inl (k, 2)
      else
        let (l, p) := placeImage s l slice x.slot x.mask (s.freeCtr + k) y
        placePlan s slice (k + 1) r l (ps ++ [(p, y.engines)])

/-- The images of a plan, each read through the slice's translation. -/
def readPlan (slice : Nat) : List PlanItem → Dev → List PlanItem × Dev
  | [], s => ([], s)
  | x :: r, s =>
    let (i, s) := readImage slice x.space x.image s
    let (l, s) := readPlan slice r s
    ({ x with image := i } :: l, s)

/-- TXE_PLAN_LOAD with its images read: all or none (R183). RESULT names the failing image by its position, and the check. -/
def loadPlan (items : List PlanItem) (h : Cmd) (c : CmdInfo) (s : Dev) : Dev :=
  let (items, s) := readPlan h.slice items s
  match placePlan s h.slice 0 items s.programs [] with
  | .inl (k, n) => reply c h csBadParam 0 (packResult [(k, 1), (n, 1)]) s
  | .inr (l, ps) =>
    match ps.zipIdx.findSome? fun x => (fitFails s l h.slice x.1.1 x.1.2).map fun n => (x.2, n) with
    | some (k, n) => reply c h csNoFit 0 (packResult [(k, 1), (n, 1)]) s
    | none => replyPinned (pinnedObjs s) c h 0 { s with programs := l, freeCtr := s.freeCtr + items.length }

/-- TXE_PLAN_LOAD. -/
def txePlanLoadBody (items : List PlanItem) (h : Cmd) (c : CmdInfo) (s : Dev) : Dev :=
  let miss := items.flatMap fun x => imageMisses s h.slice x.space x.image
  if miss.isEmpty then loadPlan items h c s else awaitImages h c.op miss (.plan items) s

/-- An image that lies in host memory on a page whose translation was denied cannot be read (R150, R181). -/
def denyImage (space : Nat) (page : Option Nat) (x : ImageRead) : ImageRead :=
  if space = 0 ∧ page.any (fun p => (pagesOf x.addr x.len).contains p) = true then { x with readable := false } else x

/-- The load of a command that waits for translations looks again; `denied` is a page that it has been refused. -/
def resumeLoad (aq : Nat) (index : U32) (denied : Option Nat) (s : Dev) : Dev :=
  s.waits.foldl (fun s w =>
    if w.1.aq ≠ aq ∨ w.1.index ≠ index then s
    else
      match w.2.2 with
      | .image slot mask space x => txeLoadBody slot mask space (denyImage space denied x) w.1 (cmdRow w.2.1) (endWait w s)
      | .plan items =>
        txePlanLoadBody (items.map fun x => { x with image := denyImage x.space denied x.image }) w.1 (cmdRow w.2.1) (endWait w s)
      | _ => s) s

/-- TXE_PLAN_LOAD: a plan that names no slot or a slot twice breaks a range and is refused as a whole, which R183 leaves open (log
152). -/
def txePlanLoadEffect (h : Cmd) (items : List PlanItem) : Dev → Dev :=
  let slots := items.map (·.slot)
  command 0x0302 h true
    (firstBad [(8, decide (1 ≤ items.length) && decide (items.length ≤ 64) && decide slots.Nodup
      && items.all fun x => decide (x.slot < 64) && decide (x.mask < 2 ^ 24) && decide (x.space < 2) && imageFits x.image)])
    (txePlanLoadBody items h)

def execTxePlanLoad (h : Cmd) (items : List PlanItem) (s : State) : Res := runLevels (txePlanLoadEffect h items) s

/-- TXE_UNLOAD: the slot is empty at once; the reply waits for everything that runs the program (R185). -/
def txeUnloadBody (slot : Nat) (h : Cmd) (c : CmdInfo) (s : Dev) : Dev :=
  match findProg s h.slice slot with
  | none => badParam c h 8 s
  | some p =>
    let before := pinnedObjs s
    let mark := fun (q : Program) => if q.id = p.id then { q with dead := true } else q
    unpinned before (waitOn h c.op (.program p.id) { s with programs := s.programs.map mark })

def txeUnloadEffect (h : Cmd) (slot : Nat) : Dev → Dev :=
  command 0x0303 h true (firstBad [(8, decide (slot < 64))]) (txeUnloadBody slot h)

/-- TXE_UNLOAD: what waits no longer replies as the command settles. -/
def execTxeUnload (h : Cmd) (slot : Nat) (s : State) : Res := runLevels (txeUnloadEffect h slot) s

end Sys2Proof.Machine
end

