-- ==== Sys2Proof/Machine/Translate.lean ====
section
/-!
DEFINITION. Sys2Proof/Machine/Translate.lean: the commands and events of chapter 4: windows (R109 to R115), roots and
invalidation (R122, R142 to R147, R151), walks, faults and their resolution (R125 to R140, R150, R539).
-/
namespace Sys2Proof.Machine

/-! ## Windows -/

/-- The index may be allocated (R112): it is not 0, not live, not waiting under R114, and was not freed in the last 8 ms. -/
def windowFree (s : Dev) (i : Nat) : Bool :=
  decide (i ≠ 0) && match tget s.windows i with
    | none => true
    | some w => !w.v && !w.closing && (w.freedAt.all fun t => decide (t + 8000000 ≤ s.now))

/-- Window entries that a pipeline caches (R110). -/
def windowsIn (s : Dev) (k : Nat) : List (Nat × Window) := s.windows.filter fun p => p.2.cached && pipeOf p.1 == k

/-- A full pipeline gives up one window entry of its 4,096, which is written back (R110, R391). -/
def evictWindow (k : Nat) (s : Dev) : Dev :=
  let l := windowsIn s k
  if l.length < 4096 then s
  else
    let s' := { s with freeCtr := s.freeCtr + 1 }
    match l[Config.choice s.freeCtr % Nat.max 1 l.length]? with
    | some p => writeBack (windowAddr p.1) 16 { s' with windows := tset s.windows p.1 { p.2 with cached := false } }
    | none => s'

/-- TAG of the next life of an index (R111). -/
def nextTag (s : Dev) (i : Nat) : BitVec 8 :=
  match tget s.windows i with
  | some w => w.tag + 1
  | none => 0

/-- The entry that WIN_CREATE writes (Table 4.2). -/
def newWindow (s : Dev) (i slice perm space base length : Nat) : Window where
  tag := nextTag s i
  owner := slice
  v := true
  rw := perm.testBit 0
  rr := perm.testBit 1
  ra := perm.testBit 2
  rt := perm.testBit 3
  space := space
  length := length
  base := base
  closing := false
  freedAt := none
  cached := true
  stored := ((tget s.windows i).map fun w => if w.cached then w.stored else encWindow w).getD 0

/-- WIN_CREATE (R111). -/
def winCreate (h : Cmd) (perm space base length : Nat) : Dev → Dev :=
  command 0x0201 h true
    (firstBad [(8, decide (perm < 16)), (9, spaceOk space), (16, decide (base < 2 ^ 48)),
      (24, decide (0 < length ∧ length < 2 ^ 48 ∧ base + length ≤ 2 ^ 48))]) fun c s =>
    if !spaceBound s h.slice space then refuse c h csNotPermitted s
    else if quotaFull s h.slice 2 then refuse c h csNoFit s
    else
      match choose (2 ^ 24) (windowFree s) s with
      | (none, s) => refuse c h csNoFit s
      | (some i, s) =>
        let w := newWindow s i h.slice perm space base length
        let s := evictWindow (pipeOf i) s
        reply c h csOk 0 (packResult [(i * 256 + w.tag.toNat, 4)]) { s with windows := tset s.windows i w }

def execWinCreate (h : Cmd) (perm space base length : Nat) (s : State) : Res := runLevels (winCreate h perm space base length) s

/-- The index of a destroyed window is free (R114). -/
def freeWindow (i : Nat) (s : Dev) : Dev :=
  match tget s.windows i with
  | none => s
  | some w => if w.closing then { s with windows := tset s.windows i { w with closing := false, freedAt := some s.now } } else s

/-- WIN_DESTROY (R114). -/
def winDestroy (h : Cmd) (wkey : U32) : Dev → Dev :=
  command 0x0202 h true none fun c s =>
    let i := wkIndex wkey.toNat
    match tget s.windows i with
    | none => badParam c h 8 s
    | some w =>
      if !w.v || w.tag ≠ wkTag wkey.toNat then badParam c h 8 s
      else if w.owner ≠ h.slice then refuseOther c h 8 s
      else
        let s := { s with windows := tset s.windows i { w with v := false, closing := true, cached := false } }
        if (holdersOfWindow s i).isEmpty then ok c h (freeWindow i s) else waitOn h c.op (.window i s.now) s

def execWinDestroy (h : Cmd) (wkey : U32) (s : State) : Res := runLevels (winDestroy h wkey) s

/-- WIN_QUERY (R110, R482). -/
def winQuery (h : Cmd) (index : Nat) : Dev → Dev :=
  command 0x0203 h true (firstBad [(8, decide (index < 2 ^ 24))]) fun c s =>
    match tget s.windows index with
    | none => badParam c h 8 s
    | some w =>
      if !w.v && !w.closing then badParam c h 8 s
      else if w.owner ≠ h.slice then refuseOther c h 8 s
      else reply c h csOk 0 (encWindow w) s

def execWinQuery (h : Cmd) (index : Nat) (s : State) : Res := run (winQuery h index) s

/-! ## Withdrawing translations -/

/-- An invalidation that closed epoch `e` has completed. -/
def invalDone (slice : Nat) (e : BitVec 16) (s : Dev) : Dev :=
  trySwitch slice (modSlice slice (fun x => { x with
    xltHaNext := x.xltHaNext.map fun n => (n.1, n.2.1, n.2.2 || epochLe n.2.1 e) }) s)

/-- The last holder of the epoch that was current when the slice's translation mode was set has ended, and the epoch is closed, whatever became of the command that closed
it: that invalidation has completed (Table 1.5, R145). -/
def invalSeen (slice : Nat) (s : Dev) : Dev :=
  match (getSlice s slice).xltHaNext with
  | some (_, n, _) => if n ≠ (getSlice s slice).epoch ∧ (holdersOf s slice n).isEmpty = true then invalDone slice n s else s
  | none => s

/-- RESULT of a command that completes as XLT_INVAL: holders and the epoch closed (R143, R145). -/
def invalResult (n : Nat) (e : BitVec 16) : Nat := packResult [(n, 4), (e.toNat, 2)]

/-- A command that completes as XLT_INVAL over pages `[lo, hi)` (R143, R146): `first` is what it does besides, `wait` its wait. -/
def withdraw (c : CmdInfo) (h : Cmd) (space lo hi : Nat) (first : Dev → Dev) (wait : BitVec 16 → Nat → WaitOn) (last : Dev → Dev)
    (s : Dev) : Dev :=
  if 4 ≤ (closedEpochs s h.slice).length then refuse c h csBusy s
  else
    let (e, s) := invalidate h.slice space lo hi (first s)
    if (holdersOf s h.slice e).isEmpty then reply c h csOk 0 (invalResult 0 e) (invalDone h.slice e (last s))
    else waitOn h c.op (wait e s.now) s

/-- XLT_ROOT_SET (R122). -/
def xltRootSet (h : Cmd) (space root : Nat) : Dev → Dev :=
  command 0x0204 h true (firstBad [(8, spaceOk space), (16, decide (root % 4096 = 0 ∧ root < 2 ^ 52))]) fun c s =>
    let k := h.slice * 16 + space
    withdraw c h space 0 allPages
      (fun s => { s with xlt := { s.xlt with roots := if root = 0 then tdel s.xlt.roots k else tset s.xlt.roots k root } })
      (fun e t => .epoch h.slice e t) id s

def execXltRootSet (h : Cmd) (space root : Nat) (s : State) : Res := runLevels (xltRootSet h space root) s

/-- XLT_INVAL (R143). -/
def xltInval (h : Cmd) (space whole base length : Nat) : Dev → Dev :=
  command 0x0205 h true
    (firstBad [(8, spaceOk space), (9, decide (whole < 2)), (16, decide (whole ≠ 1 ∨ base = 0)),
      (24, if whole = 1 then decide (length = 0) else decide (0 < length ∧ base + length ≤ 2 ^ 48))]) fun c s =>
    let lo := if whole = 1 then 0 else base / 4096
    let hi := if whole = 1 then allPages else ceilDiv (base + length) 4096
    withdraw c h space lo hi id (fun e t => .epoch h.slice e t) id s

def execXltInval (h : Cmd) (space whole base length : Nat) (s : State) : Res := runLevels (xltInval h space whole base length) s

/-- XLT_INVAL_WAIT (R145). -/
def xltInvalWait (h : Cmd) (epoch : Nat) : Dev → Dev :=
  command 0x0206 h true (firstBad [(8, decide (epoch < 65536))]) fun c s =>
    let e := BitVec.ofNat 16 epoch
    let back := ((getSlice s h.slice).epoch - e).toNat
    if back = 0 ∨ 32768 < back then badParam c h 8 s
    else if (holdersOf s h.slice e).isEmpty then reply c h csOk 0 (packResult [(0, 4)]) (invalSeen h.slice s)
    else waitOn h c.op (.epoch h.slice e s.now) s

def execXltInvalWait (h : Cmd) (epoch : Nat) (s : State) : Res := runLevels (xltInvalWait h epoch) s

/-! ## The waits on holders -/

/-- RESULT at the end of a wait on an epoch: XLT_INVAL_WAIT gives the holders only (Table 14.12). -/
def epochResult (op n : Nat) (e : BitVec 16) : Nat := if op = 0x0206 then packResult [(n, 4)] else invalResult n e

/-- An extent that SLICE_SMEM_REMOVE took back is out of the slice (R331, R333). -/
def dropExtent (slice base length : Nat) (s : Dev) : Dev :=
  modSlice slice (fun x => { x with removing := x.removing.filter fun e => !(e == (base, length)) }) s

/-- An ATS invalidation of one slice has ended: the Invalidate Completion leaves once it has for all of them (R151). -/
def atsInvalDone (itag : Nat) (s : Dev) : Dev :=
  let open_ := s.waits.any fun w => match w.2.2 with
    | .ats _ _ _ _ i => i == itag
    | _ => false
  if open_ then s else emit (.atsInvalidateDone itag) s

/-- One wait of a slice ends, if its holders have. -/
def endEpochWait (slice : Nat) (w : Cmd × Nat × WaitOn) (s : Dev) : Dev :=
  let c := cmdRow w.2.1
  match w.2.2 with
  | .epoch k e _ =>
    if k = slice ∧ (holdersOf s k e).isEmpty = true then
      reply c w.1 csOk 0 (epochResult w.2.1 0 e) (invalDone k e (endWait w s))
    else s
  | .extent k e _ base len =>
    if k = slice ∧ (holdersOf s k e).isEmpty = true then
      reply c w.1 csOk 0 (invalResult 0 e) (invalDone k e (dropExtent k base len (endWait w s)))
    else s
  | .ats k e _ _ itag =>
    if k = slice ∧ (holdersOf s k e).isEmpty = true then atsInvalDone itag (invalDone k e (endWait w s)) else s
  | _ => s

/-- The wait of a WIN_DESTROY ends, if its holders have. -/
def endWindowWait (i : Nat) (w : Cmd × Nat × WaitOn) (s : Dev) : Dev :=
  match w.2.2 with
  | .window j _ =>
    if j = i ∧ (holdersOfWindow s i).isEmpty = true then ok (cmdRow w.2.1) w.1 (endWait w s) else s
  | _ => s

/-- INVAL_HOLDERS_DONE: the last holder of a slice's closed epoch, or of a destroyed window, has ended (R114, R143). An extent
whose SLICE_SMEM_REMOVE replied INVAL_TIMEOUT leaves the slice once no closed epoch has holders. -/
def holdersDone (slice : Nat) (window : Option Nat) (s : Dev) : Dev :=
  match window with
  | some i =>
    if (holdersOfWindow s i).isEmpty then freeWindow i (s.waits.foldl (fun s w => endWindowWait i w s) s) else s
  | none =>
    let s := s.waits.foldl (fun s w => endEpochWait slice w s) s
    let s := invalSeen slice s
    if (closedEpochs s slice).isEmpty then modSlice slice (fun x => { x with removing := [] }) s else s

def execInvalHoldersDone (slice : Nat) (window : Option Nat) (s : State) : Res := runLevels (holdersDone slice window) s

/-- Where a wait on holders of a slice or a window began, while it has not timed out (R145). -/
def waitSince (slice : Nat) (window : Option Nat) (w : WaitOn) : Option Nat :=
  match w, window with
  | .epoch k _ t, none => if k = slice then some t else none
  | .extent k _ t _ _, none => if k = slice then some t else none
  | .ats k _ t false _, none => if k = slice then some t else none
  | .window i t, some j => if i = j then some t else none
  | _, _ => none

/-- A wait reaches its 200 µs: INVAL_TIMEOUT, and INVAL_HOLDER for the holders (R114, R145, R151). An ATS invalidation only
reports, and goes on waiting. -/
def timeOutWait (w : Cmd × Nat × WaitOn) (s : Dev) : Dev :=
  let c := cmdRow w.2.1
  match w.2.2 with
  | .epoch k e _ =>
    let l := holdersOf s k e
    holderEvents k l false (reply c w.1 csInvalTimeout 0 (epochResult w.2.1 (holderCount l) e) (endWait w s))
  | .extent k e _ _ _ =>
    let l := holdersOf s k e
    holderEvents k l false (reply c w.1 csInvalTimeout 0 (invalResult (holderCount l) e) (endWait w s))
  | .window i _ =>
    let l := holdersOfWindow s i
    let k := ((tget s.windows i).map (·.owner)).getD 0
    holderEvents k l true (reply c w.1 csInvalTimeout 0 (packResult [(holderCount l, 4)]) (endWait w s))
  | .ats k e t _ itag =>
    holderEvents k (holdersOf s k e) false
      { s with waits := s.waits.map fun x => if x == w then (w.1, w.2.1, .ats k e t true itag) else x }
  | _ => s

/-- INVAL_TIMEOUT_EXPIRY: the oldest wait on the holders of the slice or window times out. -/
def invalTimeout (slice : Nat) (window : Option Nat) (s : Dev) : Dev :=
  match s.waits.find? fun w => (waitSince slice window w.2.2).isSome with
  | none => s
  | some w => atExpiry ((waitSince slice window w.2.2).map (· + 200000)) (timeOutWait w) s

def execInvalTimeoutExpiry (slice : Nat) (window : Option Nat) (s : State) : Res := runLevels (invalTimeout slice window) s

/-! ## Waiters of walks and faults -/

/-- The waiter's queue or entry still stands stopped on a fault. -/
def waiterStands (s : Dev) (who : Requestor) : Bool :=
  match who with
  | .fetch qpn rq => (getQp s qpn).any fun q => (wq q rq).faultDue.isSome
  | .send _ own => (own.bind fun o => startedEntry s o.1 o.2).any fun e => e.faultDue.isSome
  | .engine n id _ none => (findItem s id).any fun i => i.stage == .aside n
  | _ => false

/-- A requester-side fault has ended: its entry or queue goes on, and a stopped timer starts again at the current RTO (R139). -/
def freeWaiter (who : Requestor) (s : Dev) : Dev :=
  match who with
  | .fetch qpn rq => modWq qpn rq (fun w => { w with faultDue := none }) s
  | .send qpn own =>
    modQp qpn (fun q =>
      if q.rqr.rtoStopped then restartTimer s.now { q with rqr := { q.rqr with rtoStopped := false } } else q)
      (modOwner own (fun e => { e with faultDue := none }) s)
  | .engine _ id _ none => modItem id (fun i => { i with faultDue := none }) s
  | _ => s

/-- A waiter of a fault that is resolved with RETRY walks the page again (R134). In fault-stop its context stays as it is (R55). -/
def retryWaiter (slice space page : Nat) (w : Requestor × BitVec 3 × Nat) (s : Dev) : Dev :=
  if !waiterStands s w.1 || !sliceLive s slice then s else startWalk slice space page w.2.1 w.1 (freeWaiter w.1 s)

/-- A waiter of a fault that ends with FAIL (R138, R539); in fault-stop its context stays as it is (R55). -/
def failWaiter (slice : Nat) (who : Requestor) (s : Dev) : Dev :=
  if !waiterStands s who || !sliceLive s slice then s
  else
    match who with
    | .fetch qpn rq =>
      (match getQp s qpn with
       | some q => stopFetch qpn rq true (wq q rq).next s
       | none => s)
    | .send qpn own => failOwner qpn own stLocalAccess stPageFault (freeWaiter who s)
    | .respond _ _ _ => s
    | .load _ _ => s
    | .engine _ id qpn _ => failOwner qpn ((findItem s id).bind (itemEntry s)) stLocalAccess stPageFault (freeWaiter who s)

/-! ## WALK_DONE -/

/-- The parked packet that a responder-side waiter of a walk stands for. -/
def parkedFor (s : Dev) (space page : Nat) (qpn window : Nat) (acc : BitVec 3) : Option Parked :=
  (parkedIn s (pipeOf qpn)).find? fun x => x.qpn == qpn && x.why == .walk space page acc window

/-- A parked packet leaves its buffer. -/
def takeParked (x : Parked) (s : Dev) : Dev :=
  compareMarks { s with miss := tset s.miss (pipeOf x.qpn) ((parkedIn s (pipeOf x.qpn)).erase x) }

/-- A parked request is looked at again, past its authentication (R79, R126); a slice that has stopped meanwhile answers BUSY. -/
def unpark (x : Parked) (s : Dev) : Dev :=
  let s := takeParked x s
  match getQp s x.qpn with
  | none => s
  | some q =>
    if !sliceLive s q.slice || q.held.isSome || q.frozen.isSome then nakBusyFor x.qpn 100 (phPsn x.p.hdr) s
    else runDeferreds x.qpn (rxClassify x.qpn x.link x.p x.since s)

/-- A waiter's lookup ends with a fault in a slice that is in fault-stop: a parked request is answered with BUSY, and every context stays
as it is (R55). -/
def stoppedWaiter (space page : Nat) (w : Requestor × BitVec 3) (s : Dev) : Dev :=
  match w.1 with
  | .respond qpn _ win =>
    (match parkedFor s space page qpn win w.2 with
     | some x => nakBusyFor qpn 100 (phPsn x.p.hdr) (takeParked x s)
     | none => s)
  | .load aq index => resumeLoad aq index (some page) s
  | _ => s

/-- A waiter's lookup ends with a fault (R128, R138, R140). -/
def waiterFaults (slice space page reason : Nat) (ats : Bool) (w : Requestor × BitVec 3) (s : Dev) : Dev :=
  if !sliceLive s slice then stoppedWaiter space page w s
  else
  match w.1 with
  | .respond qpn _ win =>
    match parkedFor s space page qpn win w.2 with
    | none => s
    | some x =>
      let s := fault slice space page reason ats w.2 w.1 (takeParked x s)
      sendNak qpn nakPageWait (pageWaitDelay s slice space page) (phPsn x.p.hdr) s
  | .engine e id qpn (some r) =>
    match (findItem s id).bind fun i => i.arr.map fun a => (i, a) with
    | none => s
    | some (i, a) => fillEngine e 4 (respondFault i a.p space page reason ats w.2 (.engine e id qpn (some r)) s)
  | .engine e id qpn none =>
    match findItem s id with
    | none => s
    | some i =>
      if ((itemEntry s i).bind fun o => startedEntry s o.1 o.2).isNone then fillEngine e 4 (dropItems (fun x => x.id == id) s)
      else fillEngine e 4 (stopWaiter w.1 (faultDue s slice) (fault slice space page reason ats w.2 (.engine e id qpn none) s))
  | .load aq index => resumeLoad aq index (some page) s
  | who => stopWaiter who (faultDue s slice) (fault slice space page reason ats w.2 who s)

/-- A waiter's lookup has its translation. -/
def waiterGoes (space page : Nat) (w : Requestor × BitVec 3) (s : Dev) : Dev :=
  match w.1 with
  | .fetch qpn rq => fetchQueue qpn rq s
  | .respond qpn _ win =>
    (match parkedFor s space page qpn win w.2 with
     | some x => unpark x s
     | none => s)
  | .engine _ id _ _ => resumeItem id s
  | .send _ _ => s
  | .load aq index => resumeLoad aq index none s

/-- The walk has ended: it is no longer in progress. -/
def dropWalk (w : Walk) (s : Dev) : Dev := { s with xlt := { s.xlt with walks := s.xlt.walks.filter fun x => !(x == w) } }

/-- A walk ends: every waiter goes on, or faults, in the order in which they came (R126, R128). -/
def endWalk (k : Walk) (s : Dev) : Dev :=
  let ends := walk s k.slice k.space k.page 0
  let s := fillPtrs k.slice k.space k.page (dropWalk k s)
  match ends with
  | .fault reason => k.waiters.foldl (fun s w => waiterFaults k.slice k.space k.page reason false w s) s
  | .leaf pfn run r w ns =>
    let s := addTrans k.page ⟨k.slice, k.space, k.page, run, pfn, r, w, ns, (getSlice s k.slice).epoch, false, false⟩ s
    k.waiters.foldl (fun s x =>
      match lacksPerm x.2 r w with
      | some reason => waiterFaults k.slice k.space k.page reason false x s
      | none => waiterGoes k.space k.page x s) s

/-- WALK_DONE (R125): one of the walks that its unit carries has ended. -/
def walkDone (slice space page : Nat) (s : Dev) : Dev :=
  match s.xlt.walks.find? fun w => walkOf slice space page w && !w.ats && walkRuns s w with
  | none => s
  | some w => endWalk w s

def execWalkDone (slice space page : Nat) (s : State) : Res := runRetire (walkDone slice space page) s

/-! ## Faults resolved -/

/-- A fault is resolved (R133, R134): RETRY or FAIL, and its place in the unit's table is free (R135). -/
def resolveFault (retry : Bool) (f : Fault1) (s : Dev) : Dev :=
  let k := f.crumb
  let fs := (s.xlt.faults.map fun g => if g == f then { g with outstanding := false } else g).filter fun g =>
    g.outstanding || (g.hasCrumb && g.unwritten)
  let s := { s with xlt := { s.xlt with faults := fs } }
  let s := if retry then dropTrans k.slice k.space k.page s else addFailed k.slice k.space k.page s
  let s := f.waiters.foldl (fun s w =>
    if retry then retryWaiter k.slice k.space k.page w s else failWaiter k.slice w.1 s) s
  trySwitch k.slice (pumpPages (pumpWaiting (unitOf k.slice k.page) s))

/-- The outstanding fault with an identifier, of those that XLT_RESOLVE resolves: faults with a Crumb. -/
def faultById (s : Dev) (slice id : Nat) : Option Fault1 :=
  s.xlt.faults.find? fun f => f.outstanding && f.hasCrumb && f.crumb.slice == slice && f.id == id

/-- One FAULT_ID of an XLT_RESOLVE, with the count of those ignored. -/
def resolveOne (slice : Nat) (acc : Nat × Dev) (x : Nat × Nat) : Nat × Dev :=
  match faultById acc.2 slice x.1 with
  | none => (acc.1 + 1, acc.2)
  | some f => (acc.1, resolveFault (decide (x.2 = 0)) f acc.2)

/-- The consumer index of an XLT_RESOLVE (R133, R535): whether it was ignored. -/
def resolveIndex (slice : Nat) (cons : U32) (s : Dev) : Bool × Dev :=
  match (getSlice s slice).faultQ with
  | none => (true, s)
  | some r =>
    match checkIndex cons r.cons r.cons (dist r.prod r.cons) with
    | .same => (false, s)
    | .forward => (false, modSlice slice (fun x => { x with faultQ := some { r with cons := cons } }) s)
    | _ => (true, s)

/-- Offset of the first OUTCOME that is neither RETRY nor FAIL. -/
def outcomeBad (items : List (Nat × Nat)) : Option Nat :=
  (items.findIdx? fun x => decide (1 < x.2)).map (42 + ·)

/-- XLT_RESOLVE (R133, R134). -/
def xltResolve (h : Cmd) (items : List (Nat × Nat)) (cons : U32) : Dev → Dev :=
  command 0x0207 h true
    (minOff (firstBad [(8, decide (0 < items.length ∧ items.length ≤ 16))]) (outcomeBad items)) fun c s =>
    let (ignored, s) := items.foldl (resolveOne h.slice) (0, s)
    let (skip, s) := resolveIndex h.slice cons s
    reply c h csOk 0 (packResult [(ignored, 1), (b2n skip, 1)]) (trySwitch h.slice (pumpCrumbs h.slice (compareMarks s)))

def execXltResolve (h : Cmd) (items : List (Nat × Nat)) (cons : U32) (s : State) : Res := runRetire (xltResolve h items cons) s

/-- FQ_CREATE (R131). -/
def fqCreate (h : Cmd) (p : RingP) : Dev → Dev :=
  command 0x0208 h true (firstBad [(8, spaceOk p.space), (24, decide (6 ≤ p.lg ∧ p.lg ≤ 16))]) fun c s =>
    if (getSlice s h.slice).faultQ.isSome then refuse c h csBusy s
    else
      let st := ringStatus s h.slice p.space p.base p.lg 32
      if st ≠ csOk then refuseRing c h st 16 s
      else
        ok c h (pumpCrumbs h.slice
          (modSlice h.slice (fun x => { x with faultQ := some (newRing p.space p.base p.lg p.index) }) s))

def execFqCreate (h : Cmd) (ring : RingP) (s : State) : Res := runLevels (fqCreate h ring) s

/-! ## Timers -/

/-- CRUMB_BATCH_TIMER (R132). -/
def crumbBatchTimer (slice : Nat) (s : Dev) : Dev :=
  atExpiry ((getSlice s slice).crumbsFrom.map (· + 20000)) (fun s => trySwitch slice (deliverBatch slice s)) s

def execCrumbBatchTimer (slice : Nat) (s : State) : Res := runLevels (crumbBatchTimer slice) s

/-- The earliest FAULT_TIMEOUT of a queue pair's started entries and of their items, with its entry. -/
def sendFaultDue (s : Dev) (qpn : Nat) (q : Qp) : Option (Nat × U32) :=
  ((q.rqr.started.filterMap fun e => e.faultDue.map fun t => (t, e.e.index)) ++ itemFaults s qpn).foldl (fun m x =>
    match m with
    | none => some x
    | some y => if x.1 < y.1 then some x else some y) none

/-- A send entry's fault has reached FAULT_TIMEOUT (R138 case 3). -/
def sendFaultOut (qpn : Nat) (i : U32) (s : Dev) : Dev :=
  match getQp s qpn with
  | none => s
  | some q =>
    enterError qpn stPageFault.toNat (some (((nextResend q).map (·.psn)).getD q.rqr.nextPsn)) 0 (some (false, i)) stPageFault s

/-- FAULT_TIMEOUT_EXPIRY (R138, R539): of a queue's fetch, or of a started entry. In fault-stop contexts stay as they are (R55). -/
def faultTimeout (qpn : Nat) (fetch rq : Bool) (s : Dev) : Dev :=
  match getQp s qpn with
  | none => s
  | some q =>
    if !sliceLive s q.slice then s
    else if fetch then atExpiry (wq q rq).faultDue (stopFetch qpn rq true (wq q rq).next) s
    else
      match sendFaultDue s qpn q with
      | none => s
      | some (t, i) => atExpiry (some t) (sendFaultOut qpn i) s

def execFaultTimeoutExpiry (qpn : Nat) (fetch rq : Bool) (s : State) : Res := runRetire (faultTimeout qpn fetch rq) s

/-- FAILED_RECORD_EXPIRY (R136). -/
def failedExpiry (slice space page : Nat) (s : Dev) : Dev :=
  match s.xlt.failed.find? fun f => f.slice == slice && f.space == space && f.page == page with
  | none => s
  | some f =>
    atExpiry (some f.until_) (fun s => { s with xlt := { s.xlt with failed := s.xlt.failed.filter fun g => !(g == f) } }) s

def execFailedRecordExpiry (slice space page : Nat) (s : State) : Res := run (failedExpiry slice space page) s

/-! ## ATS and PRI (R148 to R152) -/

/-- Every waiter of a denied translation fails at once while the slice's page requests are stopped (R150). -/
def deniedFails (k : Walk) (s : Dev) : Dev :=
  let s := addFailed k.slice k.space k.page s
  k.waiters.foldl (fun s w =>
    match w.1 with
    | .load aq index => resumeLoad aq index (some k.page) s
    | _ => if isRespond w.1 then waiterGoes k.space k.page w s else failWaiter k.slice w.1 (stopWaiter w.1 s.now s)) s

/-- The run that a Translation Completion of `size` bytes gives: the naturally aligned range of at most 2 MiB that holds the page
(Table 4.11). -/
def atsRun (page size : Nat) : Nat × Nat :=
  let n := Nat.max 1 (Nat.min size 0x200000 / 4096)
  (page / n * n, n - 1)

/-- ATS_COMPLETION (R149, R150). `pfn` is the frame of the page asked for; with U the page itself is used, untranslated. -/
def atsCompletion (slice page : Nat) (r w u : Bool) (size pfn : Nat) (s : Dev) : Dev :=
  match s.xlt.walks.find? fun x => walkOf slice 0 page x && x.ats with
  | none => s
  | some k =>
    let s := dropWalk k s
    if !r && !w then
      if (getSlice s slice).priStopped then deniedFails k s
      else k.waiters.foldl (fun s x => waiterFaults slice 0 page 6 true x s) s
    else
      let (first, run) := atsRun page size
      let base := if u then first else pfn - (page - first)
      let s := addTrans page ⟨slice, 0, first, run, base, r, w, false, (getSlice s slice).epoch, true, u⟩ s
      k.waiters.foldl (fun s x =>
        if (lacksPerm x.2 r w).isSome then
          if (getSlice s slice).priStopped then deniedFails { k with waiters := [x] } s
          else waiterFaults slice 0 page 6 true x s
        else waiterGoes 0 page x s) s

/-- The outstanding host-memory faults of a slice: those that page requests carry, and those whose table walk had begun before the
slice's translation went through ATS (Table 1.5). -/
def hostFaults (s : Dev) (slice : Nat) : List Fault1 :=
  s.xlt.faults.filter fun f => f.outstanding && f.crumb.space == 0 && f.crumb.slice == slice

/-- The same fault, as it stands now. -/
def faultNow (s : Dev) (f : Fault1) : Option Fault1 :=
  s.xlt.faults.find? fun g => g.outstanding && g.id == f.id && g.crumb.slice == f.crumb.slice && g.crumb.space == f.crumb.space
    && g.crumb.page == f.crumb.page

/-- Faults act as FAIL, one after another. -/
def failFaults (l : List Fault1) (s : Dev) : Dev :=
  l.foldl (fun s f =>
    match faultNow s f with
    | some g => resolveFault false g s
    | none => s) s

/-- The denials of a slice that wait for a place in a fault table act as FAIL (R135, R150). -/
def failWaiting (slice : Nat) (s : Dev) : Dev :=
  let mine := s.xlt.waiting.filter fun w => w.slice == slice && w.ats
  mine.foldl (fun s w => failWaiter slice w.who (addFailed slice w.space w.page s))
    { s with xlt := { s.xlt with waiting := s.xlt.waiting.filter fun w => !(w.slice == slice && w.ats) } }

/-- Response Failure (R150). -/
def prgFailure (slice : Nat) (s : Dev) : Dev :=
  let s := failWaiting slice (modSlice slice (fun x => { x with priStopped := true }) s)
  let s := failFaults (hostFaults s slice) s
  sliceEvent slice 0x12 2 (bankXlt 0) (getSlice s slice).pasid 0 0 s

/-- PRG_RESPONSE: code 0 Success, 1 Invalid Request, any other a Response Failure (R150). -/
def prgResponse (slice page code : Nat) (s : Dev) : Dev :=
  match (hostFaults s slice).find? fun f => f.crumb.page == page && f.asked && !f.hasCrumb with
  | none => s
  | some f => if code = 0 then resolveFault true f s else if code = 1 then resolveFault false f s else prgFailure slice s

def execPrgResponse (slice page code : Nat) (s : State) : Res := runRetire (prgResponse slice page code) s

/-- The slices that exist and are bound to a PASID. -/
def slicesOf (s : Dev) (pasid : Nat) : List Nat := (s.slices.filter fun p => p.2.st != .free && p.2.pasid == pasid).map (·.1)

/-- A header for a wait that no command owns: its queue is none of the adapter's. -/
def noCmd : Cmd := ⟨4096, 0, 0, 0, none⟩

/-- The slices that an Invalidate Request concerns: those bound to its PASID, or every one for a whole-function request (Table 4.11). -/
def invalSlices (s : Dev) (pasid : Nat) (whole : Bool) : List Nat :=
  if whole then (s.slices.filter fun p => p.2.st != .free).map (·.1) else slicesOf s pasid

/-- ATS_INVALIDATE_REQUEST (R151): as XLT_INVAL over its range for every slice that it concerns; the completion leaves when
step 4 of R143 has ended for each. It is carried out even where four closed epochs of a slice have holders, and closes a fifth: R146
refuses commands only, and the host cannot be refused. A request for the whole function covers every page of space 0 whatever its BASE and
LENGTH are, of which the manual says nothing (log 153). -/
def atsInvalidate (pasid base length : Nat) (whole : Bool) (itag : Nat) (s : Dev) : Dev :=
  let lo := if whole then 0 else base / 4096
  let hi := if whole then allPages else ceilDiv (base + length) 4096
  let s := (invalSlices s pasid whole).foldl (fun s k =>
    let (e, s) := invalidate k 0 lo hi s
    if (holdersOf s k e).isEmpty then invalDone k e s
    else { s with waits := s.waits ++ [(noCmd, 0, .ats k e s.now false itag)] }) s
  atsInvalDone itag s

def execAtsInvalidateRequest (pasid base length : Nat) (whole : Bool) (itag : Nat) (s : State) : Res :=
  runLevels (atsInvalidate pasid base length whole itag) s

end Sys2Proof.Machine
end

