-- ==== Sys2Proof/Machine/IoPorts.lean ====
section
/-!
DEFINITION. Sys2Proof/Machine/IoPorts.lean: the host port and the accelerator ports: link loss and reset, HOST_RESUME, the
write log, returning reads, ZAL and upstream requests, the BAR4 window, and the training of ports (R152, R243, R347 to R380,
R479, R537).
-/
namespace Sys2Proof.Machine

/-- A host port (15) or an accelerator port (0 to 7). -/
def ioPort (k : Nat) : Bool := decide (k = 15) || decide (k < 8)

/-- The space behind a port. -/
def spaceOf (k : Nat) : Nat := if k = 15 then 0 else k + 2

/-- The host port and the accelerator ports. -/
def ioPorts : List Nat := [15, 0, 1, 2, 3, 4, 5, 6, 7]

/-! ## What BAR4 shows of the stacks (R351, R353, R390, R392) -/

/-- Bytes of `[a, a + n)` at or past an end. -/
def bytesPast (a n e : Nat) : Nat := a + n - Nat.max a (Nat.min e (a + n))

/-- The address lies in the adapter's own part of the backing store, which is laid out for its own use (R390). -/
def ownStore (a : Nat) : Bool := decide (a < backingEnd) && !(decide (0x62000000 ≤ a) && decide (a < 0x62800000))

/-- A byte of the window table in the backing store, primary or mirror (R110, R391, Table 11.5): of an entry that is cached on-die, what
its last write-back stored (R392). -/
def windowByte (s : Dev) (a : Nat) : Option Byte :=
  if a < 0x40000000 ∨ 0x60000000 ≤ a then none
  else
    let o := a - 0x40000000
    let e := match tget s.windows (o / 4096 * 128 + o % 2048 / 16) with
      | none => 0
      | some w => if w.cached then w.stored else encWindow w
    some (BitVec.ofNat 8 (e / 256 ^ (o % 16)))

/-- `m` bytes of Millefeuille as BAR4 reads them: those of the adapter's own part that no table lays out are free (log 5). -/
def winBytes (s : Dev) (a m v : Nat) : List Byte :=
  (List.range m).map fun i =>
    if ownStore (a + i) then (windowByte s (a + i)).getD (BitVec.ofNat 8 (v / 256 ^ i)) else memGet s.mem (a + i)

/-- A read of the stacks through BAR4 completes (R353, R355). -/
def smemBarRead (a n : Nat) (s : Dev) : Dev :=
  let m := n - bytesPast a n smemBytes
  let (v, s) := if a < backingEnd then freshValue s else (0, s)
  emit (.barRead (padTo (winBytes s a m v) n) (poisonedAt s a m)) s

/-! ## Held work (R364, R365) -/

/-- The queue pair for which the adapter reads at a port. -/
def useQpn (s : Dev) : PortUse → Option Nat
  | .respRead q _ _ => some q
  | .respAtomic q _ => some q
  | .collInput g k _ => (runOf s g k).map (·.qpn)
  | .moeTable g k _ => (moeRunOf s g k).map (·.qpn)
  | .moeRow g k _ _ _ => (moeRunOf s g k).map (·.qpn)
  | .dropped _ => none
  | .bar _ => none

/-- The entry on whose behalf the adapter reads at a port. -/
def useOwner (s : Dev) : PortUse → Option (Nat × U32)
  | .respRead _ _ _ => none
  | .respAtomic _ _ => none
  | .collInput g k _ => (runOf s g k).map fun r => (r.qpn, r.index)
  | .moeTable g k _ => (moeRunOf s g k).map fun r => (r.qpn, r.index)
  | .moeRow g k _ _ _ => (moeRunOf s g k).map fun r => (r.qpn, r.index)
  | .dropped _ => none
  | .bar _ => none

/-- What the read returns is discarded. -/
def isDropped : PortUse → Bool
  | .dropped _ => true
  | _ => false

/-- A completion queue with its ring in a space keeps completions from being taken. -/
def stalledIn (s : Dev) (sp cqn : Nat) : Bool := (tget s.cqs cqn).any fun c => c.stalled && c.ring.space == sp

/-- The queue pair is owed a completion through a ring in a space: one that is held, or one that its stalled queue has not taken. -/
def owedIn (s : Dev) (sp qpn : Nat) (q : Qp) : Bool :=
  (s.cqs.any fun c => c.2.ring.space == sp && c.2.hold.any fun e => e.1.qpn == qpn)
    || (stalledIn s sp q.p.scqn && q.rqr.started.any fun e => e.done)
    || (stalledIn s sp q.p.rcqn && (ripeMsg s qpn q).isSome)

/-- A started entry has still to read what lies in a space, or the fragment table of an entry that a read brings does. -/
def sourceIn (sp : Nat) (q : Qp) : Bool :=
  (q.rqr.started.any fun e => !e.done && decide (e.built < e.total) && (entrySpaces e.e).contains sp)
    || (q.sq.reading.isSome && q.sq.cache.any fun e => e.tablePending && decide (weTableSpace e.raw = sp))

/-- The queue pair has work in hand at the port (R364). -/
def workAt (s : Dev) (k qpn : Nat) (q : Qp) : Bool :=
  let p := getIo s k
  (p.log ++ p.queued).any (fun w => w.qpn == some qpn)
    || (allReads s).any (fun r => r.port == k && useQpn s r.use == some qpn)
    || readsAt k q.sq || readsAt k q.rq || sourceIn (spaceOf k) q || owedIn s (spaceOf k) qpn q

/-- The queue pair is HOST_LOST and held for the port. -/
def holdQp (k qpn : Nat) (s : Dev) : Dev :=
  modQp qpn (fun q => { q with
    held := some (q.held.getD s.now), heldBy := if q.heldBy.contains k then q.heldBy else q.heldBy ++ [k] }) s

/-- Every queue pair with work at the port is held. -/
def holdAll (k : Nat) (s : Dev) : Dev :=
  (s.qps.filter fun p => workAt s k p.1 p.2).foldl (fun s p => holdQp k p.1 s) s

/-- Queue pairs that the port holds. -/
def heldAt (s : Dev) (k : Nat) : List Nat := (s.qps.filter fun p => p.2.heldBy.contains k).map (·.1)

/-- Some work is held at the port: a queue pair, a write of the log, or a read. -/
def anyWork (s : Dev) (k : Nat) : Bool :=
  !(heldAt s k).isEmpty || !(getIo s k).log.isEmpty || s.portReads.any fun r => r.port == k

/-- The clocks stood still from `from_` until now, but for the time that another stop that goes on still covers. -/
def stoodStill (s : Dev) (q : Qp) (from_ : Nat) : Nat :=
  let slot := (q.p.txKey.bind fun k => tget s.keySlots k).bind fun x => x.stoppedSince
  let stops := q.held.toList ++ q.frozen.toList ++ slot.toList
  stops.foldl Nat.min s.now - from_

/-- A port's hold on a queue pair ends; with the last hold it goes on (R369 step 4). -/
def releaseQp (k qpn : Nat) (s : Dev) : Dev :=
  match getQp s qpn with
  | none => s
  | some q =>
    let by_ := q.heldBy.filter fun x => x != k
    if !by_.isEmpty then setQp qpn { q with heldBy := by_ } s
    else
      let q' := { q with heldBy := [], held := none }
      let s := setQp qpn (shiftClocks (stoodStill s q' (q.held.getD s.now)) q') s
      runDeferreds qpn (fetchQueue qpn true (fetchQueue qpn false s))

/-! ## What moves when a port opens or its log has room -/

/-- Queue pairs of a list of writes. -/
def writersOf (l : List LoggedWrite) : List Nat := (l.filterMap fun w => w.qpn).eraseDups

/-- Queued writes leave; their data is placed (R92, R97). -/
def pumpPort (k : Nat) (s : Dev) : Dev :=
  let before := (getIo s k).queued
  let s := pumpWrites k s
  let gone := before.filter fun w => !(getIo s k).queued.contains w
  (writersOf gone).foldl (fun s q => settleSends false q (dataPlaced q s)) s

/-- Stall timers of completion queues with rings behind the port stood still while it was closed, from the moment at which each began
(R366). -/
def shiftStalls (k : Nat) (s : Dev) : Dev :=
  let shut := (getIo s k).closedAt
  { s with cqs := tmap s.cqs fun _ c =>
      if c.ring.space = spaceOf k then { c with stallSince := c.stallSince.map fun t => t + (s.now - Nat.max shut t) } else c }

/-- Records that waited for the port (R366). -/
def pumpRecords (sp : Nat) (s : Dev) : Dev :=
  let s := s.cqs.foldl (fun s c => if c.2.ring.space = sp then feedersGo c.1 (pumpCq c.1 s) else s) s
  let s := s.eventQ.foldl (fun s e => if e.2.ring.space = sp then pumpEvents e.1 s else s) s
  let s := s.slices.foldl (fun s x =>
    let s := if x.2.faultQ.any fun r => r.space == sp then pumpCrumbs x.1 s else s
    if x.2.feedbackQ.any fun r => r.space == sp then pumpFeedback x.1 s else s) s
  let s := s.adminQ.foldl (fun s a => if a.2.space = sp then pumpReplies a.1 s else s) s
  startAll (closeQueues s)

/-- A write through BAR4 waits at some port. -/
def windowWaits (s : Dev) : Bool := ioPorts.any fun k => windowQueued (getIo s k)

/-- A read through BAR4 completes: an answer from the stacks at once, one of an accelerator's memory once a read at its port has brought
it (R351). The bytes that are out of range are zero (R353). -/
def barReadNow (r : BarRead) (s : Dev) : Dev :=
  let k := r.target - 2
  let n := r.len - bytesPast r.addr r.len (2 ^ 52)
  if r.target = 1 then smemBarRead r.addr r.len s
  else if !(getIo s k).up || decide (n = 0) then emit (.barRead (List.replicate r.len 0) false) s
  else portRead k 0 r.target deviceOwner [(r.addr, n)] (.bar r.len) none [] [] false s

/-- The reads through BAR4 that wait complete, once every write before them has taken effect (R357). -/
def pumpBar (s : Dev) : Dev :=
  if windowWaits s then s else s.barReads.foldl (fun s r => barReadNow r { s with barReads := s.barReads.drop 1 }) s

/-- ZAL completions that waited for their virtual channel leave (R372). -/
def pumpAnswers (k : Nat) (s : Dev) : Dev :=
  (getIo s k).answers.foldl (fun s o =>
    if portReady s k 2 then
      emit o (zalLay k 2 (match o with | .zalData _ _ _ l => l.length | _ => 0) (modIo k (fun p => { p with answers := p.answers.drop 1 }) s))
    else s) s

/-- What waits at a port leaves, as far as it can: writes, completions, reads. -/
def portGoes (k : Nat) (s : Dev) : Dev := pumpReads k (pumpBar (pumpAnswers k (pumpPort k (compareMarks s))))

/-- Reads that waited for the port: those of the data path, commands, work entries, and address translation and page requests. -/
def resumeReads (k : Nat) (s : Dev) : Dev :=
  let sp := spaceOf k
  let s := pumpReads k s
  let s := s.adminQ.foldl (fun s a => if a.2.space = sp then fetchCommands a.1 s else s) s
  let s := s.qps.foldl (fun s q => fetchQueue q.1 true (fetchQueue q.1 false s)) s
  if k = 15 then pumpPages (pumpAts s) else s

/-- After `f`, the records and the reads that a port could not take before and can take now go on (R360, R363, R378). -/
def reopening (f : Dev → Dev) (s : Dev) : Dev :=
  let full := ioPorts.filter fun k => !recordRoom s (spaceOf k)
  let shut := ioPorts.filter fun k => !readsOpen s k
  let s := f s
  let s := full.foldl (fun s k => if recordRoom s (spaceOf k) then pumpRecords (spaceOf k) s else s) s
  shut.foldl (fun s k => if readsOpen s k then resumeReads k s else s) s

/-- The events of a loss or a reset that waited for the port. -/
def portEvents (k : Nat) (s : Dev) : Dev :=
  let p := getIo s k
  let s := setIo k { p with lossPending := none, fencedCounts := none } s
  let s := match p.lossPending with
    | some n => devEvent 0x50 2 (bankIo k) k n 0 s
    | none => s
  match p.fencedCounts with
  | some (w, r, a) => devEvent 0x51 2 (bankIo k) k w (r * 2 ^ 32 + low a 32) s
  | none => s

/-- The MSI-X vectors that waited for the host port are signalled. -/
def pumpVectors (k : Nat) (s : Dev) : Dev :=
  (getIo s k).vectors.foldl (fun s v => signal v s) (modIo k (fun p => { p with vectors := [] }) s)

/-- The port can issue requests again, after it was closed. -/
def openPort (k : Nat) (s : Dev) : Dev :=
  resumeReads k (pumpVectors k (portEvents k (pumpRecords (spaceOf k) (portGoes k (shiftStalls k s)))))

/-! ## Loss of the link (R363, R364, R377) -/

/-- Step 5 of R367 and R152: translations obtained through ATS go, and outstanding page requests act as FAIL. -/
def dropAts (s : Dev) : Dev :=
  let s := { s with xlt := { s.xlt with cache := s.xlt.cache.filter fun t => !t.ats } }
  failFaults (s.xlt.faults.filter fun f => f.outstanding && f.asked) s

/-- ATS requests, and reads of commands, that were outstanding at a port are lost: they go again when the port opens. -/
def loseRequests (k : Nat) (s : Dev) : Dev :=
  let s := { s with
    adminQ := tmap s.adminQ fun _ a => if aqReadsAt k a then { a with reading := none } else a
    staleReads := s.staleReads.filter fun r => portOfSpace r.ring.space != some k }
  if k = 15 then { s with xlt := { s.xlt with walks := s.xlt.walks.map fun w => { w with asked := false } } } else s

/-- Link loss at a port that is not a reset. What the log holds is lost until HOST_RESUME; what has been discarded is not acknowledged
any more. -/
def linkLoss (k : Nat) (s : Dev) : Dev :=
  let p := getIo s k
  if !p.up then s
  else
    let s := setIo k { p with
      up := false, closedAt := if p.fenced then p.closedAt else s.now, parkAt := none, parkTxOff := false, answers := []
      log := (p.log.filter fun w => !w.data.isEmpty).map fun w => { w with lost := true } } s
    let s := if k < 8 ∧ linkIsZal s (64 + k) = true then loseLink (64 + k) (endScan (64 + k) s) else s
    let s := loseRequests k (holdAll k s)
    let n := (heldAt s k).length
    let s := if k = 15 then dropAts s else s
    emit (.mctp "HOST_LINK_LOST" [k, n]) (modIo k (fun p => { p with held := p.held || anyWork s k, lossPending := some n }) s)

/-- HOST_LINK_LOSS. -/
def execHostLinkLoss (port : Nat) (s : State) : Res := runRetire (fun d => if ioPort port then linkLoss port d else d) s

/-- A port's link is up at a width; the configuration takes effect (R371). -/
def ioUp (k width rtt : Nat) (s : Dev) : Dev :=
  let s := if k = 15 then dropAts s else s
  let p := getIo s k
  let s := setIo k { p with up := true, live := p.cfg, width := width } s
  let s := if linkIsZal s (64 + k) then
      modPort (64 + k) (upLink s.now width rtt) s
    else modPort (64 + k) (fun x => { x with training := false }) s
  let s := if k < 8 then setPower (.acc k) { getPower s (.acc k) with st := .active, idleSince := s.now, wakeDue := none } s else s
  if p.fenced then s else openPort k s

/-- The port may come up: an accelerator port has a MODE and its lanes have power. -/
def ioMayTrain (s : Dev) (k : Nat) : Bool :=
  decide (k = 15) || (decide (fld (getIo s k).cfg 27 24 ≠ 0) && !((getPower s (.acc k)).st == .off) && !clockLost s (64 + k))

/-- HOST_LINK_UP: a link has come up, with the width it trained to (Table 10.9) and, at the host port, whether software has PASID enabled
in its capability (R379). -/
def hostLinkUp (l : IoLink) (s : Dev) : Dev :=
  if ioPort l.port && !(getIo s l.port).up && ioMayTrain s l.port then
    retrainDone (64 + l.port) true (ioUp l.port l.width 0 (if l.port = 15 then { s with pasidEn := l.pasid } else s))
  else s

def execHostLinkUp (link : IoLink) (s : State) : Res := runRetire (hostLinkUp link) s

/-! ## Reset (R362, R367, R377) -/

/-- Bytes still to be acknowledged or issued: a write that has not been discarded. -/
def liveWrite (w : LoggedWrite) : Bool := !w.data.isEmpty

/-- Reads at a port, outstanding or waiting. -/
def readsOf (s : Dev) (k : Nat) : List PortRead := (allReads s).filter fun r => r.port == k

/-- Reads of entries, of commands and of what queues have given up that are outstanding at a port. -/
def ringReadsAt (s : Dev) (k : Nat) : Nat :=
  s.qps.foldl (fun n q => n + b2n (readsAt k q.2.sq) + b2n (readsAt k q.2.rq)) 0
    + s.adminQ.countP (fun a => aqReadsAt k a.2) + (staleAt s k).length

/-- The counts of writes, reads and AtomicOps in hand at a port. -/
def inHand (s : Dev) (k : Nat) : Nat × Nat × Nat :=
  let p := getIo s k
  let r := readsOf s k
  ((p.log ++ p.queued).countP liveWrite, (r.countP fun x => x.kind == 0) + ringReadsAt s k, r.countP fun x => x.kind != 0)

/-- Owners of the payload among a port's transfers in hand. -/
def ownersAt (s : Dev) (k : Nat) : List (Nat × Bool × U32) :=
  let p := getIo s k
  let w := (p.log ++ p.queued).filterMap fun w => match w.qpn, w.owner with
    | some q, some o => if w.record then none else some (q, o.1, o.2)
    | _, _ => none
  w ++ (readsOf s k).filterMap fun r => (useOwner s r.use).map fun o => (o.1, false, o.2)

/-- Payload transfers in hand at a port: writes and reads. -/
def payloadAt (s : Dev) (k : Nat) : Nat :=
  let p := getIo s k
  (p.log ++ p.queued).countP (fun w => liveWrite w && !w.record) + (readsOf s k).length

/-- Reads of work entries at a port are abandoned. -/
def dropFetches (k : Nat) (s : Dev) : Dev :=
  let f := fun (w : WorkQueue) => if readsAt k w then { w with reading := none } else w
  { s with qps := tmap s.qps fun _ q => { q with sq := f q.sq, rq := f q.rq } }

/-- The reads of the data path at a port are abandoned. One through BAR4 completes with zeros, as those of a closed port do (R353,
log 166). -/
def dropReads (k : Nat) (s : Dev) : Dev :=
  let l := readsOf s k
  let s := endHolders (l.flatMap fun r => r.tokens) (keepReads (fun r => r.port != k) s)
  l.foldl (fun s r => match r.use with
    | .bar n => emit (.barRead (List.replicate n 0) false) s
    | _ => s) s

/-- Every transfer in hand is abandoned. The records of the log stay there, lost, for HOST_RESUME to re-issue or to discard and count,
as R370 does after a reset too (log 129). -/
def abandon (k : Nat) (s : Dev) : Dev :=
  let p := getIo s k
  let gone := (p.log ++ p.queued).filter fun w => !w.record
  let s := setIo k { p with
    log := (p.log.filter fun w => w.record).map fun w => { w with lost := true }
    queued := p.queued.filter (fun w => w.record)
    answers := []
    vectors := []
    lostOwners := p.lostOwners ++ ownersAt s k
    lostCount := p.lostCount + payloadAt s k } s
  pumpBar (loseRequests k (dropFetches k (dropReads k (endHolders (gone.filterMap fun w => w.token) s))))

/-- A port is fenced (R367, R418): it issues nothing until HOST_RESUME with FAIL. -/
def fence (k : Nat) (s : Dev) : Dev :=
  let c := inHand s k
  let s := holdAll k s
  let work := anyWork s k
  let s := modIo k (fun p => { p with
    fenced := true, held := p.held || work, closedAt := if p.up && !p.fenced then s.now else p.closedAt, fencedCounts := some c }) s
  emit (.mctp "HOST_DMA_FENCED" [k, c.1, c.2.1, c.2.2]) (abandon k s)

/-- A reset at a port. -/
def portReset (k : Nat) (s : Dev) : Dev :=
  let s := fence k s
  let s := if k = 15 then dropAts { s with host := { s.host with cfg := 0 }, winTarget := 0, winBase := 0 } else s
  resetQueues (spaceOf k) s

/-- HOST_HOT_RESET. -/
def execHostHotReset (port : Nat) (s : State) : Res := runRetire (fun d => if ioPort port then portReset port d else d) s

/-! ## HOST_RESUME (R368 to R370) -/

/-- What a port had outstanding, to be issued again. -/
inductive Reissue where
  | data (r : PortRead)
  | fetch (qpn : Nat) (rq : Bool) (slice sp : Nat) (first : U32) (n : Nat)
  deriving DecidableEq, Repr

/-- A read takes its place among others in the order of their issue. -/
def addSent (x : Nat × Reissue) : List (Nat × Reissue) → List (Nat × Reissue)
  | [] => [x]
  | y :: l => if x.1 < y.1 then x :: y :: l else y :: addSent x l

/-- The reads outstanding at a port, in their original order; those of which the data would be discarded are not among them. -/
def sentReads (s : Dev) (k : Nat) : List (Nat × Reissue) :=
  let data := s.portReads.filterMap fun r =>
    if r.port = k ∧ r.kind = 0 ∧ isDropped r.use = false then some (r.seq, Reissue.data r) else none
  let of := fun (qpn : Nat) (q : Qp) (rq : Bool) =>
    let w := wq q rq
    match w.reading with
    | some (i, n) => if readsAt k w then [(w.readNo, Reissue.fetch qpn rq q.slice w.ring.space i n)] else []
    | none => []
  (data ++ s.qps.flatMap fun q => of q.1 q.2 false ++ of q.1 q.2 true).foldl (fun l x => addSent x l) []

/-- A read is issued again, under its own tag; nothing of it has returned. -/
def resend1 (x : Reissue) (s : Dev) : Dev :=
  match x with
  | .data r =>
    issueRead r { s with portReads := s.portReads.map fun y =>
      if y.port = r.port ∧ y.tag = r.tag then { y with got := [], bad := false } else y }
  | .fetch qpn rq slice sp i n => issueFetch qpn rq slice sp i n s

/-- The AtomicOps outstanding at the loss leave their queue pairs in ERROR: ATOMIC_UNKNOWN (R369 step 3). -/
def failAtomics (k : Nat) (s : Dev) : Dev :=
  let l := s.portReads.filter fun r => r.port == k && r.kind != 0
  let s := { s with portReads := s.portReads.filter fun r => !(r.port == k && r.kind != 0) }
  let s := endHolders (l.flatMap fun r => r.tokens) s
  l.foldl (fun s r =>
    let s := bump 0x2F k s
    match useQpn s r.use with
    | some q => enterErrorOf q stHostLost.toNat none 0 [] stHostLost (modQp q (fun x => { x with heldBy := x.heldBy.filter (· != k), held := if x.heldBy.all (· == k) then none else x.held }) s)
    | none => s) s

/-- The lost writes of a log that satisfy `on` are issued again, in their original order, and follow in it what has been issued since. -/
def reissueLost (k : Nat) (on : LoggedWrite → Bool) (s : Dev) : Nat × Dev :=
  let p := getIo s k
  let again := (p.log.filter fun w => w.lost && on w).map fun w => { w with lost := false }
  (again.length, again.foldl (fun s w => issueWrite k w s)
    (setIo k { p with log := p.log.filter (fun w => !(w.lost && on w)) ++ again } s))

/-- Reads of which the data would be discarded are not issued again: they have ended. -/
def endDropped (k : Nat) (s : Dev) : Dev :=
  let gone := fun (r : PortRead) => r.port == k && r.kind == 0 && isDropped r.use
  endHolders ((s.portReads.filter gone).flatMap fun r => r.tokens) { s with portReads := s.portReads.filter fun r => !gone r }

/-- ACTION REPLAY. -/
def replayPort (c : CmdInfo) (h : Cmd) (k : Nat) (s : Dev) : Dev :=
  if !(getIo s k).held then reply c h csOk 0 0 s
  else
    let (writes, s) := reissueLost k (fun _ => true) (endDropped k s)
    let reads := sentReads s k
    let atomics := s.portReads.countP fun r => r.port == k && r.kind != 0
    let s := failAtomics k (reads.foldl (fun s x => resend1 x.2 s) s)
    let l := heldAt s k
    let s := modIo k (fun p => { p with held := false }) s
    let s := l.foldl (fun s q => releaseQp k q s) s
    let s := resumeReads k (pumpRecords (spaceOf k) (portGoes k s))
    reply c h csOk 0 (packResult [(writes, 4), (reads.length, 4), (atomics, 4), (l.length, 4)]) s

/-- A record that was not written leaves its ring's producer index where it was (R370 step 4). -/
def rollBack (fenced : Bool) (w : LoggedWrite) (s : Dev) : Dev :=
  let inRing := fun (sp base lg : Nat) => decide (sp = w.space) && decide (base ≤ w.addr) && decide (w.addr < base + 2 ^ lg * 32)
  let hit := fun (r : Ring) => inRing r.space r.base r.lg
  let back := fun (r : Ring) => { r with prod := r.prod - 1 }
  match s.cqs.find? fun c => hit c.2.ring with
  | some (c, x) => setCq c { x with ring := back x.ring, writtenAt := x.writtenAt.dropLast } s
  | none =>
    match s.eventQ.find? fun e => e.2.en && hit e.2.ring with
    | some (q, x) => setEvq q { x with ring := back x.ring } s
    | none =>
      match s.slices.find? fun x => x.2.faultQ.any hit || x.2.feedbackQ.any hit with
      | some (k, x) =>
        if x.faultQ.any hit then setSlice k { x with faultQ := x.faultQ.map back } s
        else setSlice k { x with feedbackQ := x.feedbackQ.map back } s
      | none =>
        match s.adminQ.find? fun a => a.2.en && inRing a.2.space a.2.rbase a.2.lg with
        | some (n, a) => if fenced then s else setAq n { a with rprod := a.rprod - 1 } s
        | none => s

/-- Records that wait on-die for rings in a space. Crumbs are not among them: no Crumb is dropped (R132, log 154). -/
def waitingRecords (sp : Nat) (s : Dev) : Nat :=
  s.cqs.foldl (fun n c => if c.2.ring.space = sp then n + c.2.hold.length else n) 0
    + s.eventQ.foldl (fun n e => if e.2.en ∧ e.2.ring.space = sp then n + e.2.hold.length else n) 0
    + s.qps.foldl (fun n q =>
        if q.2.merged.isSome && (getSlice s q.2.slice).feedbackQ.any fun r => r.space == sp then n + 1 else n) 0
    + s.adminQ.foldl (fun n a => if a.2.space = sp then n + a.2.owed.length else n) 0

/-- Records that wait on-die for rings in a space are discarded, but for Crumbs (log 154). -/
def dropRecords (sp : Nat) (s : Dev) : Dev :=
  let s := s.cqs.foldl (fun s c => if c.2.ring.space = sp then freeHold c.2.hold s else s) s
  { s with
    cqs := tmap s.cqs fun _ c => if c.ring.space = sp then { c with hold := [], stallSince := none, stalled := false } else c
    eventQ := tmap s.eventQ fun _ e => if e.en ∧ e.ring.space = sp then { e with hold := [], dropped := 0, firstDrop := 0, dropMask := 0 } else e
    qps := tmap s.qps fun _ q =>
      if (getSlice s q.slice).feedbackQ.any fun r => r.space == sp then { q with merged := none } else q
    adminQ := tmap s.adminQ fun _ a => if a.space = sp then { a with owed := [] } else a }

/-- DISCARD 1: no record due before the command is written; how many there were is the first part. Those that have been issued since the
link came up are on their way. -/
def discardRecords (k : Nat) (s : Dev) : Nat × Dev :=
  let p := getIo s k
  let l := p.log.filter (fun w => w.record && w.lost) ++ p.queued.filter fun w => w.record
  let n := l.length + waitingRecords (spaceOf k) s
  let s := setIo k { p with log := p.log.filter (fun w => !(w.record && w.lost)), queued := p.queued.filter (fun w => !w.record) } s
  (n, dropRecords (spaceOf k) (l.foldl (fun s w => rollBack p.fenced w s) s))

/-- A write of the log once its payload has been discarded: of one issued on the present link, only its acknowledgement is awaited. -/
def discardLogged (w : LoggedWrite) : List LoggedWrite :=
  if w.record || w.data.isEmpty then [w]
  else if w.lost then []
  else [{ w with data := [], qpn := none, owner := none, token := none }]

/-- Step 1 of R370: all payload in hand at the port is discarded; how many transfers there were is the first part. -/
def discardPayload (k : Nat) (s : Dev) : Nat × Dev :=
  let p := getIo s k
  let n := p.lostCount + payloadAt s k
  let gone := p.queued.filter fun w => !w.record
  let s := setIo k { p with
    log := p.log.flatMap discardLogged, queued := p.queued.filter (fun w => w.record), lostOwners := [], lostCount := 0 } s
  (n, dropFetches k (dropReads k (endHolders (gone.filterMap fun w => w.token) s)))

/-- The queue pairs that lose a transfer with step 1: those that the port holds, and those whose payload waits or is outstanding there
(log 167). -/
def losersAt (s : Dev) (k : Nat) : List Nat :=
  (heldAt s k ++ writersOf ((getIo s k).queued.filter fun w => !w.record)
    ++ (readsOf s k).filterMap fun r => useQpn s r.use).eraseDups

/-- A held queue pair fails: the entries that own lost transfers complete with HOST_LOST (R370 step 2). -/
def failHeld (k : Nat) (owners : List (Nat × Bool × U32)) (qpn : Nat) (s : Dev) : Dev :=
  let mine := (owners.filter fun o => o.1 == qpn).map (·.2)
  let s := modQp qpn (fun q => { q with heldBy := q.heldBy.filter (· != k), held := if q.heldBy.all (· == k) then none else q.held }) s
  enterErrorOf qpn stHostLost.toNat none 0 mine stHostLost s

/-- ACTION FAIL. The reserve that discarded records leave serves the slices' other completion queues (R69). -/
def failPort (c : CmdInfo) (h : Cmd) (k : Nat) (discard : Bool) (s : Dev) : Dev :=
  let p := getIo s k
  if !p.held && !p.fenced then reply c h csOk 0 0 s
  else
    let owners := p.lostOwners ++ ownersAt s k
    let l := losersAt s k
    let (transfers, s) := discardPayload k s
    let (records, s) := if discard then discardRecords k s else (0, (reissueLost k (fun w => w.record) s).2)
    let s := modIo k (fun p => { p with held := false, fenced := false }) s
    let s := l.foldl (fun s q => failHeld k owners q s) s
    let s := if p.fenced then openPort k s else resumeReads k (pumpRecords (spaceOf k) (portGoes k s))
    reply c h csOk 0 (packResult [(l.length, 4), (transfers, 4), (records, 4)]) s

/-- HOST_RESUME: PORT (byte 8), ACTION (byte 9): 0 REPLAY, 1 FAIL; DISCARD (byte 10). -/
def hostResume (h : Cmd) (port action discard : Nat) : Dev → Dev :=
  command 0x0801 h false
    (firstBad [(8, ioPort port), (9, decide (action < 2)), (10, decide (discard < 2) && (decide (action = 1) || decide (discard = 0)))])
    fun c s =>
    let p := getIo s port
    if !p.up then refuse c h csBusy s
    else if action = 0 ∧ p.fenced = true then refuse c h csNotPermitted s
    else if action = 0 then replayPort c h port s
    else failPort c h port (discard == 1) s

def execHostResume (h : Cmd) (port action discard : Nat) (s : State) : Res := runRetire (hostResume h port action discard) s

/-! ## The write log and returning reads (R363, R373, R380, R399) -/

/-- The log without the `n` oldest writes that the present link has carried: a lost one is not acknowledged. -/
def ackLog : Nat → List LoggedWrite → List LoggedWrite
  | _, [] => []
  | n, w :: r => if w.lost then w :: ackLog n r else if n = 0 then w :: r else ackLog (n - 1) r

/-- WRITE_LOG_ACK: the oldest writes of the log are acknowledged. -/
def writeLogAck (k n : Nat) (s : Dev) : Dev :=
  if ioPort k && (getIo s k).up then
    reopening (fun s => portGoes k (modIo k (fun p => { p with log := ackLog n p.log }) s)) s
  else s

def execWriteLogAck (port tlps : Nat) (s : State) : Res := runRetire (writeLogAck port tlps) s

/-- A read through BAR4 has its bytes. What one that the completer refused returns to the host is open: no table has it (log 166). -/
def barArrives (n : Nat) (d : ReadData) (s : Dev) : Dev :=
  if d.refused then
    let (v, s) := freshValue s
    emit (.barRead (natLe v n) (v / 2 ^ (8 * n) % 2 == 1)) s
  else emit (.barRead (padTo d.bytes n) d.poisoned) s

/-- A read's data goes where it was read for. A refused one fails what issued it (Table 10.10). -/
def readArrives (u : PortUse) (d : ReadData) (s : Dev) : Dev :=
  match u with
  | .respRead qpn p k =>
    if d.refused then accessRefused qpn (wkIndex (dsWkey (p.desc.getD 0))) p s
    else
      match getQp s qpn with
      | none => s
      | some q =>
        let n := readSpan q (dsLen (p.desc.getD 0))
        respond qpn pkReadResp (phPsn p.hdr + u32 k) k (decide (k + 1 = n)) d.bytes d.poisoned s
  | .respAtomic qpn p =>
    if d.refused then accessRefused qpn (wkIndex (dsWkey (p.desc.getD 0))) p s
    else
      let v := BitVec.ofNat 64 (leNat (d.bytes.take 8))
      let s := modRsp qpn (keepResult (phPsn p.hdr) v d.poisoned) s
      respond qpn pkAtomicResp (phPsn p.hdr) 0 true (natLe v.toNat 8) d.poisoned s
  | .collInput g k dst => inputArrived g k dst d s
  | .moeTable g k off => routingArrived g k off d s
  | .moeRow g k t row tick => rowArrived g k t row tick d s
  | .dropped _ => s
  | .bar n => barArrives n d s

/-- A read ends: its translation is no longer held. What returns for a slice in fault-stop is discarded (R55); a refused source read
fails its entry (Table 10.10). -/
def endRead (r : PortRead) (d : ReadData) (s : Dev) : Dev :=
  let s := { s with portReads := s.portReads.filter fun x => !(x.port == r.port && x.tag == r.tag) }
  let s := endHolders r.tokens s
  if (useSlice s r.use).any fun k => (getSlice s k).st == .faultStop then s
  else
  match d.refused, useOwner s r.use with
  | true, some o => failOwner o.1 (some o) stLocalAccess stLocalAccess s
  | _, _ => readArrives r.use { d with bytes := padTo d.bytes r.length } s

/-- The outstanding read of a tag. -/
def findRead (s : Dev) (k tag : Nat) : Option PortRead := s.portReads.find? fun r => r.port == k && r.tag == tag

/-- The completer refused: counted and latched (R380). -/
def refusedAt (r : PortRead) (status : Nat) (s : Dev) : Dev := cplError r.port r.addr r.tag status s

/-- PORT_READ_COMPLETION. -/
def readCompletion (k tag status : Nat) (d : ReadData) (s : Dev) : Dev :=
  match findRead s k tag with
  | none => s
  | some r =>
    if !ioOpen (getIo s k) || ((useQpn s r.use).bind fun q => getQp s q).any (fun q => q.heldBy.contains k) then s
    else if status = 0 then endRead r { d with refused := false } s
    else endRead r ⟨[], false, true⟩ (refusedAt r status s)

def execPortReadCompletion (port tag status : Nat) (data : ReadData) (s : State) : Res :=
  runRetire (reopening (readCompletion port tag status data)) s

/-- HOST_READ_TIMEOUT (R515 code 0x0202): the data, which nothing gives, is poisoned. -/
def hostReadTimeout (tag : Nat) (s : Dev) : Dev :=
  match findRead s 15 tag with
  | none => s
  | some r =>
    let s := latchEvent 40 0x0202 2 none r.addr tag 0 s
    let (v, s) := freshValue s
    endRead r ⟨natLe v r.length, true, false⟩ s

def execHostReadTimeout (tag : Nat) (s : State) : Res := runRetire (reopening (hostReadTimeout tag)) s

/-- ENTRY_FETCH_RETURN. -/
def execEntryFetchReturn (qpn : Nat) (rq : Bool) (entries : List FetchedEntry) (s : State) : Res :=
  runLevels (reopening (entryFetchReturnEffect qpn rq entries)) s

/-- COMMAND_FETCH_RETURN. -/
def execCommandFetchReturn (queue : Nat) (packets : List (BitVec 512)) (s : State) : Res :=
  runLevels (reopening (commandsReturn queue packets)) s

/-- ATS_COMPLETION. -/
def execAtsCompletion (slice page : Nat) (r w u : Bool) (size pfn : Nat) (s : State) : Res :=
  runRetire (reopening (atsCompletion slice page r w u size pfn)) s

/-- FLOW: on a ZAL link what waited for a virtual channel goes on (R257, R372). -/
def flowArrives (n : Nat) (off : BitVec 7) (s : Dev) : Dev :=
  if acceptsFlit s n then
    let s := gotFlow n off (tookFlit n s)
    if 64 ≤ n then portGoes (n - 64) s else s
  else s

def execFlow (n : Nat) (off : BitVec 7) (s : State) : Res := runRetire (reopening (flowArrives n off)) s

/-! ## Doorbell apertures (R39, R349, R350, R375) -/

/-- A write of an accelerator falls in its port's aperture: the offset in it. -/
def apertureOff (s : Dev) (a addr n : Nat) : Option Nat :=
  let base := fld (getIo s a).dbBase 63 25 * 2 ^ 25
  if base ≤ addr ∧ addr + n ≤ base + 2 ^ 25 then some (addr - base) else none

/-! ## ZAL (R373) and PCIe mode (R374) -/

def zOp (h : BitVec 128) : Nat := fld h 127 122
def zEp (h : BitVec 128) : Bool := bit h 120
def zTag (h : BitVec 128) : Nat := fld h 119 108
def zLen (h : BitVec 128) : Nat := fld h 107 95
def zStatus (h : BitVec 128) : Nat := fld h 55 52
def zAddr (h : BitVec 128) : Nat := fld h 51 0

/-- A reserved OP, a reserved field that is set, or a LEN that is wrong for the OP. -/
def zMalformed (h : BitVec 128) (data : List Byte) : Bool :=
  let op := zOp h
  let cpl := op == 0x10 || op == 0x11
  let size := decide (1 ≤ zLen h ∧ zLen h ≤ 4096)
  let lenOk :=
    if op = 1 ∨ op = 0x11 then size && decide (data.length = zLen h)
    else if op = 2 then size && data.isEmpty
    else if op = 3 then decide (zLen h = 8) && decide (data.length = 8)
    else if op = 4 then decide (zLen h = 16) && decide (data.length = 16)
    else if op = 0x10 then decide (zLen h = 0) && data.isEmpty
    else false
  !lenOk || decide (fld h 94 56 ≠ 0) || (!cpl && decide (zStatus h ≠ 0)) || (op == 0x11 && decide (fld h 51 12 ≠ 0))

/-- The address of byte `g` of a read's pieces. -/
def addrAt : List (Nat × Nat) → Nat → Nat
  | [], _ => 0
  | (a, n) :: l, g => if g < n then a + g else addrAt l (g - n)

/-- A completion at a ZAL port: data gathers until the read is whole. Completions of one read come in address order (R373): one that is
out of turn, or brings more than is missing, is dropped and counted (log 168). -/
def zalCompletion (a : Nat) (h : BitVec 128) (data : List Byte) (s : Dev) : Dev :=
  match findRead s a (zTag h) with
  | none => s
  | some r =>
    if zStatus h ≠ 0 then readCompletion a (zTag h) (zStatus h) ⟨[], false, true⟩ s
    else
      let got := r.got ++ data
      let bad := r.bad || zEp h
      if zOp h = 0x11 ∧ (zAddr h % 4096 ≠ addrAt r.pieces r.got.length % 4096 ∨ r.length < got.length) then bump 0x22 (64 + a) s
      else
        let s := { s with portReads := s.portReads.map fun x => if x.port = a ∧ x.tag = zTag h then { x with got := got, bad := bad } else x }
        if r.length ≤ got.length then readCompletion a (zTag h) 0 ⟨got, bad, false⟩ s else s

/-- A ZAL completion of the adapter's goes out behind those that wait, once its virtual channel takes it (R372). -/
def answer (a : Nat) (o : Out) (s : Dev) : Dev := pumpAnswers a (modIo a (fun p => { p with answers := p.answers ++ [o] }) s)

/-- What a read of a doorbell page or of a push page returns: zeros (R39, R43). -/
def pageRead (n : Nat) : List Byte := List.replicate n 0

/-- A ZAL transaction that is well formed. A read of the aperture returns zeros (R39, R43); the adapter serves no other read, and no
atomics (log 63). -/
def zalTake (a : Nat) (h : BitVec 128) (data : List Byte) (s : Dev) : Dev :=
  let op := zOp h
  if op = 1 then
    match apertureOff s a (zAddr h) data.length with
    | some off => apertureWrite a 3 off data s
    | none => s
  else if op = 2 then
    match apertureOff s a (zAddr h) (zLen h) with
    | some _ => answer a (.zalData a (zTag h) (zAddr h % 4096) (pageRead (zLen h))) s
    | none => answer a (.zalCpl a (zTag h) 1) s
  else if op = 3 ∨ op = 4 then answer a (.zalCpl a (zTag h) 2) s
  else zalCompletion a h data s

/-- ZAL_TRANSACTION. -/
def zalTransaction (a : Nat) (h : BitVec 128) (data : List Byte) (s : Dev) : Dev :=
  if !(decide (a < 8) && (getIo s a).up && linkIsZal s (64 + a)) then s
  else if zMalformed h data then bump 0x22 (64 + a) s
  else zalTake a h data s

def execZalTransaction (a : Nat) (hdr : BitVec 128) (data : List Byte) (s : State) : Res :=
  runRetire (reopening (zalTransaction a hdr data)) s

/-- ACC_UPSTREAM_REQUEST (R374): the aperture claims writes, and only those: a read of it is answered as every other request. -/
def accUpstream (a : Nat) (write : Bool) (addr : Nat) (data : List Byte) (s : Dev) : Dev :=
  if !(decide (a < 8) && (getIo s a).up && decide (fld (getIo s a).live 27 24 = 2)) then s
  else
    match (if write then apertureOff s a addr data.length else none) with
    | some off => apertureWrite a 3 off data s
    | none => emit (.unsupportedRequest a) s

def execAccUpstreamRequest (a : Nat) (write : Bool) (addr : Nat) (data : List Byte) (s : State) : Res :=
  runRetire (accUpstream a write addr data) s

/-! ## The movable window (R351 to R355) -/

/-- HIF_WIN_CTL is written: a reserved TARGET leaves it as it is. -/
def winCtlWrite (v : U64) (s : Dev) : Dev :=
  if 10 ≤ fld v 63 60 then s else { s with winTarget := fld v 63 60, winBase := fld v 51 20 }

def execHifWinCtlWrite (value : U64) (s : State) : Res := run (winCtlWrite value) s

/-- Parts of `[a, a + n)` of Millefeuille that BAR4 may write: the rate table, and what lies above the backing store. -/
def winParts (a n : Nat) : List (Nat × Nat) :=
  [(0x62000000, 0x62800000), (backingEnd, smemBytes)].filterMap fun r =>
    let lo := Nat.max a r.1
    let hi := Nat.min (a + n) r.2
    if lo < hi then some (lo, hi - lo) else none

/-- A BAR4 write to Millefeuille (R353 to R355). -/
def winSmemWrite (a : Nat) (data : List Byte) (ep : Bool) (s : Dev) : Dev :=
  let n := data.length
  let oor := bytesPast a n smemBytes
  let parts := winParts a n
  let kept := parts.foldl (fun m x => m + x.2) 0
  let s := bumpBy 0x2C 0 oor s
  let s := if kept + oor < n then bump 0x2D 0 s else s
  parts.foldl (fun s x => smemWrite x.1 ((data.drop (x.1 - a)).take x.2) ep s) s

/-- BAR4_WRITE. -/
def bar4Write (off : Nat) (data : List Byte) (ep : Bool) (s : Dev) : Dev :=
  let a := s.winBase * 2 ^ 20 + off
  if s.winTarget = 0 ∨ data.isEmpty = true ∨ 2 ^ 28 < off + data.length then s
  else if s.winTarget = 1 then winSmemWrite a data ep s
  else
    let k := s.winTarget - 2
    if !(getIo s k).up then bumpBy 0x2C 0 data.length s
    else
      let oor := bytesPast a data.length (2 ^ 52)
      store s.winTarget a (data.take (data.length - oor)) ep false deviceOwner none (bumpBy 0x2C 0 oor s)

def execBar4Write (offset : Nat) (data : List Byte) (ep : Bool) (s : State) : Res := runRetire (bar4Write offset data ep) s

/-- BAR4_READ: it completes behind every earlier write, and against the window as it stands now (R352, R357). -/
def bar4Read (off n : Nat) (s : Dev) : Dev :=
  if s.winTarget = 0 ∨ 2 ^ 28 < off + n then emit (.barRead (List.replicate n 0) false) s
  else pumpBar { s with barReads := s.barReads ++ [⟨s.winTarget, s.winBase * 2 ^ 20 + off, n⟩] }

def execBar4Read (offset length : Nat) (s : State) : Res := run (bar4Read offset length) s

/-! ## Training (R243, R244, R372, R537) -/

/-- Training of an accelerator port ends: in ZAL mode with the FEC, the width and the reset that the peer's PEER flit reports (R372, R377),
in PCIe mode at the width that was trained (Table 10.9). -/
def accTrained (a : Nat) (peer : PeerLink) (rtt : Nat) (s : Dev) : Dev :=
  let n := 64 + a
  if (getIo s a).up || !ioMayTrain s a then retrainDone n (getIo s a).up (modPort n (fun p => { p with training := false }) s)
  else
    let zal := decide (fld (getIo s a).cfg 27 24 = 1)
    let s := modPort n (fun p => { p with training := false }) s
    if zal && decide (1500 < rtt) then retrainDone n false (devEvent 0x32 0 (bankIo a) n rtt 0 s)
    else
      let s := if zal then emit (.peerFlit n 1 false 16 s.routing.selfEpid) s else s
      if zal && (peer.full || decide (peer.width ≠ 16)) then retrainDone n false (devEvent 0x31 0 (bankIo a) n 0 0 s)
      else retrainDone n true (ioUp a peer.width rtt (if zal && peer.reset then portReset a s else s))

/-- PORT_TRAINED. -/
def execPortTrained (n : Nat) (peer : PeerLink) (rtt : Nat) (s : State) : Res :=
  runRetire (fun d =>
    if n < 64 then fabTrained n peer.full peer.width rtt d
    else if n < 72 then accTrained (n - 64) peer rtt d else d) s

/-- A ZAL link that no lane group can carry is lost (R255, R372). -/
def narrowComplete (n peerLanes : Nat) (peerNext : BitVec 16) (s : Dev) : Dev :=
  let s' := narrowDone n peerLanes peerNext s
  if !(decide (64 ≤ n) && linkIsZal s n) then s'
  else if (getPort s' n).up && (getPort s' n).narrowSince.isSome then linkLoss (n - 64) s'
  else portGoes (n - 64) s'

/-- NARROW_COMPLETE. -/
def execNarrowComplete (n peerLanes : Nat) (peerNext : BitVec 16) (s : State) : Res :=
  runRetire (reopening (narrowComplete n peerLanes peerNext)) s

/-- The port exists under its configuration register (R537). -/
def portNamed (s : Dev) (n : Nat) : Bool :=
  if n < 64 then
    let m := fld (getFab s (n / 2)).cfg 27 24
    decide (m ≠ 0) && (decide (n % 2 = 0) || m == 2 || m == 4)
  else decide (n < 72) && decide (fld (getIo s (n - 64)).cfg 27 24 ≠ 0)

/-- PORT_RETRAIN: the port goes down, even if it is down already (R269, R537), and trains; the reply comes when training ends. -/
def portRetrain (h : Cmd) (n : Nat) : Dev → Dev :=
  command 0x0501 h false none fun c s =>
    if !portNamed s n then badParam c h 8 s
    else if s.transitReset then refuse c h csBusy s
    else
      let s := if n < 64 then
          (if (getPort s n).up then portDown n 3 s else devEvent 0x30 0 (bankFab n) n 3 0 s)
        else linkLoss (n - 64) s
      waitOn h c.op (.port n) (modPort n (fun p => { p with training := true }) s)

def execPortRetrain (h : Cmd) (n : Nat) (s : State) : Res := runRetire (portRetrain h n) s

end Sys2Proof.Machine
end

