-- ==== Sys2Proof/Machine/Txe.lean ====
section
/-!
DEFINITION. Sys2Proof/Machine/Txe.lean: what a transform program computes over one work item (R155 to R179): its registers,
scratch and streams, one meaning per instruction, and the run of prologue and granules.
-/
namespace Sys2Proof.Machine

/-- Counts of R165 and R179. -/
structure TxeCounts where
  made : Nat
  zeroed : Nat
  sat : Nat
  addr : Nat
  deriving DecidableEq, Repr

/-- An item as it runs: its registers, scale sidecars, work region, streams and counts. `ord` is the ordinal of the next
element rounded stochastically (R170), `steps` the instructions executed. Register tables read zero where they list nothing. -/
structure Ctx where
  id : Nat
  key : U64
  aux : List Byte
  auxBytes : Nat
  workBytes : Nat
  v : Tbl (BitVec 1024)
  side : Tbl U32
  m : Tbl (BitVec 128)
  s : Tbl U64
  a : Tbl U32
  work : Tbl Byte
  inp : List Byte
  tgt : List Byte
  out : List Byte
  ord : Nat
  steps : Nat
  n : TxeCounts
  deriving DecidableEq, Repr

def Ctx.vreg (x : Ctx) (k : Nat) : BitVec 1024 := tgetD x.v k 0
def Ctx.sideOf (x : Ctx) (k : Nat) : U32 := tgetD x.side k 0
def Ctx.sreg (x : Ctx) (k : Nat) : U64 := tgetD x.s k 0
def Ctx.areg (x : Ctx) (k : Nat) : U32 := tgetD x.a k 0

/-! ## Scratch (R179) -/

/-- The scratch address space wraps at the smallest power of two that holds both regions, at least 4 KiB. -/
def scratchSize (n : Nat) : Nat :=
  let k := Nat.max 4096 n
  if 2 ^ Nat.log2 k = k then k else 2 ^ (Nat.log2 k + 1)

/-- One byte of scratch; none beyond the two regions. A byte of the work region that nothing has written is open (log 65). -/
def scratchByte (x : Ctx) (a : Nat) : Option Byte :=
  if a < x.auxBytes then some (x.aux.getD a 0)
  else if a < x.auxBytes + x.workBytes then some (tgetD x.work a (Config.workByte x.id a))
  else none

/-- Byte addresses of an access. -/
def scratchAddrs (x : Ctx) (a : U32) (n : Nat) : List Nat :=
  let size := scratchSize (x.auxBytes + x.workBytes)
  (List.range n).map fun k => (a.toNat + k) % size

def countAddr (x : Ctx) : Ctx := { x with n := { x.n with addr := x.n.addr + 1 } }

/-- Bytes read from scratch: zero beyond the two regions, which is counted once an access. -/
def scratchRead (a : U32) (n : Nat) (x : Ctx) : List Byte × Ctx :=
  let bs := (scratchAddrs x a n).map (scratchByte x)
  (bs.map fun b => b.getD 0, if bs.any (·.isNone) then countAddr x else x)

/-- Bytes written to scratch: those outside the work region are suppressed and the access counted. -/
def scratchWrite (a : U32) (bs : List Byte) (x : Ctx) : Ctx :=
  let own := fun (k : Nat) => decide (x.auxBytes ≤ k) && decide (k < x.auxBytes + x.workBytes)
  let ks := scratchAddrs x a bs.length
  let w := (ks.zip bs).foldl (fun w p => if own p.1 then tset w p.1 p.2 else w) x.work
  let x' := { x with work := w }
  if ks.all own then x' else countAddr x'

/-! ## Operands (R173, R174) -/

/-- An address register advances. -/
def bumpA (k n : Nat) (x : Ctx) : Ctx := { x with a := tset x.a k (x.areg k + u32 n) }

/-- The bytes of an operand in scratch or stream mode; an advancing address register moves on by its size. -/
def takeBytes (o : Opd) (n : Nat) (x : Ctx) : List Byte × Ctx :=
  match o with
  | .mem a inc =>
    let (bs, x) := scratchRead (x.areg a) n x
    (bs, if inc then bumpA a n x else x)
  | .inS => (padTo x.inp n, { x with inp := x.inp.drop n })
  | .tgtS => (padTo x.tgt n, { x with tgt := x.tgt.drop n })
  | _ => (List.replicate n 0, x)

/-- Bytes given to an operand in scratch or stream mode. -/
def putBytes (o : Opd) (bs : List Byte) (x : Ctx) : Ctx :=
  match o with
  | .mem a inc =>
    let x := scratchWrite (x.areg a) bs x
    if inc then bumpA a bs.length x else x
  | .outS => { x with out := x.out ++ bs }
  | _ => x

/-- The bits of consecutive registers, or of a part of one. -/
def regBits (x : Ctx) (n bits part : Nat) : Nat :=
  if bits < 1024 then bitsN (x.vreg n).toNat (part * bits + bits - 1) (part * bits)
  else (List.range (bits / 1024)).foldl (fun acc k => acc + (x.vreg (n + k)).toNat * 2 ^ (1024 * k)) 0

/-- Registers, or a part of one, take bits; the rest of a register stays. -/
def setBits (n bits part v : Nat) (x : Ctx) : Ctx :=
  if bits < 1024 then
    let old := (x.vreg n).toNat
    let keep := old - bitsN old (part * bits + bits - 1) (part * bits) * 2 ^ (part * bits)
    { x with v := tset x.v n (BitVec.ofNat 1024 (keep + low v bits * 2 ^ (part * bits))) }
  else
    { x with v := (List.range (bits / 1024)).foldl (fun t k => tset t (n + k) (BitVec.ofNat 1024 (v >>> (1024 * k)))) x.v }

/-- The lanes of `w` bits of a value. -/
def lanes (v w n : Nat) : List Nat := (List.range n).map fun k => bitsN v (k * w + w - 1) (k * w)

/-- A scalar register as an operand of a format: an FP32 value, or an integer (Table 5.8). -/
def scalarVal (f : Nat) (s : U64) : Num := if fmtInt f then intNum s.toInt else floatVal fp32 (fld s 31 0)

/-- The raw bits of a vector operand of `bits` bits. A scalar is broadcast in the format, converted if that is narrower. -/
def readRaw (f : Nat) (field bits bytes part lanesN : Nat) (x : Ctx) : Nat × Ctx :=
  match opdOf field with
  | .v n => (regBits x n bits part, x)
  | .s k =>
    let e := fmtEnc f (convert f false none (scalarVal f (x.sreg k))).val
    ((List.range lanesN).foldl (fun acc j => acc + low e (fmtBits f) * 2 ^ (fmtBits f * j)) 0, x)
  | o =>
    let (bs, x) := takeBytes o bytes x
    (leNat bs, x)

/-- The values of a vector operand. A microscaling one is in register form, with the scales of its register's sidecar. -/
def readVals (f : Nat) (field bits part n : Nat) (x : Ctx) : List Num × Ctx :=
  match opdOf field with
  | .s k => (List.replicate n (scalarVal f (x.sreg k)), x)
  | _ =>
    let (v, x) := readRaw f field bits (bits / 8) part n x
    let ls := lanes v (fmtBits f) n
    if fmtMx f then
      let side := x.sideOf (field % 32)
      let first := if bits < 1024 then part * n else 0
      (ls.zipIdx.map fun p => mxVal f (fld side (8 * ((first + p.2) / 32) + 7) (8 * ((first + p.2) / 32))) p.1, x)
    else (ls.map (fmtVal f), x)

/-! ## Results (R162 to R170) -/

/-- The random value of the next element under RM, if the conversion uses one. -/
def nextRand (f : Nat) (rm : Bool) (x : Ctx) : Option Nat × Ctx :=
  if rm && !(f == 0 || f == 6) then (some (rand16 x.key x.ord), { x with ord := x.ord + 1 }) else (none, x)

/-- The random values of `n` elements. -/
def randRun (f : Nat) (rm : Bool) : Nat → Ctx → List (Option Nat) × Ctx
  | 0, x => ([], x)
  | n + 1, x =>
    let (r, x) := nextRand f rm x
    let (rs, x) := randRun f rm n x
    (r :: rs, x)

/-- An element's counts. An element that its arithmetic and its conversion both saturated counts once. -/
def countRounded (l : Lane) (y : Rounded) (x : Ctx) : Ctx :=
  { x with n := { x.n with
    made := x.n.made + b2n (isNan y.val && !l.nanIn)
    zeroed := x.n.zeroed + b2n y.zeroed
    sat := x.n.sat + b2n (y.sat || l.sat) } }

/-- One part of a register's sidecar takes the scales of blocks. -/
def setScales (n first : Nat) (scales : List Nat) (x : Ctx) : Ctx :=
  let side := scales.zipIdx.foldl (fun (w : U32) p =>
    let sh := 8 * (first + p.2)
    (w &&& ~~~((0xFF : U32) <<< sh)) ||| (u32 p.1 <<< sh)) (x.sideOf n)
  { x with side := tset x.side n side }

/-- Groups of 32 of a list. -/
def by32 {α : Type} : Nat → List α → List (List α)
  | 0, _ => []
  | k + 1, l => if l.isEmpty then [] else l.take 32 :: by32 k (l.drop 32)

/-- Values quantised into blocks, with their counts. -/
def quantiseAll (f : Nat) (l : List (Lane × Option Nat)) (x : Ctx) : List Block × Ctx :=
  let bs := (by32 4 l).map (quantise f)
  (bs, bs.foldl (fun x b => { x with n := { x.n with made := x.n.made + b.made, sat := x.n.sat + b.sat } }) x)

/-- Blocks placed in register form from block position `first`. -/
def putBlocks (n first : Nat) (bs : List Block) (x : Ctx) : Ctx :=
  let x := setScales n first (bs.map (·.scale)) x
  bs.zipIdx.foldl (fun x p => setBits n 256 (first + p.2) (pack (p.1.elems.map fun e => (e, 8))) x) x

/-- Results converted into FMTD and written to the destination. -/
def writeVals (i : Ins) (l : List Lane) (x : Ctx) : Ctx :=
  let (rs, x) := randRun i.fd i.rm l.length x
  if fmtMx i.fd then
    let (bs, x) := quantiseAll i.fd (l.zip rs) x
    match opdOf i.dst with
    | .v n => putBlocks n (if bs.length < 4 then i.imm * bs.length else 0) bs x
    | _ => x
  else
    let ys := (l.zip rs).map fun p => (p.1, convert i.fd i.sat p.2 p.1.val)
    let x := ys.foldl (fun x y => countRounded y.1 y.2 x) x
    let w := fmtBits i.fd
    let v := pack (ys.map fun y => (fmtEnc i.fd y.2.val, w))
    match opdOf i.dst with
    | .v n => setBits n (dBits i) (if dBits i < 1024 then i.imm else 0) v x
    | o => putBytes o (natLe v (dBits i / 8)) x

/-! ## Arithmetic (R162, R163) -/

/-- Larger or smaller of two values; a NaN input gives NaN. Of two zeros of opposite sign either may be taken (log 67). -/
def pickNum (larger : Bool) (a b : Num) : Num :=
  if isNan a then a
  else if isNan b then b
  else if ltNum a b then (if larger then b else a)
  else if ltNum b a then (if larger then a else b)
  else match a, b with
    | .fin s 0 _, .fin t 0 _ => if s = t || Config.zeroTie s then a else b
    | _, _ => a

/-- The exact result of an opcode. -/
def exactOp (op : Nat) (a b c : Num) : Num :=
  if op = 0x10 then addNum a b
  else if op = 0x11 then addNum a (if isNan b then b else negNum b)
  else if op = 0x12 then mulNum a b
  else if op = 0x13 ∨ op = 0x18 then addNum (mulNum a b) c
  else if op = 0x14 then pickNum true a b
  else if op = 0x15 then pickNum false a b
  else if op = 0x16 then absNum a
  else if op = 0x17 then negNum a
  else a

/-- The result of an arithmetic opcode before its conversion into FMTD: an INT32 sum saturates (R163), any other result is
rounded to FP32 once (R162). A conversion, VABS and VNEG have no arithmetic rounding. -/
def stageNum (i : Ins) (y : Num) : Num × Bool :=
  if !(decide (0x10 ≤ i.op) && decide (i.op ≤ 0x15)) && i.op != 0x18 then (y, false)
  else
    let ints := fmtInt i.fa && i.op != 0x18
    let summed := i.op == 0x10 || i.op == 0x11 || (i.op == 0x13 && fmtInt i.fd)
    let (y, sat) := if ints && summed then
        (let (z, s) := clampInt 32 (numInt y)
         (intNum z, s))
      else (y, false)
    if ints && fmtInt i.fd then (y, sat)
    else if i.fd = 0 then (y, sat)
    else ((toFloat fp32 false none y).val, sat)

/-- One lane of an arithmetic opcode. -/
def laneOp (i : Ins) (a b c : Num) : Lane :=
  let y := stageNum i (exactOp i.op a b c)
  ⟨y.1, isNan a || isNan b || isNan c, y.2⟩

/-- VCVT, VMXD, and the arithmetic opcodes: sources in order A, B, C, then the result. -/
def execArith (i : Ins) (x : Ctx) : Ctx :=
  let n := lanesOf i
  let zero := List.replicate n (Num.fin false 0 0)
  let (a, x) := readVals i.fa i.a 1024 0 n x
  let useB := (decide (0x10 ≤ i.op) && decide (i.op ≤ 0x15)) || i.op == 0x18
  let (b, x) := if i.op = 0x18 then (List.replicate n (floatVal fp32 (fld (x.sreg (i.b % 16)) 31 0)), x)
    else if useB then readVals i.fa i.b 1024 0 n x else (zero, x)
  let (c, x) := if i.op = 0x13 ∨ i.op = 0x18 then readVals i.fd i.c (cBits i) i.imm n x else (zero, x)
  writeVals i ((a.zip (b.zip c)).map fun p => laneOp i p.1 p.2.1 p.2.2) x

/-! ## The other instructions (Table 5.7) -/

/-- Raw bits of 1,024 written to a destination. -/
def writeRaw (i : Ins) (v : Nat) (x : Ctx) : Ctx :=
  match opdOf i.dst with
  | .v n => setBits n 1024 0 v x
  | o => putBytes o (natLe v 128) x

/-- VMOV: the bits unchanged; a register in register form takes its scales along. -/
def execMov (i : Ins) (x : Ctx) : Ctx :=
  let (v, x) := readRaw i.fa i.a 1024 128 0 (lanesOf i) x
  let x := writeRaw i v x
  match fmtMx i.fa, opdOf i.a, opdOf i.dst with
  | true, .v m, .v n => { x with side := tset x.side n (x.sideOf m) }
  | _, _, _ => x

/-- VMXQ: one or two blocks (R167). -/
def execMxq (i : Ins) (x : Ctx) : Ctx :=
  let n := lanesOf i
  let (a, x) := readVals i.fa i.a 1024 0 n x
  let (rs, x) := randRun i.fd i.rm n x
  let (bs, x) := quantiseAll i.fd ((a.map laneOf).zip rs) x
  match opdOf i.dst with
  | .v k => putBlocks k i.imm bs x
  | o => putBytes o (bs.flatMap fun b => packBlock i.fd b.scale b.elems) x

/-- VMXL: four packed blocks into register form. -/
def execMxl (i : Ins) (x : Ctx) : Ctx :=
  let (bs, x) := takeBytes (opdOf i.a) (aBytes i) x
  let blocks := (List.range 4).map fun k => unpackBlock i.fa ((bs.drop (k * mxBytes i.fa)).take (mxBytes i.fa))
  putBlocks (i.dst % 32) 0 (blocks.map fun b => ⟨b.1, b.2, 0, 0⟩) x

/-- VMXS: register form into four packed blocks. -/
def execMxs (i : Ins) (x : Ctx) : Ctx :=
  let k := i.a % 32
  let ls := lanes (x.vreg k).toNat 8 128
  let side := x.sideOf k
  let bs := (List.range 4).flatMap fun q => packBlock i.fd (fld side (8 * q + 7) (8 * q)) ((ls.drop (32 * q)).take 32)
  putBytes (opdOf i.dst) bs x

/-- The comparisons of VCMP. -/
def compareNum (k : Nat) (a b : Num) : Bool :=
  let nan := isNan a || isNan b
  match k with
  | 0 => eqNum a b
  | 1 => !eqNum a b
  | 2 => !nan && ltNum a b
  | 3 => !nan && !ltNum b a
  | 4 => !nan && ltNum b a
  | _ => !nan && !ltNum a b

/-- VCMP. -/
def execCmp (i : Ins) (x : Ctx) : Ctx :=
  let n := lanesOf i
  let (a, x) := readVals i.fa i.a 1024 0 n x
  let (b, x) := readVals i.fa i.b 1024 0 n x
  let m := pack ((a.zip b).map fun p => (b2n (compareNum i.imm p.1 p.2), 1))
  { x with m := tset x.m i.dst (BitVec.ofNat 128 m) }

/-- Scales of a VSEL result in register form: those of its sources where they agree, else open (log 76). -/
def selScales (x : Ctx) (m n k : Nat) : Ctx :=
  let a := x.sideOf m
  let b := x.sideOf n
  setScales k 0 ((List.range 4).map fun q =>
    if fld a (8 * q + 7) (8 * q) = fld b (8 * q + 7) (8 * q) then fld a (8 * q + 7) (8 * q)
    else (Config.selScale x.id x.steps q).toNat) x

/-- VSEL. -/
def execSel (i : Ins) (x : Ctx) : Ctx :=
  let n := lanesOf i
  let w := fmtBits i.fa
  let (a, x) := readRaw i.fa i.a 1024 128 0 n x
  let (b, x) := readRaw i.fa i.b 1024 128 0 n x
  let m := tgetD x.m i.c 0
  let x' := writeRaw i (pack ((List.range n).map fun k => (bitsN (if bit m k then a else b) (k * w + w - 1) (k * w), w))) x
  match fmtMx i.fa, opdOf i.a, opdOf i.b, opdOf i.dst with
  | true, .v p, .v q, .v k => { x' with side := (selScales x p q k).side }
  | _, _, _, _ => x'

/-- One level of the pairwise tree of VRED. -/
def pairUp (f : Num → Num → Num) : List Num → List Num
  | a :: b :: r => f a b :: pairUp f r
  | l => l

/-- The pairwise tree over lane order: 128 lanes at most (R177). -/
def treeOf (f : Num → Num → Num) (l : List Num) : Num := ((rep (pairUp f) 7 l).head?).getD (.fin false 0 0)

/-- VRED: the FP32 sum or maximum in lane 0, zero in the others. -/
def execRed (i : Ins) (x : Ctx) : Ctx :=
  let n := lanesOf i
  let (a, x) := readVals i.fa i.a 1024 0 n x
  let round := fun (y : Num) => (toFloat fp32 false none y).val
  let f := fun (p q : Num) => if i.imm = 0 then round (addNum p q) else pickNum true p q
  let y := treeOf f (a.map round)
  let x := countRounded ⟨y, a.any isNan, false⟩ (plain y) x
  let v := floatBits fp32 y
  match opdOf i.dst with
  | .v k => setBits k (dBits i) 0 v x
  | o => putBytes o (natLe v (dBits i / 8)) x

/-- VTOPK's order: larger first, of equals the lower index, NaN last (R176). -/
def ranksBefore (p q : Num × Nat) : Bool :=
  match isNan p.1, isNan q.1 with
  | true, true => decide (p.2 < q.2)
  | true, false => false
  | false, true => true
  | false, false => ltNum q.1 p.1 || (!ltNum p.1 q.1 && decide (p.2 < q.2))

/-- A candidate placed in a ranked list. -/
def rankIn (p : Num × Nat) : List (Num × Nat) → List (Num × Nat)
  | [] => [p]
  | q :: r => if ranksBefore p q then p :: q :: r else q :: rankIn p r

/-- VTOPK (R176). Lanes that the layout does not name are open (log 66). -/
def execTopk (i : Ins) (x : Ctx) : Ctx :=
  let n := lanesOf i
  let k := i.imm
  let (a, x) := readVals i.fa i.a 1024 0 n x
  let prev := lanes (x.vreg (i.c % 32)).toNat 32 16
  let old := (List.range k).map fun j => (floatVal fp32 (prev.getD j 0), prev.getD (8 + j) 0)
  let s3 := (x.sreg 3).toNat
  let new := a.zipIdx.map fun p => (p.1, low (s3 + p.2) 32)
  let best := ((old ++ new).foldl (fun l p => rankIn p l) []).take k
  let val := fun (j : Nat) => match best[j]? with
    | some p => floatBits fp32 p.1
    | none => 0xFF800000
  let idx := fun (j : Nat) => match best[j]? with
    | some p => p.2
    | none => 0xFFFFFFFF
  let rest := (List.range 16).map fun j => (Config.topkLane x.id x.steps (16 + j)).toNat
  let words := (List.range 8).map val ++ (List.range 8).map idx ++ rest
  setBits (i.dst % 32) 1024 0 (pack (words.map fun w => (w, 32))) x

/-- The index that VGATH and VSCAT read, whose address register advances by 4. -/
def takeIndex (f : Nat) (x : Ctx) : Nat × Ctx :=
  match opdOf f with
  | .mem a _ =>
    let (bs, x) := scratchRead (x.areg a) 4 x
    (leNat bs, bumpA a 4 x)
  | _ => (0, x)

/-- The base address register of VGATH or VSCAT, which advances by the 128 bytes if its operand says so. -/
def baseAddr (f idx : Nat) (x : Ctx) : U32 × Ctx :=
  match opdOf f with
  | .mem a inc => (x.areg a + u32 (idx * 128), if inc then bumpA a 128 x else x)
  | _ => (0, x)

/-- VGATH. -/
def execGath (i : Ins) (x : Ctx) : Ctx :=
  let (k, x) := takeIndex i.a x
  let (addr, x) := baseAddr i.b k x
  let (bs, x) := scratchRead addr 128 x
  writeRaw i (leNat bs) x

/-- VSCAT. -/
def execScat (i : Ins) (x : Ctx) : Ctx :=
  let (v, x) := readRaw 0 i.a 1024 128 0 32 x
  let (k, x) := takeIndex i.b x
  let (addr, x) := baseAddr i.dst k x
  scratchWrite addr (natLe v 128) x

/-- A 16-bit immediate sign-extended to `n` bits. -/
def immTo (n : Nat) (imm : Nat) : BitVec n := (BitVec.ofNat 16 imm).signExtend n

/-- The scalar and address opcodes. -/
def execScalar (i : Ins) (x : Ctx) : Ctx :=
  let d := i.dst % 16
  if i.op = 0x40 then { x with s := tset x.s d (immTo 64 i.imm) }
  else if i.op = 0x41 then { x with s := tset x.s d (x.sreg (i.a % 16) + x.sreg (i.b % 16)) }
  else if i.op = 0x42 then
    let (bs, x) := takeBytes (opdOf i.a) 8 x
    { x with s := tset x.s d (BitVec.ofNat 64 (leNat bs)) }
  else if i.op = 0x43 then { x with a := tset x.a i.dst ((x.sreg (i.a % 16)).truncate 32) }
  else if i.op = 0x44 then { x with a := tset x.a i.dst (x.areg i.dst + immTo 32 i.imm) }
  else x

/-- One instruction. -/
def execIns (i : Ins) (x0 : Ctx) : Ctx :=
  let x := { x0 with steps := x0.steps + 1 }
  if i.op = 0x01 then execMov i x
  else if i.op = 0x03 then execMxq i x
  else if i.op = 0x05 then execMxl i x
  else if i.op = 0x06 then execMxs i x
  else if i.op = 0x20 then execCmp i x
  else if i.op = 0x21 then execSel i x
  else if i.op = 0x22 then execRed i x
  else if i.op = 0x23 then execTopk i x
  else if i.op = 0x30 then execGath i x
  else if i.op = 0x31 then execScat i x
  else if hasFmtD i.op then execArith i x
  else execScalar i x

/-- How often a LOOP runs: its immediate, or the scalar register; a register value outside 1 to 65,535 is no count of the manual's
(log 64). -/
def loopTimes (i : Ins) (x : Ctx) : Nat :=
  if i.imm ≠ 0 then i.imm
  else
    let n := (x.sreg (i.a % 16)).toNat
    if 1 ≤ n ∧ n ≤ 65535 then n else Nat.max 1 (Nat.min 65535 (Config.loopCount n))

/-- Code of an item. -/
def runCode (code : List Ins) (x : Ctx) : Ctx := walkCode execIns loopTimes (fun _ x => x) (code.length + 1) code x

/-! ## Items (R178) -/

/-- The body runs on one granule: S1 its index in the item, S2 its index in the message. -/
def runGranule (body : List Ins) (msgGran g : Nat) (x : Ctx) : Ctx :=
  runCode body { x with s := tset (tset x.s 1 (BitVec.ofNat 64 g)) 2 (BitVec.ofNat 64 (msgGran + g)) }

/-- The granules of an item. -/
def runGranules (body : List Ins) (msgGran : Nat) : Nat → Nat → Ctx → Ctx
  | 0, _, x => x
  | n + 1, g, x => runGranules body msgGran n (g + 1) (runGranule body msgGran g x)

/-- What an item's program makes of its input and target. -/
def runItem (p : Program) (i : Item) (target : List Byte) : List Byte × TxeCounts :=
  let code := p.code.map insOf
  let work : Tbl Byte := match i.weight with
    | some w => (natLe w.toNat 8).zipIdx.map fun b => (p.auxBytes + b.2, b.1)
    | none => []
  let x0 : Ctx :=
    { id := i.id
      key := itemKey i.seed i.slice i.qpn i.key32
      aux := i.aux
      auxBytes := p.auxBytes
      workBytes := p.workBytes
      v := []
      side := []
      m := []
      s := [(0, i.arg.zeroExtend 64)]
      a := []
      work := work
      inp := i.input
      tgt := target
      out := []
      ord := 0
      steps := 0
      n := ⟨0, 0, 0, 0⟩ }
  let x := runCode (code.take p.proLen) x0
  let x := runGranules (code.drop p.proLen) i.msgGran (i.len / Nat.max 1 p.inGran) 0 x
  (x.out, x.n)

end Sys2Proof.Machine
end

