-- ==== Sys2Proof/Machine/Engine.lean ====
section
/-!
DEFINITION. Sys2Proof/Machine/Engine.lean: the transform engines' work: the end of items (R179, R184 to R195), accumulate-in-place
(R212 to R216), AUX regions and seeds (R171, R179).
-/
namespace Sys2Proof.Machine

/-! ## The end of an item (R179, R184, R192, R195) -/

/-- Counts of R165 and R179 for a slice. -/
def countTxe (slice : Nat) (n : TxeCounts) (s : Dev) : Dev :=
  bumpBy 0x0E slice n.made (bumpBy 0x0F slice n.zeroed (bumpBy 0x10 slice n.sat (bumpBy 0x11 slice n.addr s)))

/-- The bytes of physical pieces as an engine reads them: those in Millefeuille from the stacks, the others at their place in what the
reads at the ports returned. A word on the way that its protection could not correct makes what was read poisoned (R394, log 181). -/
def readPhys (s : Dev) (l : List (Nat × Nat × Nat)) (d : ReadData) : ReadData :=
  l.foldl (fun (r : ReadData) p =>
    if p.1 = 1 then
      let x := smemRead s p.2.1 p.2.2
      { r with bytes := r.bytes ++ x.bytes, poisoned := r.poisoned || x.poisoned }
    else
      { bytes := r.bytes ++ padTo (d.bytes.drop r.bytes.length) p.2.2
        poisoned := r.poisoned, refused := r.refused || d.refused }) ⟨[], d.poisoned, false⟩

/-- The input of an item: its packet's payload or staged bytes, or what its source holds. -/
def itemInput (s : Dev) (i : Item) (d : ReadData) : ReadData :=
  if i.src.isEmpty then ⟨i.input, i.poisoned || d.poisoned, false⟩ else readPhys s i.srcAt d

/-- The target of an item whose program reads it: as it read it when it had its locks, or what the reads at the port returned. -/
def itemTarget (s : Dev) (i : Item) (p : Program) (d : ReadData) : ReadData :=
  if p.tgtGran = 0 then ⟨[], false, false⟩ else (i.snap.map fun x => { x with poisoned := x.poisoned || d.poisoned }).getD (readPhys s i.outAt d)

/-- Bytes of a result where a plain write has changed the target since it was read: each ends as either, by a free choice (R193). -/
def mixBytes (pick : Nat) : List Byte → List Byte → List Byte → List Byte
  | o :: os, c :: cs, n :: ns => (if o != c && pick.testBit 0 then c else n) :: mixBytes (pick / 2) os cs ns
  | _, _, ns => ns

/-- The places of the bytes that a plain write keeps under `mixBytes`, counted from `k`. -/
def keptBytes (pick k : Nat) : List Byte → List Byte → List Nat
  | o :: os, c :: cs => (if o != c && pick.testBit 0 then [k] else []) ++ keptBytes (pick / 2) (k + 1) os cs
  | _, _ => []

/-- The line of Millefeuille in which byte `k` of physical pieces lies. -/
def lineAt (k : Nat) : List (Nat × Nat × Nat) → Option Nat
  | [] => none
  | (sp, a, n) :: r => if k < n then (if sp = 1 then some ((a + k) / 32) else none) else lineAt (k - n) r

/-- The bytes that an item's result write leaves in its target (R193, log 151), and the lines that stay poisoned: those in which bytes of a
poisoned plain write remain (R399). -/
def settleResult (i : Item) (bs : List Byte) (s : Dev) : List Byte × List Nat × Dev :=
  match i.snap with
  | none => (bs, [], s)
  | some old =>
    let cur := (readPhys s i.outAt ⟨[], false, false⟩).bytes
    if cur = old.bytes then (bs, [], s)
    else
      let (v, s) := freshValue s
      (mixBytes v old.bytes cur bs, ((keptBytes v 0 old.bytes cur).filterMap fun k => lineAt k i.outAt).filter (poisonedLine s), s)

/-- Bytes of a list replaced from an offset on. -/
def patchBytes (l : List Byte) (off : Nat) (bs : List Byte) : List Byte :=
  padTo l off ++ bs ++ l.drop (off + bs.length)

/-- Output written to its pieces; the last write ends the holder. -/
def writeResult (slice : Nat) (token : Option Nat) (qpn : Nat) (psn : Option U32) (bad : Bool) :
    List (Nat × Nat × Nat) → List Byte → Dev → Dev
  | [], _, s => endHolder token s
  | (sp, a, n) :: r, bs, s =>
    if r.isEmpty then storeFor token sp a (bs.take n) bad false slice (some qpn) psn none s
    else writeResult slice token qpn psn bad r (bs.drop n)
      (storeFor none sp a (bs.take n) bad false slice (some qpn) psn none s)

/-- The reads of an item's operands at a port came back refused: the completion is counted at the port of the first piece (R380). -/
def countOperand (l : List (Nat × Nat × Nat)) (s : Dev) : Dev :=
  match l.findSome? fun p => (portOfSpace p.1).map fun k => (k, p.2.1) with
  | some (k, a) => refusedRead k a s
  | none => s

/-- The target read of a responder item was refused: its request is, under R108 (R380). -/
def targetRefused (i : Item) (qpn : Nat) (psn : U32) (window : Nat) (s : Dev) : Dev :=
  match getQp s qpn with
  | none => s
  | some q =>
    let s := sliceEvent q.slice 0x8 2 (bankPipe (pipeOf qpn)) window (q.p.remEpid * 2 ^ 32 + q.p.remQpn) psn.toNat s
    sendNak qpn nakAccess 0 psn (endHolder i.token (countOperand i.outAt s))

/-- A read of requester-side work was refused: its entry fails, or its queue pair (R380). -/
def operandRefused (i : Item) (src : Bool) (own : Option (Nat × U32)) (s : Dev) : Dev :=
  failOwner i.qpn own stLocalAccess stLocalAccess (endHolder i.token (countOperand (if src then i.srcAt else i.outAt) s))

/-- The results of an item whose program reads its target, or that writes to the wire, are delivered (R187, R190, R193, R195): `x` is its
input, `t` the target's bytes, `own` the entry that it works for. -/
def deliverItem (i : Item) (p : Program) (x t : ReadData) (own : Option (Nat × U32)) (s : Dev) : Dev :=
  let bad := x.poisoned || t.poisoned
  let (bs, n) := runItem p { i with input := x.bytes } t.bytes
  match i.dest with
  | .wire qpn entry off =>
    if x.refused then operandRefused i true own s
    else
      let runs := fun (l : List (Nat × Nat)) =>
        let l := l.filter fun b => b.1 != off
        if bad then l ++ [(off, bs.length)] else l
      countTxe i.slice n (modSend qpn entry (fun e =>
        { e with txOut := patchBytes e.txOut off bs, txBad := runs e.txBad, poisoned := e.poisoned || bad }) s)
  | .target qpn psn _ wkey _ =>
    if t.refused then targetRefused i qpn psn (wkIndex wkey) s
    else
      let s := if bad then modRsp qpn (poisonMsgAt psn) s else s
      let (bs, kept, s) := settleResult i bs s
      dataPlaced qpn (markPoison kept (writeResult i.slice i.token qpn (some psn) bad i.outAt bs (countTxe i.slice n s)))
  | .own g _ =>
    if x.refused || t.refused then operandRefused i x.refused own s
    else
      let (bs, kept, s) := settleResult i bs s
      ownRowDone g bad (markPoison kept (writeResult i.slice i.token i.qpn none bad i.outAt bs (countTxe i.slice n s)))

/-- An operand that the item reads lies behind a port that is closed now. -/
def readsClosed (s : Dev) (i : Item) (p : Program) : Bool :=
  (i.srcAt ++ if p.tgtGran = 0 then [] else i.outAt).any fun x => !canRead s x.1

/-- The output of an item whose program reads no target is written as its pages translate (R127). -/
def makeItem (e : Nat) (i : Item) (p : Program) (x : ReadData) (s : Dev) : Dev :=
  let (bs, n) := runItem p { i with input := x.bytes } []
  writeItem e i.id (modItem i.id (fun i => { i with
    stage := .writing e, made := some (bs, x.poisoned), srcToken := none, out := i.out.flatMap cutPages }) (countTxe i.slice n s))

/-- The item's result goes out by pages: it has an output range that its program does not read. -/
def writesLate (i : Item) (p : Program) : Bool :=
  p.tgtGran == 0 && match i.dest with
    | .wire _ _ _ => false
    | _ => true

/-- ITEM_END: the item's granules are done and its output is delivered; in fault-stop it is not (R55). -/
def itemEnd (id : Nat) (input target : ReadData) (s : Dev) : Dev :=
  match findItem s id with
  | none => s
  | some i =>
    match i.stage, progOf s i.prog with
    | .resident e, some p =>
      if readsClosed s i p then s
      else
        let own := itemEntry s i
        let x := itemInput s i input
        let t := itemTarget s i p target
        let s := endHolder i.srcToken s
        if writesLate i p && sliceLive s i.slice && !x.refused then makeItem e i p x s
        else
        let s := { s with items := s.items.filter fun x => !(x.id == id) }
        let s := if sliceLive s i.slice then deliverItem i p x t own s else endHolder i.token s
        leaveEngine e (dropLocks s)
    | _, _ => s

def execItemEnd (item : Nat) (data : ItemData) (s : State) : Res := runRetire (itemEnd item data.input data.target) s

/-! ## ACCUMULATE_COMMIT (R212 to R216) -/

/-- The elements of an accumulate added to their targets, with the counts of R165. -/
def addElements (single : Bool) (k : Nat) : Nat → List Byte → List Byte → List Byte × TxeCounts
  | 0, _, _ => ([], ⟨0, 0, 0, 0⟩)
  | f + 1, t, o =>
    if o.isEmpty then ([], ⟨0, 0, 0, 0⟩)
    else
      let (v, y) := accumulate single (leNat (t.take k)) (leNat (o.take k))
      let (bs, n) := addElements single k f (t.drop k) (o.drop k)
      (natLe v k ++ bs, { n with made := n.made + b2n y.made, zeroed := n.zeroed + b2n y.zeroed, sat := n.sat + b2n y.sat })

/-- `[a, a + n)` cut at the 32-byte lines of the stacks. -/
def lineCuts (a : Nat) : Nat → Nat → List (Nat × Nat)
  | 0, _ => []
  | f + 1, n =>
    if n = 0 then []
    else
      let k := Nat.min n (32 - a % 32)
      (a, k) :: lineCuts (a + k) f (n - k)

/-- A packet's sums written line by line: a line is poisoned with the operand, or where its target was (R216). `all` poisons every
line: an element lies in two of them. -/
def writeSums (bad all : Bool) : List (Nat × Nat) → List Byte → Dev → Dev
  | [], _, s => s
  | (a, n) :: r, bs, s => writeSums bad all r (bs.drop n) (smemWrite a (bs.take n) (bad || all || poisonedAt s a n) s)

/-- The pieces of one packet's accumulate are committed, and their holders end. -/
def commitPieces (slice : Nat) (now : List Accum) (s : Dev) : Dev :=
  match now.head? with
  | none => s
  | some x =>
    let k := if x.fp32 then 4 else 2
    let old := now.flatMap fun a => memRead s.mem a.addr a.data.length
    let data := now.flatMap (·.data)
    let lost := now.any fun a => poisonedAt s a.addr a.data.length
    let bad := now.any (·.poisoned)
    let (sums, n) := addElements x.fp32 k data.length old data
    let s := if bad || lost then modRsp x.qpn (poisonMsgAt x.psn) s else s
    let cuts := now.flatMap fun a => lineCuts a.addr a.data.length a.data.length
    let s := countTxe slice n (writeSums bad (lost && now.any fun a => decide (a.addr % k ≠ 0)) cuts sums s)
    now.foldl (fun s a => endHolder (some a.token) s) s

/-- ACCUMULATE_COMMIT: the pieces of a packet's accumulate are committed by their stacks, and the packet can be acknowledged. -/
def accumulateCommit (qpn : Nat) (psn : U32) (s : Dev) : Dev :=
  let (now, rest) := s.accums.partition fun a => a.qpn == qpn && a.psn == psn
  if now.isEmpty then s
  else
    let slice := ((getQp s qpn).map (·.slice)).getD 0
    dataPlaced qpn (commitPieces slice now { s with accums := rest })

def execAccumulateCommit (qpn : Nat) (psn : U32) (s : State) : Res := runRetire (accumulateCommit qpn psn) s

/-! ## AUX regions and seeds (R171, R179) -/

/-- TXE_AUX_WRITE: bytes of a loaded program's AUX region; items that have started keep what they saw (R179). -/
def txeAuxWriteBody (slot offset : Nat) (data : List Byte) (h : Cmd) (c : CmdInfo) (s : Dev) : Dev :=
  match findProg s h.slice slot with
  | none => badParam c h 8 s
  | some p =>
    if p.auxBytes < offset + data.length then badParam c h 16 s
    else
      let put := fun (q : Program) => if q.id = p.id then { q with aux := patchBytes q.aux offset data } else q
      ok c h { s with programs := s.programs.map put }

def txeAuxWriteEffect (h : Cmd) (slot offset : Nat) (data : List Byte) : Dev → Dev :=
  command 0x0304 h true (firstBad [(8, decide (slot < 64))]) (txeAuxWriteBody slot offset data h)

def execTxeAuxWrite (h : Cmd) (slot offset : Nat) (data : List Byte) (s : State) : Res :=
  run (txeAuxWriteEffect h slot offset data) s

/-- TXE_SEED (R171). -/
def txeSeedBody (mask : Nat) (seed : U64) (h : Cmd) (c : CmdInfo) (s : Dev) : Dev :=
  ok c h { s with engines := (maskEngines mask).foldl (fun t e => tset t e { tgetD t e Engine.reset with seed := seed }) s.engines }

def txeSeedEffect (h : Cmd) (mask : Nat) (seed : U64) : Dev → Dev :=
  command 0x0305 h false (firstBad [(8, decide (mask < 2 ^ 24))]) (txeSeedBody mask seed h)

def execTxeSeed (h : Cmd) (mask : Nat) (seed : U64) (s : State) : Res := run (txeSeedEffect h mask seed) s

end Sys2Proof.Machine
end

