-- ==== Sys2Proof/Machine/Flags.lean ====
section
/-!
DEFINITION. Sys2Proof/Machine/Flags.lean: the words that a read of BAR0 returns (R505 to R514, Tables 16.2 to 16.14): status,
mode and flag registers, computed from State. An offset at which no register is implemented reads as zero (R348, R507).
-/
namespace Sys2Proof.Machine

/-! ## GEN, CMD, EVT (Tables 16.4 to 16.7, 14.1, 14.2) -/

def genIdent (s : Dev) : Nat := pack [(low s.grade 1, 1), (0, 7), (0xB0, 8), (low s.cfgVer 8, 8), (0, 8), (0x4096, 16), (0x535A, 16)]

def genCap : Nat := pack [(0, 22), (4, 3), (8, 4), (32, 6), (24, 5), (511, 9), (18, 5), (18, 5), (20, 5)]

def genStatus (s : Dev) : Nat :=
  pack [(b2n s.ready, 1), (b2n s.dataStopped, 1), (0, 7), (low s.sec.bank 1, 1), (s.cores.toNat, 6)]

/-- INDEX is within the range of a counter of this CODE (Table 16.15). -/
def counterRange (code : Nat) : Nat :=
  if code = 0 ∨ 0x37 < code then 0
  else if code ≤ 0x19 ∨ code = 0x37 then 512
  else if code = 0x1A then 4096
  else if code ≤ 0x1D then 4
  else if code ≤ 0x26 then 72
  else if code ≤ 0x29 then 1
  else if code = 0x2A then 8
  else if code ≤ 0x2E then 1
  else if code = 0x2F ∨ code = 0x36 then 16
  else if code = 0x30 then 64
  else if code ≤ 0x33 then 520
  else if code = 0x34 then 513
  else 1

/-- A counter as it reads: zero for an unused CODE or an INDEX out of range (R513). -/
def counterRead (s : Dev) (code index : Nat) : Nat := if index < counterRange code then counter s code index else 0

def genRead (s : Dev) (o : Nat) : Nat :=
  if 0x100000 ≤ o then counterRead s ((o - 0x100000) / 0x8000) ((o - 0x100000) % 0x8000 / 8)
  else
    match o with
    | 0x00 => genIdent s
    | 0x08 => genCap
    | 0x10 => pack [(b2n s.routeHa, 1), (b2n s.evtHa, 1)]
    | 0x18 => genStatus s
    | _ => 0

/-- CMD_AQ_CTL (Table 14.2). -/
def aqCtlWord (a : AdminQ) : Nat :=
  pack [(0, 20), (b2n a.pasidV, 1), (a.pasid, 20), (a.vector, 11), (a.space, 4), (a.lg, 4), (0, 3), (b2n a.en, 1)]

def cmdRead (s : Dev) (o : Nat) : Nat :=
  let n := o / 0x1000
  let a := getAq s n
  if 519 < n then 0
  else
    match o % 0x1000 with
    | 0x10 => aqCtlWord a
    | 0x18 => a.cbase
    | 0x20 => a.rbase
    | 0x28 => pack [(a.cnext.toNat, 32), (startedOn s n, 32)]
    | _ => 0

def evtRead (s : Dev) (o : Nat) : Nat :=
  let x := getEvq s (o / 0x40)
  if 512 < o / 0x40 then 0
  else
    match o % 0x40 with
    | 0x00 => pack [(x.ring.prod.toNat, 32), (0, 7), (x.vector, 11), (x.ring.lg, 5), (x.hold.length, 7), (b2n x.armed, 1), (b2n x.en, 1)]
    | 0x08 => x.ring.cons.toNat
    | 0x10 => x.ring.base
    | _ => 0

/-! ## Ports (Tables 10.3, 10.4, 10.7, 7.1, 16.8) -/

/-- HIF_CTL: the configured bits with HELD and FENCED. -/
def hifCtl (s : Dev) : Nat := pack [(b2n s.host.fenced, 1), (b2n s.host.held, 1), (fld s.host.cfg 3 2, 2)]

def hifRead (s : Dev) (o : Nat) : Nat :=
  match o with
  | 0x000 => hifCtl s
  | 0x100 => pack [(0, 20), (s.winBase, 32), (0, 8), (s.winTarget, 4)]
  | _ => 0

def acpCfg (p : IoPort) : Nat := pack [(0, 16), (b2n p.fenced, 1), (b2n p.held, 1), (fld p.cfg 19 18, 2), (fld p.cfg 23 20, 4), (fld p.cfg 27 24, 4)]

def acpRead (s : Dev) (o : Nat) : Nat :=
  let p := getIo s (o / 0x10000)
  if 7 < o / 0x10000 then 0
  else
    match o % 0x10000 with
    | 0x00 => acpCfg p
    | 0x08 => p.dbBase.toNat
    | _ => 0

/-- WIDTH code of Table 16.8. -/
def widthCode (p : FPort) : Nat := if !p.up then 0 else if p.width ≤ 2 then 1 else if p.width ≤ 4 then 2 else 3

def fabStatus (s : Dev) (p : Nat) : Nat :=
  let a := getPort s (2 * p)
  let b := getPort s (2 * p + 1)
  pack [(0, 26), (widthCode b, 2), (widthCode a, 2), (b2n b.up, 1), (b2n a.up, 1), (b.rtt, 16), (a.rtt, 16)]

def fabRead (s : Dev) (o : Nat) : Nat :=
  let n := o / 0x10000
  let f := getFab s n
  if 31 < n then 0
  else
    match o % 0x10000 with
    | 0x000 => f.cfg.toNat
    | 0x008 => fabStatus s n
    | 0x010 => f.threshA.toNat
    | 0x018 => f.threshB.toNat
    | 0x020 => f.asym.toNat
    | 0x100 => f.pcp.toNat
    | 0x108 => f.dscp.toNat
    | 0x110 => f.udpPort
    | _ => 0

/-! ## Routing, transport, scheduling (Table 16.3) -/

/-- RTG_VC_PORTS of a VC (R265): all ones unless written; RSVD for VC 1 and VC 7. -/
def vcPortsRead (s : Dev) (v : Nat) : Nat := if v = 1 ∨ v = 7 then 0 else (tgetD s.routing.vcPorts v (BitVec.allOnes 64)).toNat

def rtgRead (s : Dev) (o : Nat) : Nat :=
  if 0x40 ≤ o ∧ o < 0x80 then vcPortsRead s ((o - 0x40) / 8)
  else
    match o with
    | 0x00 => s.routing.g
    | 0x08 => s.routing.selfEpid
    | 0x10 => s.routing.escWait
    | 0x18 => s.routing.nmBias
    | 0x20 => s.routing.floodHops
    | 0x80 => pack [(b2n s.routing.bank, 1), (0, 15), (s.routing.swaps.toNat, 32)]
    | _ => 0

/-- TPT_PIPE_STATUS of a pipeline. -/
def pipeStatus (s : Dev) (k : Nat) : Nat :=
  pack [((parkedIn s k).length, 11), (0, 5), ((s.qps.countP fun p => p.2.pinned && pipeOf p.1 == k), 12), (0, 4), (cachedIn s k, 15)]

def tptRead (s : Dev) (o : Nat) : Nat :=
  if o = 0 then s.rtoBase
  else if 0x100 ≤ o ∧ o < 0x120 then pipeStatus s ((o - 0x100) / 8)
  else 0

/-- STATE codes of Table 8.7. -/
def timeCode : TimeState → Nat
  | .free => 0
  | .acquiring => 1
  | .locked => 2
  | .holdover => 3

/-- A signed number saturated to 32 bits, as its word. -/
def signed32 (x : Int) : Nat := (BitVec.ofInt 32 (max (-(2 ^ 31 : Int)) (min (2 ^ 31 - 1 : Int) x))).toNat

/-- SCH_TIME_STATUS: LAST_OFFSET is in ps. -/
def timeStatus (s : Dev) : Nat :=
  pack [(signed32 (s.time.lastOffset * 1000 / 65536), 32), (0, 4), (s.time.root, 18), (s.time.hops, 8), (timeCode s.time.st, 2)]

/-- SCH_GATE_CTL (Table 16.11). -/
def gateCtl (s : Dev) (n : Nat) : Nat :=
  let p := getPort s n
  let pos := if p.gateActive.isEmpty then 0 else (gatePosition s p).1
  pack [(p.gateActive.length, 9), (0, 15), (pos, 8), (0, 29), (b2n p.gatePending.isSome, 1), (b2n (!p.gateActive.isEmpty), 1), (b2n p.gateEn, 1)]

/-- An entry of SCH_GATE_LIST: the active list, then the pending one; past a list the reset value (Table 8.10). -/
def gateListRead (p : FPort) (i : Nat) : Nat :=
  let l := if i < 256 then p.gateActive else (p.gatePending.map (·.1)).getD []
  (l.getD (i % 256) 0xFF00000000000000).toNat

def schPortRead (s : Dev) (o : Nat) : Nat :=
  let n := o / 0x2000
  let p := getPort s n
  if 63 < n then 0
  else if 0x1000 ≤ o % 0x2000 then gateListRead p ((o % 0x2000 - 0x1000) / 8)
  else
    match o % 0x2000 with
    | 0x00 => p.tcWeight.toNat
    | 0x08 => p.transitWeight
    | 0x10 => gateCtl s n
    | _ => 0

/-- SCH_TIME_NS and SCH_TIME_FRAC as they read now: from the latch while one of the two reads after it is due (R306). -/
def timeRead (s : Dev) : Nat := if s.time.latchReads = 0 then s.time.time else s.time.latch.getD s.time.time

def schRead (s : Dev) (o : Nat) : Nat :=
  if 0x10000 ≤ o then schPortRead s (o - 0x10000)
  else
    match o with
    | 0x00 => timeNs s
    | 0x08 => timeRead s % 65536
    | 0x10 => s.time.cfg.toNat
    | 0x18 => timeStatus s
    | 0x20 => s.time.ppsTs
    | 0x28 => s.ceThresh
    | _ => 0

/-! ## Engines, translation, stacks, security, power (Tables 16.12 to 16.14) -/

/-- PWR_STATE code. -/
def stateCode : PState → Nat
  | .active => 0
  | .standby => 1
  | .meringue => 2
  | .off => 3

/-- STATE of TXE_ENG_STATUS. -/
def engineState (s : Dev) (n : Nat) : Nat :=
  match (getEngine s n).mode with
  | .quiescing => 3
  | .selfTest => 4
  | .failed => 5
  | .service => stateCode (getPower s (.engine n)).st

def engineStatus (s : Dev) (n : Nat) : Nat :=
  pack [(sat 32 (engineLoad s n), 32), ((s.programs.countP fun p => p.engines.contains n), 8), (0, 17), (residentAt s n, 3),
    (b2n (pinned s (.engine n)), 1), (engineState s n, 3)]

def txeRead (s : Dev) (o : Nat) : Nat :=
  let n := o / 0x100
  if 23 < n then 0
  else
    match o % 0x100 with
    | 0x00 => engineStatus s n
    | 0x08 => pack [(scratchOn s.programs n, 32), (storeOn s.programs n, 15)]
    | 0x10 => (getEngine s n).seed.toNat
    | _ => 0

def unitStatus (s : Dev) (u : Nat) : Nat :=
  pack [(Nat.min 32 (s.xlt.walks.countP fun w => !w.ats && unitOf w.slice w.page == u), 16), (unitFaults s u, 16),
    ((s.xlt.cache.countP fun t => unitOf t.slice t.page == u), 15)]

def xltRead (s : Dev) (o : Nat) : Nat :=
  if 0x10000 ≤ o then
    (let k := (o - 0x10000) / 8
     if 511 < k then 0 else pack [((getSlice s k).epoch.toNat, 16), ((closedEpochs s k).length, 3)])
  else if o % 0x100 = 0 ∧ o / 0x100 < 8 then unitStatus s (o / 0x100)
  else 0

def stackStatus (s : Dev) (k : Nat) : Nat :=
  let d := getDie s k
  pack [(d.poisoned, 32), (0, 12), (d.refresh, 4), (d.temp, 8), (0, 5), (b2n (pinned s (.stack k)), 1), (stateCode (getPower s (.stack k)).st, 2)]

def smcRead (s : Dev) (o : Nat) : Nat :=
  if o = 0x10 then pack [(s.rowThresh, 16), (s.scrubHours, 8)]
  else if 0x100 ≤ o ∧ o < 0x200 ∧ o % 0x40 = 0 then stackStatus s ((o - 0x100) / 0x40)
  else 0

/-- SEC_STATUS; every other offset of the block reads as zero through the host port (R508). -/
def secRead (s : Dev) (o : Nat) : Nat :=
  if o = 0 then
    pack [(0, 54), (s.sec.serviceKeys.length, 5), (s.sec.sessions.length, 3), (b2n s.sec.zeroised, 1), (b2n s.sec.selftestOk, 1)]
  else 0

/-- State code of a logical port's lane group: 3 where the port does not exist. -/
def fabState (s : Dev) (n : Nat) : Nat := if portExists s n then stateCode (getPower s (.fab n)).st else 3

/-- A bit mask over `n` objects. -/
def maskBits (n : Nat) (f : Nat → Bool) : Nat := pack ((List.range n).map fun i => (b2n (f i), 1))

def pwrRead (s : Dev) (o : Nat) : Nat :=
  match o with
  | 0x100 => pack ((List.range 24).map fun n => (stateCode (getPower s (.engine n)).st, 2))
  | 0x108 => pack ((List.range 32).map fun n => (fabState s n, 2))
  | 0x110 => pack ((List.range 32).map fun n => (fabState s (32 + n), 2))
  | 0x118 => pack ((List.range 8).map fun a => (stateCode (getPower s (.acc a)).st, 2))
  | 0x120 => maskBits 24 fun n => pinned s (.engine n)
  | 0x128 => maskBits 64 fun n => pinned s (.fab n)
  | 0x130 => maskBits 8 fun a => pinned s (.acc a)
  | _ => 0

/-! ## Slices and error banks (Tables 9.1 to 9.5, 12.9, 12.10) -/

def sliceCode : SliceState → Nat
  | .free => 0
  | .live => 1
  | .faultStop => 2
  | .resetting => 3
  | .destroying => 4

/-- The key rotation mode in force: the one that was set, once every key slot of the slice has switched to it (Table 1.5, log 102). -/
def keyHaNow (s : Dev) (k : Nat) : Bool :=
  let v := (getSlice s k).keyHa
  if s.keySlots.all fun p => p.2.owner != k || p.2.keyHa == v then v else !v

def slcCtl (s : Dev) (k : Nat) : Nat :=
  let x := getSlice s k
  pack [(x.resetCount.toNat, 16), (0, 16), (x.pasid, 20), (0, 4), (b2n x.redHa, 1), (b2n (keyHaNow s k), 1), (b2n x.xltHa, 1), (b2n x.ccHa, 1),
    (b2n x.latCrit, 1), (sliceCode x.st, 3)]

def slcBind (x : Slice) : Nat :=
  pack [(0, 24), (x.bwWeight, 12), (0, 6), (x.routeSet, 6), (x.classMask.toNat, 8), (x.accMask.toNat, 8)]

def slcQuota (s : Dev) (k q : Nat) : Nat :=
  pack [(quotaLimit s k q, 28), (quotaUsed s k q, 28), (0, 7), (b2n ((getSlice s k).pend.getD q false), 1)]

def slcRead (s : Dev) (o : Nat) : Nat :=
  let k := o / 0x200
  let x := getSlice s k
  let r := o % 0x200
  if 511 < k then 0
  else if r = 0 then slcCtl s k
  else if r = 8 then slcBind x
  else if 0x40 ≤ r ∧ r < 0xA8 then slcQuota s k ((r - 0x40) / 8)
  else 0

def errFirst (b : ErrBank) : Nat :=
  pack [(b.time, 32), (b.code, 16), (b.slice.getD 0, 9), (0, 2), (b2n b.slice.isSome, 1), (b.severity, 3), (b2n b.v, 1)]

def errNext (b : ErrBank) : Nat := pack [(b.nextCount, 32), (0, 28), (b.nextSeverity, 3), (b2n b.nextV, 1)]

def dbgRead (s : Dev) (o : Nat) : Nat :=
  if o = 0 then b2n s.sec.unlocked
  else if o < 0x10000 then 0
  else
    let b := tgetD s.errBanks ((o - 0x10000) / 0x40) ErrBank.reset
    match o % 0x40 with
    | 0x00 => errFirst b
    | 0x08 => errNext b
    | 0x10 => b.log0
    | 0x18 => b.log1
    | 0x20 => b.log2
    | _ => 0

/-- The 8-byte word that a read of BAR0 at an 8-byte aligned offset returns (Table 16.2). -/
def regRead (s : Dev) (off : Nat) : Nat :=
  let o := off % 0x400000
  match off / 0x400000 with
  | 0x0 => genRead s o
  | 0x1 => cmdRead s o
  | 0x2 => evtRead s o
  | 0x3 => hifRead s o
  | 0x4 => acpRead s o
  | 0x5 => fabRead s o
  | 0x6 => rtgRead s o
  | 0x7 => tptRead s o
  | 0x8 => schRead s o
  | 0x9 => txeRead s o
  | 0xA => xltRead s o
  | 0xB => smcRead s o
  | 0xC => secRead s o
  | 0xD => pwrRead s o
  | 0xE => slcRead s o
  | 0xF => dbgRead s o
  | _ => 0

/-- What the host reads of BAR0 (R348): 4 or 8 bytes, naturally aligned; a read of another size or alignment gives zeros. The
upper half of SCH_TIME_NS comes from the latch (R306). -/
def bar0Read (s : Dev) (off n : Nat) : List Byte :=
  if ¬((n = 4 ∨ n = 8) ∧ off % n = 0) then List.replicate n 0
  else if off = 0x02000004 then natLe (timeRead s / 2 ^ 48) 4
  else ((natLe (regRead s (off / 8 * 8)) 8).drop (off % 8)).take n

end Sys2Proof.Machine
end

