-- ==== Sys2Proof/Machine/Device.lean ====
section
/-!
DEFINITION. Sys2Proof/Machine/Device.lean: the device's commands: modes (R23, R24), queries (R514), and self-tests (R159, R501
to R504).
-/
namespace Sys2Proof.Machine

/-! ## Modes and queries -/

/-- DEV_MODE_SET: both functions change at once (Table 1.5). -/
def devModeSetBody (routeHa evtHa : Nat) (h : Cmd) (c : CmdInfo) (s : Dev) : Dev :=
  ok c h { s with routeHa := routeHa == 1, evtHa := evtHa == 1 }

def devModeSetEffect (h : Cmd) (routeHa evtHa : Nat) : Dev → Dev :=
  command 0x0003 h false (firstBad [(8, decide (routeHa < 2)), (9, decide (evtHa < 2))]) (devModeSetBody routeHa evtHa h)

def execDevModeSet (h : Cmd) (routeHa evtHa : Nat) (s : State) : Res := runLevels (devModeSetEffect h routeHa evtHa) s

/-- A read of the low half of SCH_TIME_NS latches the count for the next two reads (R306). -/
def latchTime (s : Dev) : Dev := { s with time := { s.time with latch := some s.time.time, latchReads := 2 } }

/-- One of the two reads after a latch has been made. -/
def usedLatch (s : Dev) : Dev := { s with time := { s.time with latchReads := s.time.latchReads - 1 } }

/-- What a read of BAR0 does beyond its value. -/
def afterRead (off : Nat) (s : Dev) : Dev :=
  if off = 0x02000000 then usedLatch (latchTime s) else if off = 0x02000008 then usedLatch s else s

/-- A KIND 1 or KIND 2 query of a slice admin queue that reaches beyond its slice (R514). -/
def queryForbidden (h : Cmd) (kind code index offset : Nat) : Bool :=
  decide (8 ≤ h.aq) &&
    ((decide (kind = 1) && !(decide (counterRange code = 512) && decide (index = h.slice)))
      || (decide (kind = 2) && decide (offset / 0x200 ≠ 0x03800000 / 0x200 + h.slice)))

/-- DEV_QUERY (R514). -/
def devQueryBody (kind code index offset : Nat) (h : Cmd) (c : CmdInfo) (s : Dev) : Dev :=
  if queryForbidden h kind code index offset then refuse c h csNotPermitted s
  else
    match kind with
    | 0 => reply c h csOk 0 (genIdent s + genCap * 2 ^ 64) s
    | 1 => reply c h csOk 0 (counterRead s code index) s
    | _ => reply c h csOk 0 (regRead s offset) (afterRead offset s)

def devQueryEffect (h : Cmd) (kind code index offset : Nat) : Dev → Dev :=
  command 0x0004 h false
    (firstBad [(8, decide (kind < 3)), (16, decide (kind ≠ 2) || (decide (offset % 8 = 0) && decide (offset < 0x04000000)))])
    (devQueryBody kind code index offset h)

def execDevQuery (h : Cmd) (kind code index offset : Nat) (s : State) : Res := run (devQueryEffect h kind code index offset) s

/-- SCH_TIME_NS_READ: the low half is read, and the count is latched (R306). -/
def execSchTimeNsRead (s : State) : Res :=
  run (fun d => emit (.barRead (natLe (timeNs d % 2 ^ 32) 4) false) (latchTime d)) s

/-! ## Self-tests -/

/-- The port exists and runs a link whose lanes can be scanned (R502). -/
def scannable (s : Dev) (n : Nat) : Bool := if n < 64 then portExists s n && isZfl s n else linkIsZal s n

/-- The lanes of a link. -/
def hasLane (s : Dev) (n lane : Nat) : Bool :=
  if 64 ≤ n then decide (lane < 16)
  else if !isSplit s n then decide (lane < 8)
  else if n % 2 = 0 then decide (lane < 4) else decide (4 ≤ lane ∧ lane < 8)

/-- The link's lane group is parked. -/
def linkParked (s : Dev) (n : Nat) : Bool := (getPower s (if n < 64 then .fab n else .acc (n - 64))).st == .meringue

/-- A scan begins: the port narrows to the group without the lane (R502 step 1). -/
def scanBody (lane target : Nat) (h : Cmd) (c : CmdInfo) (s : Dev) : Dev :=
  let p := getPort s target
  if !scannable s target then badParam c h 10 s
  else if !hasLane s target lane then badParam c h 9 s
  else if !p.up || linkParked s target || p.narrowSince.isSome || decide (p.width ≠ linkWidth s target) then refuse c h csBusy s
  else if decide (target < 64) && pinned s (.fab target) then refuse c h csBusyGuarantee s
  else waitOn h c.op (.scan target lane) (modPort target (fun p => { p with scanLane := some lane, narrowSince := some s.now }) (layIdle target s))

/-- Engines of a list other than `e` in service. -/
def othersInService (s : Dev) (l : List Nat) (e : Nat) : Nat := (inService s (l.filter fun x => x != e)).length

/-- The engines that a slice's loaded programs may use. -/
def sliceEngines (s : Dev) (k : Nat) : List Nat :=
  (List.range 24).filter fun e => s.programs.any fun p => p.slice == k && !p.dead && p.engines.contains e

/-- The guaranteed shares that remain to be carried without an engine, in all and for each slice that has programs (R157). -/
def sharesFit (s : Dev) (e : Nat) : Bool :=
  let share := fun (k : Nat) => if (getSlice s k).st == .free then 0 else quotaLimit s k 4
  let total := s.slices.foldl (fun n p => n + share p.1) 0
  decide (total ≤ 64 * othersInService s (List.range 24) e)
    && s.slices.all fun p =>
      (sliceEngines s p.1).isEmpty || decide (share p.1 ≤ 64 * othersInService s (sliceEngines s p.1) e)

/-- An engine leaves service for its test (R159): queued items, and those set aside, go to the other engines with the programs they have. -/
def quiesce (e : Nat) (s : Dev) : Dev :=
  let x := getEngine s e
  let moves := fun (i : Item) => i.stage == .waiting e || i.stage == .aside e
  let ids := (s.items.filter fun i => i.stage == .waiting e).map (·.id)
  let other := fun (i : Item) => ((progOf s i.prog).bind fun p => bestEngine s (p.engines.filter fun x => x != e)).getD e
  let back := fun (i : Item) =>
    if !moves i then i
    else if i.stage == .aside e then { i with stage := .aside (other i) } else { i with stage := .queued, slot := none }
  let idle := residentAt s e = 0
  let mode : EngineMode := if idle then .selfTest else .quiescing
  let s := { s with
    engines := tset s.engines e { x with mode := mode, quiesceSince := s.now }
    items := s.items.map back }
  ids.foldl (fun s id => itemDispatch id s) s

/-- An engine's test starts, unless it is the only one of a program's set, or is needed for the guaranteed shares or for a pinned
path (R159, R470, R501). -/
def engineTestBody (e : Nat) (h : Cmd) (c : CmdInfo) (s : Dev) : Dev :=
  let mode := (getEngine s e).mode
  if 23 < e then badParam c h 10 s
  else if mode == .quiescing || mode == .selfTest then refuse c h csBusy s
  else if (s.programs.any fun p => !p.dead && p.engines == [e]) || !sharesFit s e || pinned s (.engine e) then
    refuse c h csBusyGuarantee s
  else waitOn h c.op (.engineTest e s.now) (quiesce e s)

/-- A range outside every slice's extents, the backing store and every extent being zeroed (R331, R504). -/
def unclaimed (s : Dev) (a n : Nat) : Bool :=
  decide (backingEnd ≤ a) && !(s.zeroing.any fun e => overlaps a n e.1 e.2)
    && s.slices.all fun p => !((p.2.extents ++ p.2.removing).any fun e => overlaps a n e.1 e.2)

/-- A stack-range test starts; the range counts as being zeroed (R504). -/
def stackTestBody (base length : Nat) (h : Cmd) (c : CmdInfo) (s : Dev) : Dev :=
  if base % 0x200000 ≠ 0 then badParam c h 16 s
  else if length % 0x200000 ≠ 0 ∨ length = 0 ∨ 0x4000000 < length then badParam c h 24 s
  else if smemBytes < base + length then badParam c h 16 s
  else if !unclaimed s base length then refuse c h csNotPermitted s
  else waitOn h c.op (.stackTest base length) { s with zeroing := s.zeroing ++ [(base, length)] }

/-- SELF_TEST: KIND at 8, LANE at 9, TARGET at 10, BASE at 16, LENGTH at 24. -/
def selfTestEffect (h : Cmd) (kind lane target base length : Nat) : Dev → Dev :=
  command 0x0005 h false (firstBad [(8, decide (kind < 3))]) fun c s =>
    match kind with
    | 0 => scanBody lane target h c s
    | 1 => engineTestBody target h c s
    | _ => stackTestBody base length h c s

def execSelfTest (h : Cmd) (kind lane target base length : Nat) (s : State) : Res :=
  run (selfTestEffect h kind lane target base length) s

/-- A scan ends: the port widens again and WIDTH and HEIGHT are replied (R502). -/
def scanDone (n a b : Nat) (s : Dev) : Dev :=
  let p := getPort s n
  if p.scanLane.isNone || p.narrowSince.isSome then s
  else
    let s := setPort n { p with scanLane := none, width := linkWidth s n } s
    s.waits.foldl (fun s w =>
      match w.2.2 with
      | .scan m _ => if m = n then reply (cmdRow w.2.1) w.1 csOk 0 (packResult [(a, 1), (b, 2)]) (endWait w s) else s
      | _ => s) s

/-- The command that tests an engine replies. -/
def engineReply (e st result : Nat) (s : Dev) : Dev :=
  s.waits.foldl (fun s w =>
    match w.2.2 with
    | .engineTest m _ => if m = e then reply (cmdRow w.2.1) w.1 st 0 result (endWait w s) else s
    | _ => s) s

/-- An engine's mode changes; in service it takes up its items again. -/
def setMode (e : Nat) (m : EngineMode) (s : Dev) : Dev :=
  { s with engines := tset s.engines e { getEngine s e with mode := m } }

/-- An engine's test ends (R503 steps 3 and 4). -/
def engineDone (e code : Nat) (failed : Bool) (s : Dev) : Dev :=
  if (getEngine s e).mode ≠ .selfTest then s
  else if failed then
    engineReply e csOk code (blockError (bankEngine e) 0x0502 2 none (latch (bankEngine e) 0x0502 2 none code 0 0 (setMode e .failed s)))
  else engineReply e csOk 0 (setMode e .service s)

/-- A stack-range test ends: the range is zeroed, its failing lines are counted (R504). -/
def stackDone (base a b : Nat) (s : Dev) : Dev :=
  s.waits.foldl (fun s w =>
    match w.2.2 with
    | .stackTest x n =>
      if x = base then
        let s := clearPoison x n { s with mem := memZero s.mem x n, zeroing := s.zeroing.filter fun e => !(e == (x, n)) }
        reply (cmdRow w.2.1) w.1 csOk 0 (packResult [(a, 4), (b, 8)]) (endWait w s)
      else s
    | _ => s) s

/-- SELF_TEST_DONE. -/
def selfTestDone (kind target a b : Nat) (failed : Bool) (s : Dev) : Dev :=
  match kind with
  | 0 => scanDone target a b s
  | 1 => engineDone target a failed s
  | 2 => stackDone target a b s
  | _ => s

def execSelfTestDone (kind target a b : Nat) (failed : Bool) (s : State) : Res := runLevels (selfTestDone kind target a b failed) s

/-- SELF_TEST_QUIESCE_TIMEOUT: the engine's items have not ended within 100 µs (R503 step 1). -/
def quiesceTimeout (e : Nat) (s : Dev) : Dev :=
  let x := getEngine s e
  if x.mode ≠ .quiescing then s
  else atExpiry (some (x.quiesceSince + 100000)) (fun s => engineReply e csBusy 0 (setMode e .service s)) s

def execSelfTestQuiesceTimeout (engine : Nat) (s : State) : Res := runLevels (quiesceTimeout engine) s

end Sys2Proof.Machine
end

