-- ==== Sys2Proof/Machine/Fec.lean ====
section
/-!
DEFINITION. Sys2Proof/Machine/Fec.lean: the two codes of a ZFL link (R245, Table 7.2): the shortened cyclic code of Light FEC and the two
Reed-Solomon codes of Full FEC, with what each corrects, and the flits that a codeword or block carries. The order of bits in a byte
and of symbols in a block is the model's (log 12).
-/
namespace Sys2Proof.Machine

/-- A flit as its code gives it (Table 7.3): its 256 bytes and the fields of its link word. -/
structure Flit where
  bytes : List Byte
  vc : Nat
  padAt : Nat
  fcrc : BitVec 24
  deriving DecidableEq, Repr

/-- The flit of 260 bytes: those of the flit and, little-endian, its link word. -/
def flitOf (bs : List Byte) : Flit :=
  let w := leNat ((bs.drop 256).take 4)
  ⟨bs.take 256, bitsN w 7 5, bitsN w 4 0, BitVec.ofNat 24 (bitsN w 31 8)⟩

/-- The 260 bytes of a flit. -/
def flitBytes (f : Flit) : List Byte := padTo f.bytes 256 ++ natLe (f.fcrc.toNat * 256 + f.vc * 32 + f.padAt) 4

/-- A list of bytes as one number, the first byte and in it the first bit most significant; and `n` bytes of such a number. -/
def bigNat (bs : List Byte) : Nat := bs.foldl (fun n b => n * 256 + b.toNat) 0
def natBig (v n : Nat) : List Byte := (List.range n).map fun i => BitVec.ofNat 8 (v / 256 ^ (n - 1 - i))

/-! ## Light FEC -/

/-- The generator x^32 + x^23 + x^21 + x^11 + x^2 + 1 without its leading term. -/
def lightGen : Nat := 0xA00805

/-- A remainder times x, plus the next coefficient. -/
def lightStep (r : Nat) (b : Bool) : Nat :=
  let t := r * 2 + b2n b
  if t < 2 ^ 32 then t else (t - 2 ^ 32) ^^^ lightGen

/-- The remainder modulo the generator of the `n` low coefficients of a polynomial. -/
def lightRem (v n : Nat) : Nat := (List.range n).foldl (fun r i => lightStep r (v.testBit (n - 1 - i))) 0

/-- The codeword of 260 bytes: they and 32 parity bits. -/
def lightEncode (bs : List Byte) : List Byte := bs ++ natBig (lightRem (bigNat bs * 2 ^ 32) 2112) 4

/-- A remainder divided by x. -/
def lightBack (r : Nat) : Nat := if r % 2 = 0 then r / 2 else (r ^^^ lightGen) / 2 + 2 ^ 31

/-- A burst of up to 11 bits with a remainder, from coefficient `i` on, as the error it is. -/
def lightBurst : Nat → Nat → Nat → Option Nat
  | 0, _, _ => none
  | f + 1, i, r => if r < 2 ^ 11 ∧ r * 2 ^ i < 2 ^ 2112 then some (r * 2 ^ i) else lightBurst f (i + 1) (lightBack r)

/-- A codeword of 264 bytes as the code gives it: its 260 bytes, and whether a burst was corrected; none where it cannot be
corrected. -/
def lightDecode (code : List Byte) : Option (List Byte × Bool) :=
  let v := bigNat code
  let r := lightRem v 2112
  if r = 0 then some (code.take 260, false)
  else (lightBurst 2112 0 r).map fun e => ((natBig (v ^^^ e) 264).take 260, true)

/-! ## Arithmetic of GF(2^10) -/

/-- a times x, modulo x^10 + x^3 + 1. -/
def gfTwice (a : Nat) : Nat := if a < 512 then 2 * a else (2 * a) ^^^ 0x409

/-- Product of two elements, over the bits of the second. -/
def gfMul (a b : Nat) : Nat :=
  ((List.range 10).foldl (fun (s : Nat × Nat) i => (if b.testBit i then s.1 ^^^ s.2 else s.1, gfTwice s.2)) (0, a)).1

/-- The n-th power of the primitive element. -/
def gfExp (n : Nat) : Nat := (List.range (n % 1023)).foldl (fun a _ => gfTwice a) 1

/-- The inverse of an element that is not zero: its power 1022. -/
def gfInv (a : Nat) : Nat :=
  ((List.range 9).foldl (fun (s : Nat × Nat) _ => let q := gfMul s.2 s.2; (gfMul s.1 q, q)) (1, a)).1

/-- A polynomial, lowest coefficient first, at a point. -/
def gfEval (p : List Nat) (x : Nat) : Nat := p.foldr (fun c a => c ^^^ gfMul a x) 0

/-- Sum of two polynomials, and a polynomial times an element and a power of x. -/
def polyAdd : List Nat → List Nat → List Nat
  | [], q => q
  | p, [] => p
  | a :: p, b :: q => (a ^^^ b) :: polyAdd p q
def polyScale (c k : Nat) (p : List Nat) : List Nat := List.replicate k 0 ++ p.map (gfMul c)

/-! ## RS(542, 520) -/

/-- The 22 syndromes of a word, its first symbol the highest coefficient. -/
def rsSyndromes (w : List Nat) : List Nat := (List.range 22).map fun j => gfEval w.reverse (gfExp j)

/-- One step of the Berlekamp-Massey algorithm: the error locator, the one before its last change, the number of errors, the steps
since that change, and the discrepancy at it. -/
def rsStep (s : List Nat) (a : List Nat × List Nat × Nat × Nat × Nat) (n : Nat) : List Nat × List Nat × Nat × Nat × Nat :=
  let (c, b, l, m, db) := a
  let d := (List.range (l + 1)).foldl (fun d i => if i ≤ n then d ^^^ gfMul (c.getD i 0) (s.getD (n - i) 0) else d) 0
  if d = 0 then (c, b, l, m + 1, db)
  else
    let c' := polyAdd c (polyScale (gfMul d (gfInv db)) m b)
    if 2 * l ≤ n then (c', c, n + 1 - l, 1, d) else (c', b, l, m + 1, db)

/-- The error locator of the syndromes, and the number of errors. -/
def rsLocator (s : List Nat) : List Nat × Nat :=
  let (c, _, l, _, _) := (List.range 22).foldl (rsStep s) ([1], [1], 0, 1, 1)
  (c, l)

/-- The error at the coefficient of x^i, by Forney's formula. -/
def rsError (s c : List Nat) (i : Nat) : Nat :=
  let x := gfExp i
  let y := gfInv x
  let omega := (List.range 22).map fun k => (List.range (k + 1)).foldl (fun a j => a ^^^ gfMul (c.getD j 0) (s.getD (k - j) 0)) 0
  let slope := (List.range c.length).map fun k => if k % 2 = 0 then c.getD (k + 1) 0 else 0
  gfMul x (gfMul (gfEval omega y) (gfInv (gfEval slope y)))

/-- A word of 542 symbols as the code gives it, up to 11 symbols corrected; none where more are wrong. -/
def rsDecode (w : List Nat) : Option (List Nat × Bool) :=
  let s := rsSyndromes w
  if s.all (· == 0) then some (w, false)
  else
    let (c, l) := rsLocator s
    let at_ := (List.range 542).filter fun i => gfEval c (gfInv (gfExp i)) == 0
    if 11 < l ∨ at_.length ≠ l then none
    else
      let w' := at_.foldl (fun w i => w.set (541 - i) (w.getD (541 - i) 0 ^^^ rsError s c i)) w
      if (rsSyndromes w').all (· == 0) then some (w', true) else none

/-- The generator of the code, the product of x - α^j for j from 0 to 21, and the 22 parity symbols of 520. -/
def rsGen : List Nat := (List.range 22).foldl (fun g j => polyAdd (0 :: g) (polyScale (gfExp j) 0 g)) [1]
def rsParity (w : List Nat) : List Nat :=
  (w.foldl (fun r x =>
    let t := x ^^^ r.getD 0 0
    (List.range 22).map fun i => r.getD (i + 1) 0 ^^^ gfMul t (rsGen.getD (21 - i) 0)) (List.replicate 22 0))

/-! ## Full FEC -/

/-- The 1,084 symbols of 10 bits of a block's bytes, and the bytes of symbols. -/
def symbolsOf (bs : List Byte) : List Nat :=
  let v := bigNat bs
  (List.range 1084).map fun i => v / 2 ^ (10 * (1083 - i)) % 1024
def bytesOf (l : List Nat) : List Byte := natBig (l.foldl (fun n x => n * 1024 + x) 0) 1355

/-- The symbols of one of the two codes, and two such lists interleaved. -/
def everySecond (k : Nat) (l : List Nat) : List Nat := (List.range (l.length / 2)).map fun i => l.getD (2 * i + k) 0
def interleave (a b : List Nat) : List Nat := (List.range a.length).flatMap fun i => [a.getD i 0, b.getD i 0]

/-- The block of 1,300 bytes, those of five flits with their link words: they and the 44 parity symbols of the two codes. -/
def fullEncode (bs : List Byte) : List Byte :=
  let l := symbolsOf (padTo bs 1355)
  let a := everySecond 0 (l.take 1040)
  let b := everySecond 1 (l.take 1040)
  bytesOf (interleave (a ++ rsParity a) (b ++ rsParity b))

/-- A block of 1,355 bytes as its codes give it. -/
def fullDecode (code : List Byte) : Option (List Byte × Bool) :=
  let l := symbolsOf code
  match rsDecode (everySecond 0 l), rsDecode (everySecond 1 l) with
  | some (a, x), some (b, y) => some ((bytesOf (interleave a b)).take 1300, x || y)
  | _, _ => none

/-! ## Flits of a codeword -/

/-- Bytes of a codeword or block on the wire, and flits that it carries. -/
def codeBytes (full : Bool) : Nat := if full then 1355 else 264
def codeFlits (full : Bool) : Nat := if full then 5 else 1

/-- The flits of a codeword or block, and whether anything was corrected; none where it cannot be. -/
def decodeFlits (full : Bool) (code : List Byte) : Option (List Flit × Bool) :=
  if code.length ≠ codeBytes full then none
  else
    (if full then fullDecode code else lightDecode code).map fun r =>
      ((List.range (codeFlits full)).map fun i => flitOf ((r.1.drop (260 * i)).take 260), r.2)

end Sys2Proof.Machine
end

