-- ==== Sys2Proof/Machine/Parking.lean ====
section
/-!
DEFINITION. Sys2Proof/Machine/Parking.lean: the power states of engines, lane groups and stacks: policy and idle timers (R490),
Soufflé (R491, R493, R494), parking (R492, R493), and route sets, which extend the paths that R495 pins (R263).
-/
namespace Sys2Proof.Machine

/-! ## Work and the idle timers -/

/-- The object has work, as R490 says for its kind. What the accesses of a stack are, the events SOUFFLE and POWER_IDLE_TIMER
say. -/
def hasWork (s : Dev) : PowerObj → Bool
  | .engine e => !(itemsAt s e).isEmpty
  | .fab n =>
    let p := getPort s n
    !p.queue.isEmpty || p.awaiting.isSome || replaying s n || !p.heldCtl.isEmpty || s.ports.any fun x => x.2.forwarding.any fun v => v.2.any fun f => f.port == n
  | .acc a => !(getIo s a).queued.isEmpty || (allReads s).any fun r => r.port == a
  | .stack _ => false

/-- The last moment at which the object had work. -/
def idleFrom (s : Dev) (o : PowerObj) : Nat :=
  let p := (getPower s o).idleSince
  match o with
  | .fab n => Nat.max p (getPort s n).lastRx
  | .acc a => Nat.max p (getPort s (64 + a)).lastRx
  | _ => p

/-- How deep a state is. -/
def depthOf : PState → Nat := stateCode

/-- A state by its code. -/
def powerOf (c : Nat) : PState :=
  match c with
  | 0 => .active
  | 1 => .standby
  | 2 => .meringue
  | _ => .off

/-- The lower state that an idle object enters next, with the time it takes since it had work. FORCE leaves both times 0, and the
object goes to its deepest state at once. -/
def nextLower (o : PowerObj) (p : Power) : Option (PState × Nat) :=
  match o, p.st, p.deepest with
  | .stack _, .active, .meringue => some (.meringue, p.tMeringue)
  | .stack _, _, _ => none
  | .engine _, .active, .meringue => if p.tStandby = 0 ∧ p.tMeringue = 0 then some (.meringue, 0) else some (.standby, p.tStandby)
  | .engine _, .standby, .meringue => some (.meringue, p.tStandby + p.tMeringue)
  | _, .active, .active => none
  | _, .active, .off => none
  | _, .active, _ => some (.standby, p.tStandby)
  | _, _, _ => none

/-- POWER_IDLE_TIMER (R490): an object without work enters the lower state; a pinned one does not (R495). -/
def powerIdle (o : PowerObj) (s : Dev) : Dev :=
  let p := getPower s o
  if pinned s o || hasWork s o || p.wakeDue.isSome then s
  else
    match nextLower o p with
    | none => s
    | some (st, d) => atExpiry (some (idleFrom s o + d)) (setPower o { p with st := st }) s

def execPowerIdleTimer (o : PowerObj) (s : State) : Res := runLevels (powerIdle o) s

/-! ## Soufflé -/

/-- SOUFFLE (R491, R493, R494): work arrives for the object. -/
def execSouffle (o : PowerObj) (s : State) : Res := runLevels (startWake o) s

/-- The transmitter of a link is on again: its stream goes on from now, and what waited leaves (R493). -/
def resumeTx (n : Nat) (s : Dev) : Dev :=
  let s := modPort n (fun p => { p with txAt := linkTime s, openFlit := none }) s
  releaseHeld n (replayFrom n (getPort s n).txSeq s)

/-- An object is ACTIVE: what waited for it goes on. A port's deepest state becomes STANDBY (R493 step 4), and each sender of a
port that was parked replays from what its receiver expects next, which is the next flit. -/
def wokenUp (o : PowerObj) (s : Dev) : Dev :=
  let p := getPower s o
  let was := p.st
  let lane := match o with | .fab _ | .acc _ => true | _ => false
  let deep := if lane && was == .meringue && p.deepest == .meringue then .standby else p.deepest
  let s := setPower o { p with st := .active, deepest := deep, wakeDue := none, idleSince := s.now } s
  let s := match o with
    | .engine e => fillEngine e 4 s
    | .fab n =>
      if was = .meringue then resumeTx n (modPort n (fun x => { x with parkAt := none, parkTxOff := false, lastRx := s.now }) s) else s
    | .acc a =>
      if was = .meringue then
        portGoes a (resumeTx (64 + a) (modIo a (fun x => { x with parkAt := none, parkTxOff := false }) s))
      else s
    | .stack _ => s
  awakeDone s

/-- SOUFFLE_DONE (R491). -/
def souffleDone (o : PowerObj) (s : Dev) : Dev := atExpiry (getPower s o).wakeDue (wokenUp o) s

def execSouffleDone (o : PowerObj) (s : State) : Res := runRetire (reopening (souffleDone o)) s

/-! ## Parking -/

/-- Link number of a lane group. -/
def linkOf : PowerObj → Option Nat
  | .fab n => if n < 64 then some n else none
  | .acc a => if a < 8 then some (64 + a) else none
  | _ => none

/-- ENTER_AT of a lane group whose parking is due or under way, and whether its transmitter is off. -/
def parkOf (s : Dev) : PowerObj → Option Nat × Bool
  | .fab n => ((getPort s n).parkAt, (getPort s n).parkTxOff)
  | .acc a => ((getIo s a).parkAt, (getIo s a).parkTxOff)
  | _ => (none, false)

def setPark (o : PowerObj) (at_ : Option Nat) (off : Bool) (s : Dev) : Dev :=
  match o with
  | .fab n => modPort n (fun p => { p with parkAt := at_, parkTxOff := off }) (layIdle n s)
  | .acc a => modIo a (fun p => { p with parkAt := at_, parkTxOff := off }) (layIdle (64 + a) s)
  | _ => s

/-- The lane group's link is up. -/
def laneUp (s : Dev) : PowerObj → Bool
  | .fab n => (getPort s n).up
  | .acc a => (getIo s a).up
  | _ => false

/-- No replay is requested or awaited on the lane group's link. -/
def laneQuiet (s : Dev) (o : PowerObj) : Bool :=
  match linkOf o with
  | some n => (getPort s n).awaiting.isNone && !replaying s n && (getPort s n).narrowSince.isNone
  | none => false

/-- PARK_START (R492 steps 1 to 3): from ENTER_AT no new packet starts, and the transmitter goes off once the link is quiet. -/
def parkStart (o : PowerObj) (s : Dev) : Dev :=
  match parkOf s o with
  | (some t, false) =>
    if laneUp s o then
      atExpiry (some (momentOf s t)) (fun s => if laneQuiet s o then setPark o (some t) true s else s) s
    else s
  | _ => s

def execParkStart (o : PowerObj) (s : State) : Res := runLevels (parkStart o) s

/-- PORT_PARKED (R492): the transmitter is off and the peer's signal is lost. -/
def portParked (o : PowerObj) (s : Dev) : Dev :=
  match parkOf s o with
  | (some _, true) => setPower o { getPower s o with st := .meringue, wakeDue := none } (setPark o none true s)
  | _ => s

def execPortParked (o : PowerObj) (s : State) : Res := runLevels (portParked o) s

/-- PARK_TIMEOUT (R492): not parked within 10 µs of ENTER_AT, the port stays ACTIVE and PWR_PARK_FAIL counts. -/
def parkTimeout (o : PowerObj) (s : Dev) : Dev :=
  match parkOf s o, linkOf o with
  | (some t, _), some n =>
    atExpiry (some (momentOf s (t + 10000)))
      (fun s =>
        let wasOff := (parkOf s o).2
        let s := setPark o none false (bump 0x25 n s)
        let s := setPower o { getPower s o with st := .active, idleSince := s.now, wakeDue := none } s
        if wasOff then resumeTx n s else s) s
  | _, _ => s

def execParkTimeout (o : PowerObj) (s : State) : Res :=
  runRetire (reopening fun d => match o with | .acc a => portGoes a (parkTimeout o d) | _ => parkTimeout o d) s

/-- PARKED_PORT_SIGNAL (R493 step 2): the peer's energy starts this end's Soufflé. -/
def parkedSignal (o : PowerObj) (s : Dev) : Dev :=
  if (getPower s o).st = .meringue ∧ (linkOf o).isSome = true then startWake o s else s

def execParkedPortSignal (o : PowerObj) (s : State) : Res := runLevels (parkedSignal o) s

/-- UNPARK_TIMEOUT (R493): not resumed 3 µs after its Soufflé started, the port goes down with cause 0. -/
def unparkTimeout (o : PowerObj) (s : Dev) : Dev :=
  let p := getPower s o
  match p.wakeDue, p.st with
  | some t, .meringue =>
    let lost := fun (s : Dev) =>
      let s := setPower o { getPower s o with st := .active, deepest := .standby, wakeDue := none, idleSince := s.now } (setPark o none false s)
      match o with
      | .fab n => awakeDone (portDown n 0 s)
      | .acc a => awakeDone (linkLoss a s)
      | _ => s
    if (linkOf o).isSome then atExpiry (some (t + 1500)) lost s else s
  | _, _ => s

def execUnparkTimeout (o : PowerObj) (s : State) : Res := runRetire (unparkTimeout o) s

/-! ## PWR_SET (R490) -/

/-- Instances of a class. -/
def classCount (cls : Nat) : Nat :=
  match cls with
  | 0 => 24
  | 1 => 64
  | 2 => 8
  | _ => 4

def objOf (cls n : Nat) : PowerObj :=
  match cls with
  | 0 => .engine n
  | 1 => .fab n
  | 2 => .acc n
  | _ => .stack n

/-- The instances that a PWR_SET names. -/
def pwrObjs (p : PwrSetP) : List PowerObj := ((List.range 64).filter fun n => p.mask.getLsbD n).map (objOf p.cls)

/-- The lane group has a MERINGUE: a ZFL or ZAL link. -/
def hasMeringue (s : Dev) : PowerObj → Bool
  | .fab n => portExists s n && isZfl s n
  | .acc a => linkIsZal s (64 + a)
  | _ => true

/-- The field that a PWR_SET breaks, if any. -/
def pwrBad (p : PwrSetP) : Option Nat :=
  firstBad [(8, decide (p.cls < 4)),
    (9, decide (p.deepest < 4) && !(decide (p.cls = 3) && (decide (p.deepest = 1) || decide (p.deepest = 3))) && !(decide (p.cls = 0) && decide (p.deepest = 3))),
    (10, decide (p.force < 2)),
    (16, (List.range 64).all fun n => !p.mask.getLsbD n || decide (n < classCount p.cls)),
    (24, decide (100 ≤ p.tStandby ∧ p.tStandby ≤ 1000000000)), (28, decide (10 ≤ p.tMeringue ∧ p.tMeringue ≤ 60000000))]

/-- The logical port carries this adapter's time: its PARENT while SOURCE is 2, or its BACKUP with BACKUP_V set. -/
def timePort (s : Dev) (n : Nat) : Bool :=
  (decide (fld s.time.cfg 27 24 = 2) && decide (fld s.time.cfg 21 16 = n)) || (s.time.cfg.getLsbD 15 && decide (fld s.time.cfg 13 8 = n))

/-- The refusal of R490's table, if any: the status and DETAIL. -/
def pwrRefusal (s : Dev) (p : PwrSetP) : Option (Nat × Nat) :=
  let objs := pwrObjs p
  let lanes := p.cls == 1 || p.cls == 2
  let park := lanes && p.deepest == 2
  if park && objs.any (fun o => !hasMeringue s o) then some (csBadParam, 9)
  else if park && decide (p.enterAt * 65536 < s.time.time + 655360000) then some (csBadParam, 32)
  else if lanes && p.deepest == 3 && objs.any (laneUp s) then some (csBusy, 0)
  else if park && p.cls == 1 && objs.any (fun o => match o with | .fab n => timePort s n | _ => false) then some (csBusy, 0)
  else if (p.force == 1 || park) && objs.any (pinned s) then some (csBusyGuarantee, 0)
  else none

/-- One instance takes its policy. -/
def pwrOne (p : PwrSetP) (o : PowerObj) (s : Dev) : Dev :=
  let x := getPower s o
  let lane := p.cls == 1 || p.cls == 2
  let deep := powerOf p.deepest
  let x := { x with
    deepest := deep
    tStandby := if p.force = 1 then 0 else p.tStandby
    tMeringue := if p.force = 1 then 0 else p.tMeringue * 1000 }
  let x := if lane && deep == .off then { x with st := .off, wakeDue := none }
    else if x.st = .off then { x with st := .active, idleSince := s.now } else x
  let s := setPower o x s
  let s := if lane then
      (if deep == .meringue && laneUp s o && x.st != .meringue then setPark o (some p.enterAt) false s
       else if x.st != .meringue then setPark o none false s else s)
    else s
  let s := if depthOf deep < depthOf x.st then startWake o s else s
  if p.force = 1 ∧ hasWork s o = false ∧ (getPower s o).wakeDue = none then
    (match nextLower o (getPower s o) with
     | some (st, _) => setPower o { getPower s o with st := st } s
     | none => s)
  else s

def pwrSetBody (p : PwrSetP) (h : Cmd) (c : CmdInfo) (s : Dev) : Dev :=
  match pwrRefusal s p with
  | some (st, d) => reply c h st d 0 s
  | none => ok c h ((pwrObjs p).foldl (fun s o => pwrOne p o s) s)

/-- PWR_SET: CLASS at 8, DEEPEST 9, FORCE 10, MASK 16, T_STANDBY 24, T_MERINGUE 28, ENTER_AT 32. -/
def pwrSetEffect (h : Cmd) (p : PwrSetP) : Dev → Dev := command 0x0006 h false (pwrBad p) (pwrSetBody p h)

def execPwrSet (h : Cmd) (p : PwrSetP) (s : State) : Res := run (pwrSetEffect h p) s

/-! ## ROUTESET_SET (R263) -/

/-- Two valid route sets share a pair of logical port and adaptive VC. -/
def setsClash (a b : BitVec 128) : Bool :=
  (rsPorts a &&& rsPorts b) != 0 && [rsReqVc a, rsRspVc a].any fun v => v == rsReqVc b || v == rsRspVc b

def routesetSetBody (n : Nat) (e : BitVec 128) (h : Cmd) (c : CmdInfo) (s : Dev) : Dev :=
  if !rsV e then
    (if s.slices.any fun p => p.2.st != .free && p.2.routeSet == n then refuse c h csBusy s
     else ok c h { s with routing := { s.routing with routeSets := tset s.routing.routeSets n e } })
  else if rsReqVc e = 1 ∨ rsReqVc e = 7 ∨ rsRspVc e = 1 ∨ rsRspVc e = 7 ∨ rsReqVc e = rsRspVc e then badParam c h 24 s
  else if s.routing.routeSets.any fun p => p.1 != n && rsV p.2 && setsClash e p.2 then refuse c h csNotPermitted s
  else
    replyPinned (pinnedObjs s) c h 0 (pumpEscape { s with routing := { s.routing with routeSets := tset s.routing.routeSets n e } })

/-- ROUTESET_SET: the set at 8, the entry at 16. -/
def routesetSetEffect (h : Cmd) (n : Nat) (e : BitVec 128) : Dev → Dev :=
  command 0x0502 h false (firstBad [(8, decide (n < 64)), (24, decide (fld e 127 72 = 0) && !bit e 67)]) (routesetSetBody n e h)

def execRoutesetSet (h : Cmd) (n : Nat) (entry : BitVec 128) (s : State) : Res := runLevels (routesetSetEffect h n entry) s

end Sys2Proof.Machine
end

