-- ==== Sys2Proof/Machine/Sched.lean ====
section
/-!
DEFINITION. Sys2Proof/Machine/Sched.lean: the commands of shapers, congestion profiles, meters and feedback rings (R290, R294, R299,
R302), and gates (R318 to R323).
-/
namespace Sys2Proof.Machine

/-! ## SHAPER_SET, CC_PROFILE_SET, METER_SET -/

/-- Parameters of SHAPER_SET: KIND at 8 (0 class, 1 slice), TC 9, the port or slice 10, RATE 12, BURST 16, RESET 24. -/
def shaperSetBad (kind object tc rate burst reset : Nat) : Option Nat :=
  firstBad [(8, decide (kind < 2)), (9, decide (tc < 8)), (10, decide (object < if kind = 0 then 64 else 512)),
    (12, decide (rate ≤ 128000)), (16, decide (8248 ≤ burst ∧ burst ≤ 16777216)), (24, decide (reset < 2))]

def shaperSetBody (kind object tc rate burst reset : Nat) (h : Cmd) (c : CmdInfo) (s : Dev) : Dev :=
  let k := if kind = 0 then classShaper object tc else sliceShaper object tc
  ok c h { s with shapers := tset s.shapers k ⟨rate, burst, if reset = 0 then burst * 1000 else 0, s.now⟩ }

def shaperSetEffect (h : Cmd) (kind object tc rate burst reset : Nat) : Dev → Dev :=
  command 0x0601 h false (shaperSetBad kind object tc rate burst reset) (shaperSetBody kind object tc rate burst reset h)

def execShaperSet (h : Cmd) (kind object tc rate burst reset : Nat) (s : State) : Res :=
  run (shaperSetEffect h kind object tc rate burst reset) s

/-- Parameters of CC_PROFILE_SET (Table 8.1): the profile at 8, TARGET 12, AI 16, BETA 24, MAX_MD 26, W_MIN 32, W_INIT 40, W_MAX
48, PACE_BURST 56. -/
def profileBad (n : Nat) (p : CcProfile) : Option Nat :=
  firstBad [(8, decide (n < 16)), (12, decide (500 ≤ p.target ∧ p.target ≤ 500000)), (16, decide (256 ≤ p.ai ∧ p.ai ≤ 65536)),
    (24, decide (p.beta ≤ 1024)), (26, decide (p.maxMd ≤ 1024)), (32, decide (256 ≤ p.wMin ∧ p.wMin ≤ 65536 ∧ p.wMin ≤ p.wInit)),
    (40, decide (256 ≤ p.wInit ∧ p.wInit ≤ 4194304 ∧ p.wInit ≤ p.wMax)), (48, decide (8192 ≤ p.wMax ∧ p.wMax ≤ 4194304)),
    (56, decide (8248 ≤ p.paceBurst ∧ p.paceBurst ≤ 262144))]

def ccProfileSetBody (n : Nat) (p : CcProfile) (h : Cmd) (c : CmdInfo) (s : Dev) : Dev := ok c h { s with profiles := tset s.profiles n p }

def ccProfileSetEffect (h : Cmd) (n : Nat) (p : CcProfile) : Dev → Dev := command 0x0602 h false (profileBad n p) (ccProfileSetBody n p h)

def execCcProfileSet (h : Cmd) (n : Nat) (p : CcProfile) (s : State) : Res := run (ccProfileSetEffect h n p) s

/-- Parameters of METER_SET (Table 8.4): CIR at 8, PIR 12, CBS 16, PBS 24. -/
def meterBad (cir pir cbs pbs : Nat) : Option Nat :=
  firstBad [(8, decide (cir ≤ 128000 ∧ cir ≤ pir)), (12, decide (pir ≤ 128000)), (16, decide (8248 ≤ cbs ∧ cbs ≤ 67108864)),
    (24, decide (8248 ≤ pbs ∧ pbs ≤ 67108864))]

/-- METER_SET fills both buckets (R302). -/
def meterSetBody (cir pir cbs pbs : Nat) (h : Cmd) (c : CmdInfo) (s : Dev) : Dev :=
  ok c h (modSlice h.slice (fun x => { x with meter := ⟨cir, pir, cbs, pbs, cbs * 1000, pbs * 1000, s.now⟩ }) s)

def meterSetEffect (h : Cmd) (cir pir cbs pbs : Nat) : Dev → Dev :=
  command 0x0603 h true (meterBad cir pir cbs pbs) (meterSetBody cir pir cbs pbs h)

def execMeterSet (h : Cmd) (cir pir cbs pbs : Nat) (s : State) : Res := run (meterSetEffect h cir pir cbs pbs) s

/-! ## Feedback rings (R299) -/

/-- FBR_CREATE: SPACE at 8, the base 16, lg 24, the index 28. A ring that is not wholly in the slice's Millefeuille allocation breaks
R27, which R299 answers with BAD_PARAM. -/
def fbrCreateBody (p : RingP) (h : Cmd) (c : CmdInfo) (s : Dev) : Dev :=
  if (getSlice s h.slice).feedbackQ.isSome then refuse c h csBusy s
  else
    let st := ringStatus s h.slice p.space p.base p.lg 32
    if st ≠ csOk then refuseRing c h (if p.space = 1 then csBadParam else st) 16 s
    else
      ok c h (pumpFeedback h.slice
        (modSlice h.slice (fun x => { x with feedbackQ := some (newRing p.space p.base p.lg p.index) }) s))

def fbrCreateEffect (h : Cmd) (p : RingP) : Dev → Dev :=
  command 0x060A h true (firstBad [(8, decide (p.space < 2)), (24, decide (6 ≤ p.lg ∧ p.lg ≤ 16))]) (fbrCreateBody p h)

def execFbrCreate (h : Cmd) (ring : RingP) (s : State) : Res := run (fbrCreateEffect h ring) s

/-- FBR_ACK: the consumer index under R535. A slice without a feedback ring has no object to acknowledge. -/
def fbrAckBody (cons : U32) (h : Cmd) (c : CmdInfo) (s : Dev) : Dev :=
  match (getSlice s h.slice).feedbackQ with
  | none => badParam c h 6 s
  | some r =>
    match checkIndex cons r.cons r.cons (dist r.prod r.cons) with
    | .same => reply c h csOk 0 0 s
    | .forward =>
      reply c h csOk 0 0 (pumpFeedback h.slice (modSlice h.slice (fun x => { x with feedbackQ := some { r with cons := cons } }) s))
    | .stale => reply c h csOk 0 1 s
    | .tooFar => badParam c h 8 s

def fbrAckEffect (h : Cmd) (cons : U32) : Dev → Dev := command 0x060B h true none (fbrAckBody cons h)

def execFbrAck (h : Cmd) (cons : U32) (s : State) : Res := run (fbrAckEffect h cons) s

/-! ## Gates (R318 to R323) -/

/-- The port sends 8,248 bytes within `span` ns at its configured width and FEC (R319). -/
def spanHolds (s : Dev) (n span : Nat) : Bool :=
  let w := cfgWidth s n
  if isEth s n then decide (8248 * 8 ≤ span * w * 100)
  else if fullFec s n then decide (8248 * 1355 ≤ span * 1280 * w * 16)
  else decide (8248 * 264 ≤ span * 256 * w * 16)

/-- An entry keeps Table 8.10. -/
def gateEntryOk (e : U64) : Bool := decide (fld e 55 32 = 0) && decide (10 ≤ gateLen e ∧ gateLen e ≤ 1000000000)

/-- The first refusal of a gate list: DETAIL is the offset of CYCLE (12), or of the entries (24). -/
def gateBad (s : Dev) (n cycle : Nat) (l : List U64) : Option Nat :=
  firstBad [(8, portExists s n), (10, decide (1 ≤ l.length ∧ l.length ≤ 256)), (12, decide (1000 ≤ cycle ∧ cycle ≤ 1000000000)),
    (12, decide (l.foldl (fun t e => t + gateLen e) 0 = cycle)), (24, l.all gateEntryOk),
    (24, (List.range 8).all fun tc => (longestOpen l tc).all (spanHolds s n))]

/-- The first instant BASE_TIME + k × CYCLE at least 10 µs ahead. -/
def gateInstant (now base cycle : Nat) : Nat := if now + 10000 ≤ base then base else base + ceilDiv (now + 10000 - base) cycle * cycle

/-- GATE_SET: the list becomes pending; RESULT is the instant at which it becomes active (R319). -/
def gateSetBody (n cycle base : Nat) (l : List U64) (h : Cmd) (c : CmdInfo) (s : Dev) : Dev :=
  match gateBad s n cycle l with
  | some o => badParam c h o s
  | none =>
    let t := gateInstant (ceilDiv s.time.time 65536) base cycle
    reply c h csOk 0 t (modPort n (fun p => { p with gatePending := some (l, base, cycle, t) }) s)

def gateSetEffect (h : Cmd) (n cycle base : Nat) (l : List U64) : Dev → Dev := command 0x0609 h false none (gateSetBody n cycle base l h)

def execGateSet (h : Cmd) (port cycle baseTime : Nat) (entries : List U64) (s : State) : Res :=
  run (gateSetEffect h port cycle baseTime entries) s

/-- GATE_LIST_ACTIVATE: the pending list becomes the active one at its instant. -/
def gateActivate (n : Nat) (s : Dev) : Dev :=
  match (getPort s n).gatePending with
  | none => s
  | some (l, base, cycle, t) =>
    atExpiry (some (momentOf s t)) (fun s =>
      modPort n (fun p => { p with gateActive := l, gateBase := base, gateCycle := cycle, gatePending := none }) s) s

def execGateListActivate (port : Nat) (s : State) : Res := run (gateActivate port) s

/-- ns of fabric time until the interval in force ends. -/
def intervalLeft (s : Dev) (p : FPort) : Nat :=
  let (i, o) := gatePosition s p
  gateLen (p.gateActive.getD i 0) - o

/-- GATE_INTERVAL_ADVANCE: the interval ends, and the next entry is in force. Which entry that is follows from fabric time (R323). -/
def gateAdvance (n : Nat) (s : Dev) : Dev :=
  let p := getPort s n
  if p.gateActive.isEmpty then s else atExpiry (some (momentOf s (timeNs s + intervalLeft s p))) id s

def execGateIntervalAdvance (port : Nat) (s : State) : Res := run (gateAdvance port) s

/-- SCH_GATE_CTL_WRITE: EN at the next packet boundary (R512). -/
def gateCtlWrite (n : Nat) (v : U64) (s : Dev) : Dev :=
  if 64 ≤ n then s else modPort n (fun p => { p with gateEn := bit v 63 }) s

def execSchGateCtlWrite (port : Nat) (value : U64) (s : State) : Res := run (gateCtlWrite port value) s

end Sys2Proof.Machine
end

