-- ==== Sys2Proof/Machine/Time.lean ====
section
/-!
DEFINITION. Sys2Proof/Machine/Time.lean: fabric time: its source, the exchange of TIME flits, the servo, steps, PPS and IEEE 1588
(R306 to R314). Times are in units of 2^-16 ns.
-/
namespace Sys2Proof.Machine

/-- HOPS and ROOT that the adapter advertises (Tables 8.7, 16.10): 0 and its own EPID at a root. -/
def advertise (s : Dev) : Dev :=
  let src := timeSource s
  let root := decide (src ≤ 1) || (decide (src = 3) && s.time.st != .free)
  if root then modTime (fun t => { t with hops := 0, root := s.routing.selfEpid }) s
  else if s.time.st == .free then modTime (fun t => { t with hops := 0xFF }) s
  else s

/-! ## Steps (R312, R323) -/

/-- Fabric time steps by `d`; the gates' place follows it, and so do the sampling instants: one that has just been sampled is not
sampled again after the step (R305). TIME_STEP names the step in ns. -/
def stepTime (d : Int) (s : Dev) : Dev :=
  let sampled := s.lastSample == some (timeNs s)
  let s := modTime (fun t => { t with time := (Int.ofNat t.time + d).toNat }) s
  let s := { s with lastSample := if sampled then some (timeNs s) else none }
  devEvent 0x42 0 bankCore 0 (BitVec.ofInt 64 (d.tdiv 65536)).toNat 0 s

/-- TIME_SET: an absolute value, at a root only. -/
def timeSetBody (ns : Nat) (h : Cmd) (c : CmdInfo) (s : Dev) : Dev :=
  if isFollower s then refuse c h csNotPermitted s else ok c h (stepTime (Int.ofNat (ns * 65536) - Int.ofNat s.time.time) s)

def timeSetEffect (h : Cmd) (ns : Nat) : Dev → Dev := command 0x0607 h false none (timeSetBody ns h)

def execTimeSet (h : Cmd) (ns : Nat) (s : State) : Res := runLevels (timeSetEffect h ns) s

/-- TIME_ADJ: a signed offset in ns that keeps fabric time within its 64 bits. -/
def timeAdjBody (offset : Int) (h : Cmd) (c : CmdInfo) (s : Dev) : Dev :=
  let t := Int.ofNat (timeNs s) + offset
  if isFollower s then refuse c h csNotPermitted s
  else if t < 0 ∨ 2 ^ 64 ≤ t then badParam c h 8 s
  else ok c h (stepTime (offset * 65536) s)

def timeAdjEffect (h : Cmd) (offset : Int) : Dev → Dev := command 0x0608 h false none (timeAdjBody offset h)

def execTimeAdj (h : Cmd) (offset : Int) (s : State) : Res := runLevels (timeAdjEffect h offset) s

/-! ## The servo (R309, R312) -/

/-- The servo's trim after a correction: the manual gives its range of ±200 ppm and not its gains, so the trim is a free value
within that range (log 5). -/
def freeTrim (s : Dev) : Int × Dev :=
  let (v, s) := freshValue s
  (Int.ofNat (v % 27) - 13, s)

/-- A valid exchange with offset `o`, taken through `port` where there is one: a step at 1 µs or more, else the trim; LOCKED after 64
exchanges below 1 ns. -/
def servo (o : Int) (port : Option Nat) (s : Dev) : Dev :=
  let big := decide (65536000 ≤ o.natAbs)
  let s := modTime (fun t => { t with
    lastOffset := o, lastSync := s.now
    good := if o.natAbs < 65536 then t.good + 1 else 0
    st := if t.st == .locked then .locked else .acquiring }) s
  let s := if big then stepTime (-o) s else (let (x, s) := freeTrim s; modTime (fun t => { t with trim := x }) s)
  if s.time.st != .locked && decide (64 ≤ s.time.good) then
    let s := modTime (fun t => { t with st := .locked }) s
    (match port with
     | some n => devEvent 0x41 0 (bankFab n) n 0 0 s
     | none => s)
  else s

/-! ## TIME flits (R308 to R311) -/

/-- STATE code as sent. -/
def timeFlitOf (s : Dev) (p : FPort) : TimeFlit where
  state := timeCode s.time.st
  hops := s.time.hops
  txTime := Int.ofNat s.time.time
  echoTx := p.lastTimeTx
  echoRx := p.lastTimeRx
  root := s.time.root

/-- TIME_FLIT_SEND: every 2 µs on a ZFL port that is up and not parked. -/
def timeFlitSend (n : Nat) (s : Dev) : Dev :=
  let p := getPort s n
  if !(decide (n < 64) && linkOn s n && txOn s n) then s
  else
    atExpiry (some (p.lastTimeAt.elim s.now (· + 2000))) (fun s =>
      let s := advertise s
      let f := timeFlitOf s (getPort s n)
      modPort n (fun p => { p with lastTimeAt := some s.now }) (sendFlits n 1 (emit (.timeFlit n f) s))) s

def execTimeFlitSend (n : Nat) (s : State) : Res := runLevels (timeFlitSend n) s

/-- The peer is no parent any more: HOLDOVER, or FREE without being a root (R311). -/
def peerLost (p : FPort) : Bool := p.peerState == 3 || (p.peerState == 0 && p.peerHops != 0)

/-- The follower takes time from port `n`: the port it follows, or in HOLDOVER its PARENT, or its BACKUP where that is good. -/
def follows (s : Dev) (n : Nat) : Bool :=
  isFollower s &&
    (n == s.time.following
      || (s.time.st == .holdover && (n == timeParent s || (timeBackup s == some n && backupGood s n))))

/-- FAB_TIME_ASYM of a logical port, in units of 2^-16 ns: its 10 ps units, signed. -/
def asymOf (s : Dev) (n : Nat) : Int :=
  let f := (getFab s (n / 2)).asym
  (BitVec.ofNat 16 (if n % 2 = 0 then fld f 15 0 else fld f 31 16)).toInt * 65536 / 100

/-- The offset of an exchange: t1 and t2 the echoes, t3 the sender's time, t4 the receiver's (R309). -/
def offsetOf (t1 t2 t3 t4 asym : Int) : Int :=
  let x := t4 - t3 + asym
  x - (x + (t2 - t1)) / 2

/-- HOPS and ROOT from the parent; a depth beyond 12 is told once (R310). -/
def takeDepth (p : FPort) (s : Dev) : Dev :=
  let hops := Nat.min 254 (p.peerHops + 1)
  let warn := decide (12 < hops) && !s.time.depthWarned
  let s := modTime (fun t => { t with hops := hops, root := p.peerRoot, depthWarned := t.depthWarned || warn }) s
  if warn then devEvent 0x43 0 bankCore hops 0 0 s else s

/-- An exchange with the parent. -/
def exchange (n : Nat) (t : TimeFlit) (rx : FracNs) (s : Dev) : Dev :=
  let p := getPort s n
  if peerLost p then (if s.time.st == .acquiring || s.time.st == .locked then parentLost s else s)
  else if p.lastTimeAt.isNone ∨ (t.echoTx = 0 ∧ t.echoRx = 0) then s
  else
    let s := servo (offsetOf t.echoTx t.echoRx t.txTime rx (asymOf s n)) (some n) (modTime (fun x => { x with following := n }) s)
    takeDepth p s

/-- TIME_FLIT_RECEIVE: within a replay the flit is discarded. -/
def timeFlitReceive (n : Nat) (t : TimeFlit) (rx : FracNs) (inReplay : Bool) (s : Dev) : Dev :=
  if !(decide (n < 64) && acceptsFlit s n) then s
  else
    let s := tookFlit n s
    if inReplay then s
    else
      let s := modPort n (fun p => { p with
        lastTimeTx := t.txTime, lastTimeRx := rx, peerState := t.state, peerHops := t.hops, peerRoot := t.root }) s
      if follows s n then exchange n t rx s else s

def execTimeFlitReceive (n : Nat) (t : TimeFlit) (rxTime : FracNs) (inReplay : Bool) (s : State) : Res :=
  runLevels (timeFlitReceive n t rxTime inReplay) s

/-- How long a follower goes on without a correction: 20 µs, and at an Ethernet port three Sync intervals where those are longer. The
interval is that of the latest two Syncs; before there are two, the longest of Table 8.8 (R311, R314, log 160). -/
def lossAfter (s : Dev) : Nat := if isEth s s.time.following then Nat.max 20000 (3 * s.time.syncGap) else 20000

/-- TIME_PARENT_LOST (R311, R314): the parent port is down or reports the loss, or no valid time has come for long enough. -/
def timeParentLost (s : Dev) : Dev :=
  let p := getPort s s.time.following
  if !isFollower s || !(s.time.st == .acquiring || s.time.st == .locked) then s
  else if p.up = false ∨ (isEth s s.time.following = false ∧ peerLost p = true) then parentLost s
  else atExpiry (some (s.time.lastSync + lossAfter s)) parentLost s

def execTimeParentLost (s : State) : Res := run timeParentLost s

/-! ## SCH_TIME_CFG (R307) -/

/-- SCH_TIME_CFG_WRITE: a reserved SOURCE ignores the write. A new SOURCE or PARENT starts afresh. -/
def timeCfgWrite (v : U32) (s : Dev) : Dev :=
  if 3 < fld v 27 24 then s
  else
    let c := v &&& 0x0F3FBF00
    let same := fld c 27 16 = fld s.time.cfg 27 16
    let s := modTime (fun t => { t with cfg := c }) s
    if same then s
    else
      advertise (modTime (fun t => { t with
        st := .free, good := 0, following := fld v 21 16, lastSync := s.now, ppsLast := none, depthWarned := false
        syncAt := none, syncGap := 1000000000 }) s)

def execSchTimeCfgWrite (value : U32) (s : State) : Res := runLevels (timeCfgWrite value) s

/-! ## PPS (R313) -/

/-- The offset of an edge from the nearest whole second. -/
def ppsOffset (ns : Nat) : Int :=
  let r := ns % 1000000000
  (if r ≤ 500000000 then Int.ofNat r else Int.ofNat r - 1000000000) * 65536

/-- PPS_IN_EDGE: with SOURCE 1 the edge is timestamped and disciplines the root. One 1.1 s or more after the last puts the root into
HOLDOVER. -/
def ppsInEdge (ns : Nat) (s : Dev) : Dev :=
  if timeSource s ≠ 1 then s
  else
    let late := s.time.ppsLast.any fun t => decide (t + 1100000000 ≤ s.now)
    let s := modTime (fun t => { t with ppsTs := ns, ppsLast := some s.now }) s
    if late then holdover s else servo (ppsOffset ns) none s

def execPpsInEdge (at_ : Nat) (s : State) : Res := runLevels (ppsInEdge at_) s

/-- PPS_IN_MISSING: no edge within 1.1 s. -/
def ppsInMissing (s : Dev) : Dev :=
  if timeSource s ≠ 1 ∨ s.time.st = .holdover then s
  else atExpiry (some (s.time.ppsLast.getD s.time.lastSync + 1100000000)) holdover s

def execPpsInMissing (s : State) : Res := run ppsInMissing s

/-- PPS_OUT_PULSE, the next edge of the pin: it rises at the next whole second of fabric time, and falls 100 µs later. -/
def ppsOutPulse (s : Dev) : Dev :=
  match s.time.ppsFall with
  | some due => atExpiry (some due) (fun s => emit (.pin "PPS_OUT" false) (modTime (fun t => { t with ppsFall := none }) s)) s
  | none =>
    let t := ceilDiv (timeNs s) 1000000000 * 1000000000
    atExpiry (some (momentOf s t)) (fun s =>
      emit (.pin "PPS_OUT" true) (modTime (fun t => { t with ppsFall := some (s.now + 100000) }) s)) s

def execPpsOutPulse (s : State) : Res := run ppsOutPulse s

/-! ## IEEE 1588 (R314) -/

/-- The instant of a PTP event message is captured at its port, and held until the firmware reads it (R316). -/
def holdStamp (n : Nat) (s : Dev) : Dev :=
  match captureStamp n s with
  | (true, some g, s) => modTime (fun t => { t with ptpHeld := t.ptpHeld ++ [g] }) s
  | (_, _, s) => s

/-- The firmware reads the instants that are held: their places in the timestamp queues are free. -/
def readStamps (s : Dev) : Dev :=
  modTime (fun t => { t with ptpHeld := [] }) (s.time.ptpHeld.foldl (fun s g => freeStamp (some g) s) s)

/-- A Sync arrived: the firmware, while no control core hangs, answers it with a Delay_Req, whose instant is captured as well. -/
def ptpSync (n : Nat) (s : Dev) : Dev :=
  let seen := fun (t : TimeUnit) =>
    { t with syncAt := some s.now, syncGap := (t.syncAt.map fun x => s.now - x).getD t.syncGap }
  if s.cores ≠ 0x3F then holdStamp n s
  else emit (.ptpDelayReq n) (holdStamp n (holdStamp n (readStamps (modTime seen s))))

/-- The Delay_Resp that completes an exchange: the firmware reads the instants of its Sync and its Delay_Req, and with both of them has
the offset. -/
def ptpResp (n : Nat) (offset : Int) (s : Dev) : Dev :=
  if s.cores ≠ 0x3F then s
  else
    let both := decide (s.time.ptpHeld.length = 2)
    let s := readStamps s
    if both then advertise (servo offset (some n) (modTime (fun t => { t with following := n }) s)) else s

/-- PTP_MESSAGE: kind 0 a Sync, which is an event message; 1 the Delay_Resp that completes an exchange with this offset; 2 another general
message; else a security or management message, which is dropped and counted. The port of SOURCE 3 is followed while no control
core hangs; a hang pauses the exchange (R314). -/
def ptpMessage (n kind : Nat) (offset : Int) (s : Dev) : Dev :=
  if !(decide (n < 64) && (getPort s n).up && isEth s n) then s
  else if 2 < kind then bump 0x26 n s
  else if timeSource s ≠ 3 || !follows s n then s
  else match kind with
    | 0 => ptpSync n s
    | 1 => ptpResp n offset s
    | _ => s

def execPtpMessage (n kind : Nat) (offset : FracNs) (s : State) : Res := runLevels (ptpMessage n kind offset) s

end Sys2Proof.Machine
end

