-- ==== Sys2Proof/Machine/Flits.lean ====
section
/-!
DEFINITION. Sys2Proof/Machine/Flits.lean: flits and frames as they arrive (R245 to R254, R257, R272, R276, R280, R372).
-/
namespace Sys2Proof.Machine

/-! ## Streams of packets on a VC (R247) -/

/-- Bytes that the packet of a header takes in its stream, padded to 8 (R82, R247). -/
def spanOf (h : BitVec 128) : Nat :=
  let desc := if pkIsReq (phOp h) ∧ phIndex h = 0 then 16 else 0
  roundUp (16 + desc + phPay h + 8 + (if phEnc h then 16 else 0)) 8

/-- Bytes that a ZAL transaction takes in its stream (R373). -/
def zalSpan (h : BitVec 128) : Nat :=
  let op := fld h 127 122
  if op = 1 ∨ op = 3 ∨ op = 4 ∨ op = 0x11 then 16 + roundUp (fld h 107 95) 8 else 16

/-- One packet leaves the front of a stream: one for this adapter goes to endpoint buffers at once (R261), one in transit keeps its
place in the ingress allocation. `fresh` says that the header at the front has come just now. -/
def takeFront (n vc : Nat) (fresh : Bool) (s : Dev) : Option Dev :=
  let bs := tgetD (getPort s n).partials vc []
  if bs.length < 16 then none
  else
    let h := headerOf bs
    let mine := decide (64 ≤ n) || phDst h == s.routing.selfEpid
    let k := if 64 ≤ n then zalSpan h else spanOf h
    let s := if mine then s else forwardBytes n vc k (Nat.min k bs.length) h (if fresh then headerRouted n vc h s else s)
    if bs.length < k then (if mine then none else some s)
    else
      let rest := bs.drop k
      let s := modPort n (fun p => { p with partials := if rest.isEmpty then tdel p.partials vc else tset p.partials vc rest }) s
      some (if mine then freeIngress n vc k s else s)

/-- The packets that are complete at the front of a stream. -/
def takeFronts (n vc : Nat) : Nat → Bool → Dev → Dev
  | 0, _, s => s
  | f + 1, fresh, s =>
    match takeFront n vc fresh s with
    | none => s
    | some s' =>
      if (tgetD (getPort s' n).partials vc []).length = (tgetD (getPort s n).partials vc []).length then s' else takeFronts n vc f true s'

/-- Bytes of a data flit join their stream. -/
def takeData (n vc : Nat) (bs : List Byte) (s : Dev) : Dev :=
  let old := tgetD (getPort s n).partials vc []
  let s := addIngress n vc bs.length (modPort n (fun p => { p with partials := tset p.partials vc (old ++ bs) }) s)
  updateOff n (takeFronts n vc 32 (decide (old.length < 16)) s)

/-! ## Control flits (Table 7.4) -/

/-- Little-endian field of a flit. -/
def flitNat (bs : List Byte) (o k : Nat) : Nat := leNat ((bs.drop o).take k)

/-- A time of a TIME flit: 8 bytes of ns, then the fraction (Table 8.7). -/
def flitTime (bs : List Byte) (o : Nat) : FracNs := Int.ofNat (flitNat bs o 8 * 65536 + flitNat bs (o + 8) 2)

def readTime (bs : List Byte) : TimeFlit where
  state := flitNat bs 1 1 % 4
  hops := flitNat bs 2 1
  txTime := flitTime bs 4
  echoTx := flitTime bs 14
  echoRx := flitTime bs 24
  root := flitNat bs 34 4 % 2 ^ 18

def readRoute (bs : List Byte) : RouteUpdate where
  kind := flitNat bs 1 1
  hops := flitNat bs 2 1
  level := flitNat bs 3 1
  origin := flitNat bs 4 4 % 2 ^ 18
  indices := (List.range (Nat.min 120 (flitNat bs 8 2))).map fun i => flitNat bs (10 + 2 * i) 2

/-- A control flit that passed its checks. A ZAL link has no ROUTE_UPDATE and no TIME (R372); PEER belongs to training. Of these
REPLAY_MISS alone takes no number (log 60). -/
def controlFlit (n : Nat) (bs : List Byte) (s : Dev) : Dev :=
  match flitNat bs 0 1 with
  | 0 => tookIdle n s
  | 1 => gotFlow n (BitVec.ofNat 7 (flitNat bs 1 1)) (tookFlit n s)
  | 2 => gotReplayReq n (BitVec.ofNat 16 (flitNat bs 2 2)) (tookFlit n s)
  | 3 => gotReplayMiss n (BitVec.ofNat 16 (flitNat bs 2 2)) (modPort n (fun p => { p with lastRx := s.now }) s)
  | 4 => (let vc := flitNat bs 1 1 % 8; if vc = 7 then tookFlit n s else gotAbort n vc (tookFlit n s))
  | 5 => if n < 64 then gotRoute n (readRoute bs) (tookFlit n s) else bump 0x22 n (tookFlit n s)
  | 6 =>
    if n < 64 then timeFlitReceive n (readTime bs) (Int.ofNat s.time.time) (decide (0 < (getPort s n).missed)) s else bump 0x22 n (tookFlit n s)
  | 7 => tookFlit n s
  | _ => bump 0x22 n (tookFlit n s)

/-! ## FLIT_RECEIVE -/

/-- A codeword that could not be corrected is held against a lane; 16 within 1 ms fail it (R254). -/
def laneError (n : Nat) (lane : Option Nat) (s : Dev) : Dev :=
  match lane with
  | none => s
  | some l =>
    let recent := (tgetD (getPort s n).laneErrors l []).filter fun t => decide (s.now < t + 1000000)
    let times := recent ++ [s.now]
    let s := modPort n (fun p => { p with laneErrors := tset p.laneErrors l times }) s
    if 16 ≤ times.length then laneFails n l s else s

/-- FCRC of a flit, for the sequence number that the receiver expects. -/
def fcrcOk (s : Dev) (n : Nat) (f : Flit) : Bool := fcrc (getPort s n).rxSeq f.bytes f.vc f.padAt == f.fcrc

/-- `k` flits fail their code, or one its FCRC, and are discarded: the replay brings them again (R249, R308). -/
def flitFails (n k : Nat) (s : Dev) : Dev :=
  let s := modPort n (fun p => { p with missed := Nat.min (p.missed + k) (replaySize s n) }) s
  if linkOn s n && (getPort s n).awaiting.isNone then requestReplay n s else s

/-- The flit is a control flit of a type. -/
def isType (k : Nat) (f : Flit) : Bool := f.vc == 7 && flitNat f.bytes 0 1 == k

/-- A flit passes: data joins its stream, control flits are consumed at once. -/
def flitPasses (n : Nat) (f : Flit) (s : Dev) : Dev :=
  if f.vc = 7 then controlFlit n f.bytes s
  else if linkVcs s n ≤ f.vc then bump 0x22 n (tookFlit n s)
  else takeData n f.vc (if f.padAt = 0 then f.bytes else f.bytes.take (8 * f.padAt)) (tookFlit n s)

/-- A flit whose code holds. While a replay is awaited, the flit with the awaited number resumes acceptance, whatever its type, and
REPLAY_REQ and REPLAY_MISS alone are taken besides; of these REPLAY_MISS takes no number of its own (R249, log 60). -/
def takeFlit (n : Nat) (s : Dev) (f : Flit) : Dev :=
  let awaits := (getPort s n).awaiting.isSome
  if !linkOn s n then s
  else if awaits && isType 3 f then controlFlit n f.bytes s
  else if fcrcOk s n f then flitPasses n f (modPort n (fun p => { p with awaiting := none }) s)
  else if awaits && isType 2 f then controlFlit n f.bytes s
  else flitFails n 1 s

/-- FLIT_RECEIVE: a codeword or block (R245). One that cannot be corrected fails its flits together, and is held against one lane. -/
def flitReceive (n : Nat) (c : Codeword) (s : Dev) : Dev :=
  if !linkOn s n then s
  else
    match decodeFlits (fullFec s n) c.code with
    | none => flitFails n (codeFlits (fullFec s n)) (laneError n c.badLane (bump 0x1F n s))
    | some (l, fixed) => l.foldl (takeFlit n) (if fixed then bump 0x1E n s else s)

def execFlitReceive (n : Nat) (c : Codeword) (s : State) : Res := runRetire (flitReceive n c) s

/-! ## ETH_FRAME_RECEIVE (R276, R280) -/

/-- A transport packet is handled by its class. -/
def rxPacket (link : Nat) (p : Packet) (s : Dev) : Dev :=
  if pkIsResp (phOp p.hdr) then rxResp (fun o => o == phOp p.hdr) link p s else rxRequest link p s

/-- The frame carries transport to this port: its MAC and IPv6 address, and the UDP port of the transport (R276). -/
def frameIsOurs (s : Dev) (n : Nat) (f : EthFrame) : Bool :=
  let p := getPort s n
  f.dmac == p.mac && f.etherType == 0x86DD && f.ipv6 == p.ip && f.nextHeader == 17 && f.udpPort == (getFab s (n / 2)).udpPort

/-- The frame is a Neighbor Solicitation for the port's own address, under ICMPv6. -/
def frameSolicits (s : Dev) (n : Nat) (f : EthFrame) : Bool :=
  f.etherType == 0x86DD && f.nextHeader == 58 && f.solicits == some (getPort s n).ip

/-- A frame arrives on an Ethernet port. An IPv6 ECN field of CE sets the packet's CE bit. The frame's bytes leave the ingress
allocation of its priority 2 µs later (R261, R278, log 157). -/
def ethFrame (n : Nat) (f : EthFrame) (p : Packet) (s : Dev) : Dev :=
  if !((getPort s n).up && decide (n < 64) && isEth s n) then s
  else
    let s := modPort n (fun x => { x with lastRx := s.now }) (pumpLeaving n s)
    if frameIsOurs s n f then
      let p := if f.ecn = 3 then setCe p else p
      let v := f.priority % 8
      let s := modPort n (fun x => { x with leaving := x.leaving ++ [(v, f.wireBytes, s.now + 2000)] }) (updateOff n (addIngress n v f.wireBytes s))
      if forUs s p then rxPacket n p s else bump 0x26 n s
    else if frameSolicits s n f then emit (.neighAdvert n) s
    else bump 0x26 n s

def execEthFrameReceive (n : Nat) (f : EthFrame) (p : Packet) (s : State) : Res := runRetire (ethFrame n f p) s

end Sys2Proof.Machine
end

