-- ==== Sys2Proof/Machine/Groups.lean ====
section
/-!
DEFINITION. Sys2Proof/Machine/Groups.lean: the commands of collectives, mixture-of-experts bindings, stage streams and
triggers, and the sequencer's turn (R197 to R199, R209, R210, R218, R229, R235 to R240, R406, R407, R482).
-/
namespace Sys2Proof.Machine

/-! ## COLL_CREATE (R197 to R199, R211) -/

/-- Entries of 16 bytes that a table in the stacks holds. -/
def readEntries (mem : List Host.Cell) (a : Nat) : Nat → List (BitVec 128)
  | 0 => []
  | n + 1 => BitVec.ofNat 128 (leNat (memRead mem a 16)) :: readEntries mem (a + 16) n

/-- Parameters outside Table 6.1, at the places R462 gives them. -/
def collRange (p : CollP) : List (Nat × Bool) :=
  [(8, decide (p.group < 65536)), (10, decide (2 ≤ p.n) && decide (p.n ≤ 4096)), (12, decide (p.rank < p.n)),
   (14, decide (1 ≤ p.channels) && decide (p.channels ≤ 8)), (15, decide (1 ≤ p.algoMask) && decide (p.algoMask < 8)),
   (16, (List.range 8).any fun k => p.segBytes == 8192 * 2 ^ k), (24, decide (p.path < 2)), (25, decide (p.accFmt < 2)),
   (26, decide (p.redSlot < 64)),
   (28, decide (1000 ≤ p.stepTimeout) && decide (p.stepTimeout ≤ 60000000)),
   (32, decide (p.members % 16 = 0)), (40, decide (p.parentV < 2)),
   (42, decide (p.parent < 65536) && (decide (p.parentV = 1) || decide (p.parent = 0)))]

/-- The group that COLL_CREATE would make, with its copy of the member table. -/
def newGroup (s : Dev) (slice : Nat) (p : CollP) : Group where
  slice := slice
  p := p
  members := readEntries s.mem p.members (p.n * p.channels)
  opSeq := 0
  broken := false
  run := none
  moe := none
  waiting := []

/-- Ranks that a permitted algorithm exchanges data with, for some OP and ROOT (R204, log 69). -/
def partners (p : CollP) : List Nat :=
  let at_ := fun (d : Nat) => (p.rank + d) % p.n
  let ring := if p.algoMask.testBit 0 then [at_ 1, at_ (p.n - 1)] else []
  let tree := if p.algoMask.testBit 1 then
      (List.range (p.n - 1)).flatMap fun k =>
        let d := (k + 1) - k / 2
        [at_ d, at_ (p.n - d)]
    else []
  let direct := if p.algoMask.testBit 2 then (List.range p.n).filter fun r => r != p.rank else []
  (ring ++ tree ++ direct).eraseDups

/-- The member entries of a partner name queue pairs of the slice in every channel. -/
def partnerOk (s : Dev) (g : Group) (r : Nat) : Bool :=
  (List.range g.p.channels).all fun c =>
    let m := memberAt g r c
    mbQv m && (getQp s (mbQpn m)).any fun q => q.slice == g.slice

/-- A reserved bit of a member entry (Table 6.2). -/
def memberRsvd (m : BitVec 128) : Bool := decide (fld m 95 82 ≠ 0) || decide (fld m 62 52 ≠ 0) || decide (fld m 31 0 ≠ 0)

/-- The own entries of the table name a live window of the slice that grants RT. -/
def ownWindowOk (s : Dev) (g : Group) : Bool :=
  (List.range g.p.channels).all fun c => (liveWindow s g.slice (mbWkey (memberAt g g.p.rank c))).any fun w => w.rt

/-- A program whose three granularities are equal, with a work region of at least `work` bytes (R199, R218). -/
def reducerOk (s : Dev) (slice slot work : Nat) : Bool :=
  (findProg s slice slot).any fun p => decide (p.inGran = p.outGran) && decide (p.tgtGran = p.outGran) && decide (work ≤ p.workBytes)

/-- Product of the sizes of a group's levels; 0 where more than three levels follow one another (R211). -/
def levelProduct (s : Dev) (slice : Nat) (p : CollP) : Nat → Nat
  | 0 => 0
  | f + 1 =>
    if p.parentV = 0 then p.n
    else
      match tget s.groups p.parent with
      | none => 0
      | some h => if h.slice = slice then p.n * levelProduct s slice h.p f else 0

/-- The first refusal of Table 6.3 and R211 that concerns what the parameters name. -/
def collRefusal (s : Dev) (slice : Nat) (p : CollP) (g : Group) : Option Nat :=
  let size := p.n * p.channels * 16
  let hi := levelProduct s slice p 3
  if !inAllocation s slice p.members size || poisonedAt s p.members size || g.members.any memberRsvd then some 32
  else if !ownWindowOk s g then some 32
  else if p.algoMask.testBit 2 && decide (1024 < p.n) then some 15
  else if !(partners p).all (partnerOk s g) then some 32
  else if p.path = 0 ∧ ((ownWindow s g).map (·.space)) ≠ some 1 then some 24
  else if p.path = 1 ∧ reducerOk s slice p.redSlot 0 = false then some 26
  else if hi = 0 ∨ 262144 < hi then some 42
  else none

def collCreateBody (p : CollP) (h : Cmd) (c : CmdInfo) (s : Dev) : Dev :=
  let g := newGroup s h.slice p
  if (tget s.groups p.group).isSome then refuse c h csBusy s
  else
    match collRefusal s h.slice p g with
    | some o => badParam c h o s
    | none => if quotaFull s h.slice 9 then refuse c h csNoFit s else ok c h (setGroup p.group g s)

def collCreateEffect (h : Cmd) (p : CollP) : Dev → Dev := command 0x0401 h true (firstBad (collRange p)) (collCreateBody p h)

def execCollCreate (h : Cmd) (p : CollP) (s : State) : Res := runLevels (collCreateEffect h p) s

/-! ## COLL_DESTROY, COLL_RESET -/

/-- A command on a group of the slice (R534). -/
def onGroup (gid : Nat) (h : Cmd) (body : CmdInfo → Group → Dev → Dev) (c : CmdInfo) (s : Dev) : Dev :=
  match tget s.groups gid with
  | none => badParam c h 8 s
  | some g => if g.slice ≠ h.slice then refuseOther c h 8 s else body c g s

/-- COLL_DESTROY frees the entry once the current collective has ended; until then it waits (R199). -/
def collDestroyEffect (h : Cmd) (gid : Nat) : Dev → Dev :=
  command 0x0402 h true none (onGroup gid h fun c _ s => waitOn h c.op (.group gid) s)

/-- COLL_DESTROY: a group that runs nothing goes as the command settles. -/
def execCollDestroy (h : Cmd) (group : Nat) (s : State) : Res := runLevels (collDestroyEffect h group) s

/-- COLL_RESET (R210). While a collective runs the group is busy (log 70). -/
def collResetEffect (h : Cmd) (gid : Nat) : Dev → Dev :=
  command 0x0403 h true none (onGroup gid h fun c g s =>
    if g.run.isSome then refuse c h csBusy s else ok c h (setGroup gid { g with opSeq := 0, broken := false } s))

def execCollReset (h : Cmd) (group : Nat) (s : State) : Res := run (collResetEffect h group) s

/-! ## MOE_BIND (R218, R219) -/

/-- The smallest path MTU of the group's queue pairs. -/
def groupMtu (s : Dev) (g : Group) : Nat :=
  g.members.foldl (fun n m => if mbQv m then (match getQp s (mbQpn m) with | some q => Nat.min n (mtuOf q) | none => n) else n) 8192

/-- Parameters outside Table 6.8. -/
def moeRange (p : MoeP) (mtu : Nat) : List (Nat × Bool) :=
  let row := fun (n : Nat) => decide (128 ≤ n) && decide (n ≤ mtu) && decide (n % 128 = 0)
  [(10, decide (1 ≤ p.experts) && decide (p.experts ≤ 4096)), (12, decide (1 ≤ p.k) && decide (p.k ≤ 8)),
   (14, decide (1 ≤ p.localExperts) && decide (p.localExperts ≤ 256)), (16, decide (1 ≤ p.cap) && decide (p.cap ≤ 65536)),
   (20, row p.rowBytes), (22, row p.outRowBytes), (24, decide (p.map % 4 = 0)),
   (32, decide (p.landOffset % 4096 = 0) && decide (p.landOffset < 2 ^ 48)),
   (40, decide (p.outOffset % 128 = 0) && decide (p.outOffset < 2 ^ 48)), (48, decide (p.combSlot < 64))]

/-- Words of 4 bytes that a table in the stacks holds. -/
def readWords (mem : List Host.Cell) (a : Nat) : Nat → List U32
  | 0 => []
  | n + 1 => u32 (leNat (memRead mem a 4)) :: readWords mem (a + 4) n

/-- An expert map entry is valid (R219). -/
def mapOk (g : Group) (p : MoeP) (m : U32) : Bool :=
  decide (mapRank m < g.p.n) && decide (fld m 13 8 = 0) && decide (mapLocal m < p.localExperts)

/-- A binding as MOE_BIND makes it. -/
def newMoe (p : MoeP) (map : List U32) : MoeState := ⟨p, map, 0, false, none, [], 0, 0, []⟩

def moeBindBody (p : MoeP) (h : Cmd) (c : CmdInfo) (g : Group) (s : Dev) : Dev :=
  let map := readWords s.mem p.map p.experts
  match firstBad (moeRange p (groupMtu s g)) with
  | some o => badParam c h o s
  | none =>
    if g.p.channels ≠ 1 ∨ g.p.algoMask.testBit 2 = false then badParam c h 8 s
    else if !inAllocation s h.slice p.map (4 * p.experts) || poisonedAt s p.map (4 * p.experts) || !map.all (mapOk g p) then
      badParam c h 24 s
    else if !reducerOk s h.slice p.combSlot 8 then badParam c h 48 s
    else if groupBusy g then refuse c h csBusy s
    else ok c h (setGroup p.group { g with moe := some (newMoe p map) } s)

/-- MOE_BIND: the ranges first, of the rows up to the largest MTU; the group's own MTU bounds them besides (R218, R469). -/
def moeBindEffect (h : Cmd) (p : MoeP) : Dev → Dev :=
  command 0x0404 h true (firstBad (moeRange p 8192)) (onGroup p.group h (moeBindBody p h))

def execMoeBind (h : Cmd) (p : MoeP) (s : State) : Res := run (moeBindEffect h p) s

/-! ## STAGE_BIND (R229, R406, R407) -/

/-- Parameters outside Table 6.11: those of both roles, then those of a SENDER. -/
def stageRange (p : StageP) : List (Nat × Bool) :=
  let sender := p.role == 0
  [(8, decide (p.stream < 65536)), (10, decide (p.role < 2)), (20, decide (1 ≤ p.slots) && decide (p.slots ≤ 64)),
   (24, decide (4096 ≤ p.slotBytes) && decide (p.slotBytes ≤ 0x40000000) && decide (p.slotBytes % 4096 = 0)),
   (40, !sender || decide (p.landOffset < 2 ^ 48)), (48, !sender || (decide (1 ≤ p.overlap) && decide (p.overlap ≤ 8))),
   (49, !sender || (decide (p.overlap ≤ p.k) && decide (1 ≤ p.k) && decide (p.k ≤ 64))), (56, !sender || decide (p.log % 4096 = 0))]

/-- A stream as STAGE_BIND makes it. -/
def newStream (slice : Nat) (p : StageP) : Stream where
  slice := slice
  sender := p.role == 0
  qpn := some p.qpn
  p := p
  nextSeq := p.firstSeq
  logged := p.firstSeq
  oldest := p.firstSeq
  sizes := []
  unretired := 0
  replay := none

/-- A rebound stream: a SENDER keeps its log and goes on at the first MB_SEQ not logged, toward the new landing window; a RECEIVER
keeps everything (R235, R406, R407). -/
def reboundStream (x : Stream) (p : StageP) : Stream :=
  if x.sender then
    { x with
      qpn := some p.qpn, nextSeq := x.logged, unretired := 0, replay := none
      p := { x.p with qpn := p.qpn, wkey := p.wkey, landOffset := p.landOffset } }
  else { x with qpn := some p.qpn, p := { x.p with qpn := p.qpn } }

/-- The stream takes its queue pair; the one it had is unbound. -/
def bindStream (n : Nat) (x : Stream) (old : Option Nat) (s : Dev) : Dev :=
  let unbind := fun (s : Dev) => match old with
    | some k => modQp k (fun q => { q with stream := none }) s
    | none => s
  let s := { unbind s with streams := tset s.streams n x }
  match x.qpn with
  | some k => modQp k (fun q => { q with stream := some n }) s
  | none => s

def stageBindBody (p : StageP) (h : Cmd) (c : CmdInfo) (s : Dev) : Dev :=
  match getQp s p.qpn, tget s.streams p.stream with
  | none, _ => badParam c h 12 s
  | some q, old =>
    if q.slice ≠ h.slice then refuseOther c h 12 s
    else if old.any fun x => x.slice != h.slice then refuseOther c h 8 s
    else if q.stream.isSome then badParam c h 12 s
    else
      match old with
      | some x =>
        if x.sender ≠ (p.role == 0) then badParam c h 10 s
        else
          let x' := reboundStream x p
          reply c h csOk 0 (if x.sender then x.logged.toNat else 0) (bindStream p.stream x' x.qpn s)
      | none =>
        let log := p.k * p.slotBytes
        if p.role = 0 ∧ quotaLimit s h.slice 3 * 0x200000 < log then refuse c h csNoFit s
        else if p.role = 0 ∧ inAllocation s h.slice p.log log = false then badParam c h 56 s
        else if quotaFull s h.slice 10 then refuse c h csNoFit s
        else ok c h (bindStream p.stream (newStream h.slice p) none s)

def stageBindEffect (h : Cmd) (p : StageP) : Dev → Dev := command 0x0405 h true (firstBad (stageRange p)) (stageBindBody p h)

def execStageBind (h : Cmd) (p : StageP) (s : State) : Res := runLevels (stageBindEffect h p) s

/-! ## STAGE_REPLAY, STAGE_QUERY (R235, R482) -/

/-- A command on a stream of the slice. -/
def onStream (n : Nat) (h : Cmd) (body : CmdInfo → Stream → Dev → Dev) (c : CmdInfo) (s : Dev) : Dev :=
  match tget s.streams n with
  | none => badParam c h 8 s
  | some x => if x.slice ≠ h.slice then refuseOther c h 8 s else body c x s

/-- One logged micro-batch is queued again as a message with its original MB_SEQ and the next RECV_SEQ. -/
def replayOne (n qpn : Nat) (x : Stream) (seq : U32) (s : Dev) : Dev :=
  match getQp s qpn with
  | none => s
  | some q =>
    let len := tgetD x.sizes seq.toNat 0
    let d := encStage x.p.wkey.toNat seq.toNat q.rqr.sendSeq (slotOffset x.p seq)
    let s := modQp qpn (fun q => { q with rqr := { q.rqr with sendSeq := (q.rqr.sendSeq + 1) % 65536 } }) s
    { s with
      freeCtr := s.freeCtr + 1
      seqMsgs := s.seqMsgs ++ [⟨s.freeCtr, qpn, .replay n seq, pkStage, d, [(1, logSlot x.p seq, len)], len, 0, 0⟩] }

/-- STAGE_REPLAY: the micro-batches from FROM on that are logged are sent again in order; the reply waits for the last. -/
def stageReplayBody (n : Nat) (from_ : U32) (h : Cmd) (c : CmdInfo) (x : Stream) (s : Dev) : Dev :=
  match x.sender, x.qpn with
  | true, some qpn =>
    if dist from_ x.oldest > dist x.nextSeq x.oldest then reply c h csBadParam 12 x.oldest.toNat s
    else if seqLe x.logged from_ then ok c h s
    else
      let s := waitOn h c.op (.replay n) { s with streams := tset s.streams n { x with replay := some (from_, x.logged) } }
      (List.range (dist x.logged from_)).foldl (fun s i => replayOne n qpn x (from_ + u32 i) s) s
  | _, _ => badParam c h 8 s

def stageReplayEffect (h : Cmd) (n : Nat) (from_ : U32) : Dev → Dev :=
  command 0x0406 h true none (onStream n h (stageReplayBody n from_ h))

def execStageReplay (h : Cmd) (stream : Nat) (from_ : U32) (s : State) : Res := run (stageReplayEffect h stream from_) s

/-- RESULT of STAGE_QUERY (Table 14.11). -/
def encStreamResult (x : Stream) : Nat := pack
  [(if x.sender then x.logged.toNat else 0, 32), (0, 10), (b2n x.qpn.isSome, 1), (b2n (!x.sender), 1), (x.qpn.getD 0, 20),
   (if x.sender then x.oldest.toNat else 0, 32), (x.nextSeq.toNat, 32)]

def stageQueryEffect (h : Cmd) (n : Nat) : Dev → Dev :=
  command 0x040A h true none (fun c s =>
    match tget s.streams n with
    | none => badParam c h 8 s
    | some x =>
      if x.slice ≠ h.slice then refuseOther c h 8 s
      else reply c h csOk 0 (encStreamResult x) s)

def execStageQuery (h : Cmd) (stream : Nat) (s : State) : Res := run (stageQueryEffect h stream) s

/-! ## Triggers (R236 to R240) -/

def trigRange (p : TrigP) : List (Nat × Bool) :=
  [(8, decide (p.trig < 65536)), (10, decide (p.kind < 2)),
   (28, decide (p.kind = 1) || (decide (1 ≤ p.count) && decide (p.count ≤ 65535)))]

/-- The slice of a trigger's source. -/
def sourceSlice (s : Dev) (p : TrigP) : Option Nat :=
  if p.kind = 0 then (getQp s p.source).map (·.slice) else (tget s.cqs p.source).map (·.slice)

/-- A counter trigger whose THRESHOLD its queue's counter has reached adds its credit at once (R238). -/
def fireNow (n : Nat) (s : Dev) : Dev :=
  match tget s.triggers n with
  | none => s
  | some t =>
    match t.armed && t.p.kind == 1, tget s.cqs t.p.source with
    | true, some c =>
      if dist c.counter t.p.threshold < 2 ^ 31 then
        addCredit t.p.target { s with triggers := tset s.triggers n { t with armed := false } }
      else s
    | _, _ => s

def trigCreateBody (p : TrigP) (h : Cmd) (c : CmdInfo) (s : Dev) : Dev :=
  match sourceSlice s p, (getQp s p.target).map (·.slice) with
  | none, _ => badParam c h 12 s
  | _, none => badParam c h 16 s
  | some a, some b =>
    if a ≠ h.slice ∨ b ≠ h.slice then refuse c h csNotPermitted s
    else if (tget s.triggers p.trig).isSome then refuse c h csBusy s
    else if quotaFull s h.slice 11 then refuse c h csNoFit s
    else
      let t : Trigger := ⟨h.slice, p, 0, p.kind == 1⟩
      ok c h (fireNow p.trig { s with triggers := tset s.triggers p.trig t })

def trigCreateEffect (h : Cmd) (p : TrigP) : Dev → Dev := command 0x0407 h true (firstBad (trigRange p)) (trigCreateBody p h)

/-- TRIG_CREATE: a COUNTER trigger is armed with the THRESHOLD that the command names (log 71). -/
def execTrigCreate (h : Cmd) (p : TrigP) (s : State) : Res := runRetire (trigCreateEffect h p) s

/-- A command on a trigger of the slice. -/
def onTrigger (n : Nat) (h : Cmd) (body : CmdInfo → Trigger → Dev → Dev) (c : CmdInfo) (s : Dev) : Dev :=
  match tget s.triggers n with
  | none => badParam c h 8 s
  | some t => if t.slice ≠ h.slice then refuseOther c h 8 s else body c t s

def trigArmBody (n : Nat) (threshold : U32) (h : Cmd) (c : CmdInfo) (t : Trigger) (s : Dev) : Dev :=
  if t.p.kind ≠ 1 then badParam c h 8 s
  else
    let t' := { t with armed := true, p := { t.p with threshold := threshold } }
    ok c h (fireNow n { s with triggers := tset s.triggers n t' })

def trigArmEffect (h : Cmd) (n : Nat) (threshold : U32) : Dev → Dev :=
  command 0x0408 h true none (onTrigger n h (trigArmBody n threshold h))

def execTrigArm (h : Cmd) (trig : Nat) (threshold : U32) (s : State) : Res := runRetire (trigArmEffect h trig threshold) s

def trigDestroyEffect (h : Cmd) (n : Nat) : Dev → Dev :=
  command 0x0409 h true none (onTrigger n h fun c _ s => ok c h { s with triggers := tdel s.triggers n })

def execTrigDestroy (h : Cmd) (trig : Nat) (s : State) : Res := runLevels (trigDestroyEffect h trig) s

/-! ## The sequencer's turn and STEP_TIMEOUT (R209, R210) -/

/-- A turn of the group's collective; an entry whose input passes the end of the work window fails instead (R200, log 175). -/
def collStep (gid : Nat) (s : Dev) : Dev :=
  match inputPasses s gid with
  | some o => failOwner o.1 (some o) stLocalAccess stLocalAccess s
  | none => collTurn gid s

/-- COLL_STEP_START: the group's collective, or its mixture-of-experts phase, goes on as far as it can. -/
def execCollStepStart (group : Nat) (s : State) : Res := runRetire (fun d => moeTurn group (collStep group d)) s

/-- Moment at which STEP_TIMEOUT of a group's collective ends; while the level above runs it is that level's that counts. -/
def stepDue (s : Dev) (gid : Nat) : Option Nat :=
  match tget s.groups gid with
  | none => none
  | some g =>
    match g.run with
    | none => none
    | some r => if r.phase = 1 ∨ sliceLive s g.slice = false then none else some (r.lastProgress + g.p.stepTimeout * 1000)

/-- STEP_TIMEOUT_EXPIRY. -/
def execStepTimeoutExpiry (group : Nat) (s : State) : Res :=
  runRetire (fun d => atExpiry (stepDue d group) (abortColl group 0 0xFF) d) s

end Sys2Proof.Machine
end

