-- ==== Sys2Proof/Machine/Hist.lean ====
section
/-!
DEFINITION. Sys2Proof/Machine/Hist.lean: histogram monitors (R303 to R305), event queues (R421 to R424), watermarks (R426 to R428)
and the error banks' clears (R420).
-/
namespace Sys2Proof.Machine

/-! ## Monitors -/

/-- The objects of Table 8.5 by KIND, which the manual does not number: 0 send queue, 1 receive queue, 2 completion queue, 3 logical
port and TC, 4 transport pipeline (DESIGN CHOICE, log 72). -/
def monSlice (s : Dev) (kind obj : Nat) : Option Nat :=
  match kind with
  | 0 | 1 => (getQp s obj).map (·.slice)
  | 2 => (tget s.cqs obj).map (·.slice)
  | _ => none

/-- Age of a moment. -/
def ageOf (s : Dev) (t : Option Nat) : Nat := (t.map fun t => s.now - t).getD 0

/-- Moment at which the doorbell or push of a queue's oldest unretired entry was processed. -/
def oldestPosted (w : WorkQueue) : Option Nat :=
  if w.ring.prod = w.ring.cons then none else (w.posted.find? fun x => seqLt w.ring.cons x.1).map (·.2.1)

/-- Depth and head delay of a monitored object now (Table 8.5). -/
def sampleOf (s : Dev) (m : Monitor) : Nat × Nat :=
  match m.kind with
  | 0 => ((getQp s m.object).map fun q => (ringUsed q.sq.ring, ageOf s (oldestPosted q.sq))).getD (0, 0)
  | 1 => ((getQp s m.object).map fun q => (ringUsed q.rq.ring, ageOf s (oldestPosted q.rq))).getD (0, 0)
  | 2 => ((tget s.cqs m.object).map fun c => (ringUsed c.ring + c.hold.length, ageOf s c.writtenAt.head?)).getD (0, 0)
  | 3 =>
    (let l := (getPort s m.object).queue.filter fun e => e.tc == m.tc
     (queueBytes l, ageOf s (l.head?.map (·.since))))
  | _ =>
    (let l := parkedIn s m.object
     (l.length, ageOf s (l.map (·.since)).min?))

/-- The bin of a sampled value (R304). -/
def binOf (log : Bool) (step v : Nat) : Nat :=
  if v = 0 then 0
  else if log then (if v < 2 * step then 1 else Nat.min 31 (Nat.log2 (v / step) + 1))
  else Nat.min 31 (ceilDiv v step)

/-- One more sample in a bin; bins saturate. -/
def addBin (k : Nat) (l : List U32) : List U32 :=
  l.set k (let x := l.getD k 0; if x = BitVec.allOnes 32 then x else x + 1)

/-- A monitor takes a sample. -/
def takeSample (s : Dev) (m : Monitor) : Monitor :=
  let (d, t) := sampleOf s m
  { m with
    depth := addBin (binOf m.log m.step d) m.depth
    delay := addBin (binOf m.log m.step t) m.delay
    peakDepth := Nat.max m.peakDepth d
    peakDelay := Nat.max m.peakDelay t }

/-- The next sampling instant: fabric time at a multiple of 1,000 ns, and no instant of fabric time twice. -/
def nextSample (s : Dev) : Nat :=
  if timeNs s % 1000 = 0 ∧ s.lastSample ≠ some (timeNs s) then s.now else momentOf s ((timeNs s / 1000 + 1) * 1000)

/-- HIST_SAMPLE. -/
def histSample (s : Dev) : Dev :=
  atExpiry (some (nextSample s)) (fun s =>
    { s with monitors := tmap s.monitors fun _ m => takeSample s m, lastSample := some (timeNs s) }) s

def execHistSample (s : State) : Res := run histSample s

/-- A cleared histogram. -/
def emptyBins : List U32 := List.replicate 32 0

/-- HIST_ATTACH: MON at 8, KIND 10, OBJECT 12, TC 16, BIN_MODE 17, STEP 20. -/
def histAttachBody (mon kind object tc binMode step : Nat) (h : Cmd) (c : CmdInfo) (s : Dev) : Dev :=
  let m : Monitor := ⟨none, kind, object, tc, binMode == 1, step, emptyBins, emptyBins, 0, 0⟩
  let busy := (tget s.monitors mon).isSome
  if 3 ≤ kind then
    (if 8 ≤ h.aq then refuse c h csNotPermitted s
     else if (if kind = 3 then 64 else 4) ≤ object then badParam c h 12 s
     else if busy then refuse c h csBusy s
     else ok c h { s with monitors := tset s.monitors mon m })
  else
    match monSlice s kind object with
    | none => badParam c h 12 s
    | some k =>
      if k ≠ h.slice then refuseOther c h 12 s
      else if busy then refuse c h csBusy s
      else if quotaFull s h.slice 12 then refuse c h csNoFit s
      else ok c h { s with monitors := tset s.monitors mon { m with owner := some h.slice } }

def histAttachEffect (h : Cmd) (mon kind object tc binMode step : Nat) : Dev → Dev :=
  command 0x0604 h (decide (kind < 3))
    (firstBad [(8, decide (mon < 4096)), (10, decide (kind < 5)), (16, decide (tc < 8)), (17, decide (binMode < 2)),
      (20, decide (1 ≤ step ∧ step ≤ 1048576))])
    (histAttachBody mon kind object tc binMode step h)

def execHistAttach (h : Cmd) (mon kind object tc binMode step : Nat) (s : State) : Res :=
  runLevels (histAttachEffect h mon kind object tc binMode step) s

/-- A command on an attached monitor; one of the device is not a slice's (R303, R534). -/
def onMonitor (mon : Nat) (h : Cmd) (body : CmdInfo → Monitor → Dev → Dev) (c : CmdInfo) (s : Dev) : Dev :=
  match tget s.monitors mon with
  | none => badParam c h 8 s
  | some m =>
    match m.owner with
    | none => if 8 ≤ h.aq then refuse c h csNotPermitted s else body c m s
    | some k => if k ≠ h.slice then refuseOther c h 8 s else body c m s

/-- HIST_DETACH. -/
def histDetachEffect (h : Cmd) (mon : Nat) : Dev → Dev :=
  command 0x0605 h false (firstBad [(8, decide (mon < 4096))])
    (onMonitor mon h fun c m s =>
      if m.owner.isSome && sliceGoing s h.slice then refuse c h csBusy s
      else ok c h { s with monitors := tdel s.monitors mon })

def execHistDetach (h : Cmd) (mon : Nat) (s : State) : Res := runLevels (histDetachEffect h mon) s

/-- HIST_READ: the bins and peaks leave as they stand; RESULT has no room for them and what it holds is not stated, so it is a free
value (log 73). -/
def histReadBody (mon clear : Nat) (h : Cmd) (c : CmdInfo) (m : Monitor) (s : Dev) : Dev :=
  let s := emit (.histogram mon m.depth m.delay m.peakDepth m.peakDelay) s
  let cleared := { m with depth := emptyBins, delay := emptyBins, peakDepth := 0, peakDelay := 0 }
  let s := if clear = 1 then { s with monitors := tset s.monitors mon cleared } else s
  let (v, s) := freshValue s
  reply c h csOk 0 v s

def histReadEffect (h : Cmd) (mon clear : Nat) : Dev → Dev :=
  command 0x0606 h false (firstBad [(8, decide (mon < 4096)), (10, decide (clear < 2))]) (onMonitor mon h (histReadBody mon clear h))

def execHistRead (h : Cmd) (mon clear : Nat) (s : State) : Res := run (histReadEffect h mon clear) s

/-! ## Event queues (R421, R424, R533, R535) -/

/-- The queue is one that the command's admin queue may name: the device's from a device queue, a slice's also from its own. -/
def evqAllowed (h : Cmd) (q : Nat) : Bool := if q = 0 then decide (h.aq < 8) else decide (q = h.slice + 1)

/-- EVQ_CREATE. -/
def evqCreateBody (q : Nat) (p : RingP) (vector : Nat) (h : Cmd) (c : CmdInfo) (s : Dev) : Dev :=
  let x := getEvq s q
  if !evqAllowed h q then refuseOther c h 8 s
  else if x.en then refuse c h csBusy s
  else if q = 0 ∧ p.space ≠ 0 then badParam c h 10 s
  else
    let st := if q = 0 then (if ringAligned p.base p.lg 32 then csOk else csBadParam) else ringStatus s (q - 1) p.space p.base p.lg 32
    if st ≠ csOk then refuseRing c h st 16 s
    else ok c h (pumpEvents q (setEvq q { x with en := true, ring := newRing p.space p.base p.lg p.index, vector := vector, armed := false } s))

def evqCreateEffect (h : Cmd) (q : Nat) (p : RingP) (vector : Nat) : Dev → Dev :=
  command 0x0901 h (decide (q ≠ 0))
    (firstBad [(8, decide (q ≤ 512)), (10, spaceOk p.space), (24, decide (6 ≤ p.lg ∧ p.lg ≤ 16)), (32, decide (vector < 2048))])
    (evqCreateBody q p vector h)

def execEvqCreate (h : Cmd) (queue : Nat) (ring : RingP) (vector : Nat) (s : State) : Res :=
  runLevels (evqCreateEffect h queue ring vector) s

/-- ARM: the queue is armed, and signals at once where a record stands at or after its consumer index (R424). -/
def armEvq (q : Nat) (s : Dev) : Dev :=
  let x := getEvq s q
  if x.ring.cons = x.ring.prod then setEvq q { x with armed := true } s
  else signal x.vector (setEvq q { x with armed := false } s)

/-- EVQ_ACK. -/
def evqAckBody (q : Nat) (cons : U32) (arm : Nat) (h : Cmd) (c : CmdInfo) (s : Dev) : Dev :=
  let x := getEvq s q
  let go := fun (ignored : Nat) (s : Dev) => reply c h csOk 0 ignored (if arm = 1 then armEvq q s else s)
  if !evqAllowed h q then refuseOther c h 8 s
  else if !x.en then badParam c h 8 s
  else
    match checkIndex cons x.ring.cons x.ring.cons (dist x.ring.prod x.ring.cons) with
    | .same => go 0 s
    | .stale => go 1 s
    | .tooFar => badParam c h 12 s
    | .forward => go 0 (pumpEvents q (compareMarks (setEvq q { x with ring := { x.ring with cons := cons } } s)))

def evqAckEffect (h : Cmd) (q : Nat) (cons : U32) (arm : Nat) : Dev → Dev :=
  command 0x0902 h (decide (q ≠ 0)) (firstBad [(8, decide (q ≤ 512)), (16, decide (arm < 2))]) (evqAckBody q cons arm h)

def execEvqAck (h : Cmd) (queue : Nat) (cons : U32) (arm : Nat) (s : State) : Res := runLevels (evqAckEffect h queue cons arm) s

/-! ## Watermarks (R426 to R428) -/

/-- Entries of the watermark table. -/
def markCount : Nat := 17408

/-- The entry is one that the command may name: a slice's own, or a device entry from a device queue. -/
def markAllowed (h : Cmd) (e : Nat) : Bool := if e < 16384 then decide (e / 32 = h.slice) else decide (h.aq < 8)

/-- The slice of a watched object, and whether the object exists. -/
def markObject (s : Dev) (kind obj : Nat) : Option (Option Nat) :=
  match kind with
  | 0 | 1 => (getQp s obj).map fun q => some q.slice
  | 2 => (tget s.cqs obj).map fun c => some c.slice
  | 3 => if (getEvq s obj).en then some (if obj = 0 then none else some (obj - 1)) else none
  | 4 => if obj < 512 ∧ (getSlice s obj).faultQ.isSome = true then some (some obj) else none
  | 5 => if obj < 64 then some none else none
  | 6 => if obj < 4 then some none else none
  | 7 => if obj < 512 ∧ (getSlice s obj).st ≠ .free then some (some obj) else none
  | 8 => if obj < 8 ∨ obj = 15 then some none else none
  | 9 => some none
  | _ => none

/-- Kinds for device entries only. -/
def deviceKind (kind : Nat) : Bool := kind == 5 || kind == 6 || kind == 8 || kind == 9

/-- WM_SET: ENTRY at 8, KIND 10, OBJECT 12, LEVEL 16. Arming takes the level as it stands. -/
def wmSetBody (e kind object level : Nat) (h : Cmd) (c : CmdInfo) (s : Dev) : Dev :=
  if !markAllowed h e then refuseOther c h 8 s
  else if e < 16384 ∧ deviceKind kind = true then badParam c h 10 s
  else
    match markObject s kind object with
    | none => badParam c h 12 s
    | some k =>
      if e < 16384 ∧ k ≠ some h.slice then refuseOther c h 12 s
      else
        let l := wmLevel s kind object
        ok c h { s with watermarks := tset s.watermarks e ⟨level, l, 0, true, false, kind, object, l⟩ }

def wmSetEffect (h : Cmd) (e kind object level : Nat) : Dev → Dev :=
  command 0x0903 h (decide (e < 16384))
    (firstBad [(8, decide (e < markCount)), (10, decide (kind < 10)), (12, decide (object < 2 ^ 20)), (16, decide (level < 2 ^ 32))])
    (wmSetBody e kind object level h)

def execWmSet (h : Cmd) (entry kind object level : Nat) (s : State) : Res := run (wmSetEffect h entry kind object level) s

/-- A watermark that has not been set, and one that is. -/
def markOf (s : Dev) (e : Nat) : Watermark := tgetD s.watermarks e ⟨0, 0, 0, false, false, 0, 0, 0⟩

/-- The status of Table 12.14. -/
def markStatus (w : Watermark) : Nat :=
  pack [(0, 20), (w.object, 20), (w.kind, 4), (0, 2), (b2n w.latched, 1), (b2n w.armed, 1), (w.count, 16), (w.peak, 32), (w.level, 32)]

/-- WM_READ. -/
def wmReadEffect (h : Cmd) (e : Nat) : Dev → Dev :=
  command 0x0904 h (decide (e < 16384)) (firstBad [(8, decide (e < markCount))]) fun c s =>
    if !markAllowed h e then refuseOther c h 8 s else reply c h csOk 0 (markStatus (markOf s e)) s

def execWmRead (h : Cmd) (entry : Nat) (s : State) : Res := run (wmReadEffect h entry) s

/-- WM_ACK: cleared, armed at the level now, and a crossing at once where that is at or above the mark. -/
def wmAckBody (e : Nat) (h : Cmd) (c : CmdInfo) (s : Dev) : Dev :=
  match tget s.watermarks e with
  | none => badParam c h 8 s
  | some w =>
    let l := wmLevel s w.kind w.object
    let w' := { w with latched := false, count := 0, peak := l, armed := true, last := l }
    if l < w.level then ok c h { s with watermarks := tset s.watermarks e w' }
    else
      let s := { s with watermarks := tset s.watermarks e { w' with latched := true, count := 1 } }
      ok c h (raise ⟨0x70, 0, wmSlice e, bankCore, e, l, w.level, (wmSlice e).isNone⟩ s)

def wmAckEffect (h : Cmd) (e : Nat) : Dev → Dev :=
  command 0x0905 h (decide (e < 16384)) (firstBad [(8, decide (e < markCount))]) fun c s =>
    if !markAllowed h e then refuseOther c h 8 s else wmAckBody e h c s

def execWmAck (h : Cmd) (entry : Nat) (s : State) : Res := run (wmAckEffect h entry) s

/-- WM_CLEAR. -/
def wmClearEffect (h : Cmd) (e : Nat) : Dev → Dev :=
  command 0x0906 h (decide (e < 16384)) (firstBad [(8, decide (e < markCount))]) fun c s =>
    if !markAllowed h e then refuseOther c h 8 s else ok c h { s with watermarks := tdel s.watermarks e }

def execWmClear (h : Cmd) (entry : Nat) (s : State) : Res := run (wmClearEffect h entry) s

/-! ## Error banks (R420) -/

/-- ERR_FIRST_CLEAR: the first error and its logs are clear, ERR_NEXT stays. -/
def errFirstClear (k : Nat) (s : Dev) : Dev :=
  let b := tgetD s.errBanks k ErrBank.reset
  let b' : ErrBank := { ErrBank.reset with
    nextV := b.nextV, nextSeverity := b.nextSeverity, nextCount := b.nextCount }
  { s with errBanks := tset s.errBanks k b' }

def execErrFirstClear (bank : Nat) (s : State) : Res := run (fun d => if bank < 82 then errFirstClear bank d else d) s

/-- ERR_NEXT_CLEAR: V, SEVERITY and COUNT are clear. -/
def errNextClear (k : Nat) (s : Dev) : Dev :=
  let b := tgetD s.errBanks k ErrBank.reset
  { s with errBanks := tset s.errBanks k { b with nextV := false, nextSeverity := 0, nextCount := 0 } }

def execErrNextClear (bank : Nat) (s : State) : Res := run (fun d => if bank < 82 then errNextClear bank d else d) s

end Sys2Proof.Machine
end

