-- ==== Sys2Proof/Machine/Slice.lean ====
section
/-!
DEFINITION. Sys2Proof/Machine/Slice.lean: the slice commands (R326 to R336), slice reset and removal (R338 to R346, R464)
and the zeroing of removed extents.
-/
namespace Sys2Proof.Machine

/-! ## Quotas (R329, R332 to R335, R463) -/

/-- Usage of a quota by the other slices as the device total counts it: the larger of LIMIT and USED (R333). -/
def othersHold (s : Dev) (k q : Nat) : Nat :=
  s.slices.foldl (fun n p => if p.1 = k then n else n + Nat.max (quotaLimit s p.1 q) (quotaUsed s p.1 q)) 0

/-- A LIMIT for a slice keeps the device total of its quota. -/
def totalHolds (s : Dev) (k q v : Nat) : Bool :=
  decide (othersHold s k q + Nat.max v (quotaUsed s k q) ≤ quotaTotals.getD q 0)

/-- Live objects of a quota: USED without what is being removed. -/
def quotaLive (s : Dev) (k q : Nat) : Nat :=
  let live := s.programs.filter fun p => p.slice == k && !p.dead
  match q with
  | 2 => s.windows.countP fun p => p.2.owner == k && p.2.v
  | 3 => extentBytes (getSlice s k).extents / 0x200000
  | 4 => live.foldl (fun n p => n + p.minShare) 0
  | 6 => ceilDiv (live.foldl (fun n p => n + p.auxBytes) 0) 1024
  | 9 => s.groups.countP fun p => p.2.slice == k && !(s.waits.any fun w => w.2.2 == .group p.1)
  | _ => quotaUsed s k q

/-- The LIMITs are thirteen and in range. What the 24 reserved bytes of the block hold is not looked at: R7 gives outcomes for work entries
and command packets only (log 169). -/
def limitsOk (l : List Nat) : Bool :=
  decide (l.length = 13) && (List.range 13).all fun q => decide (l.getD q 0 ≤ quotaMax.getD q 0)

/-! ## SLICE_CREATE (R329) -/

/-- A route set that is valid (R263). -/
def setValid (s : Dev) (n : Nat) : Bool := rsV (tgetD s.routing.routeSets n 0)

/-- Ranges of SLICE_CREATE: PASID at 8, ACC_MASK 12, CLASS_MASK 13, ROUTE_SET 14, BW_WEIGHT 16, LAT_CRIT 18, CC_HA 19, XLT_HA 20,
KEY_HA 21, RED_HA 22, the quota block's address 24. -/
def sliceCreateBad (p : SliceCreateP) : Option Nat :=
  firstBad [(8, decide (p.pasid < 2 ^ 20)), (12, decide (p.accMask < 256)), (13, decide (0 < p.classMask ∧ p.classMask < 256)),
    (14, decide (p.routeSet < 64)), (16, decide (0 < p.bwWeight ∧ p.bwWeight < 4096)), (18, decide (p.latCrit < 2)),
    (19, decide (p.ccHa < 2)), (20, decide (p.xltHa < 2)), (21, decide (p.keyHa < 2)), (22, decide (p.redHa < 2)),
    (24, !blockBad p.block && limitsOk p.limits)]

/-- The slice that SLICE_CREATE makes: what it does not name has its reset value, RESET_COUNT is kept. -/
def newSlice (p : SliceCreateP) (now : Nat) (old : Slice) : Slice :=
  { Slice.free with
    st := .live
    latCrit := p.latCrit == 1
    ccHa := p.ccHa == 1
    xltHa := p.xltHa == 1
    keyHa := p.keyHa == 1
    redHa := p.redHa == 1
    pasid := p.pasid
    resetCount := old.resetCount
    accMask := BitVec.ofNat 8 p.accMask
    classMask := BitVec.ofNat 8 p.classMask
    routeSet := p.routeSet
    bwWeight := p.bwWeight
    limits := p.limits
    kek := old.kek
    fbSince := now }

def sliceCreateBody (p : SliceCreateP) (h : Cmd) (c : CmdInfo) (s : Dev) : Dev :=
  let k := h.slice
  if (getSlice s k).st ≠ .free then refuse c h csBusy s
  else if !setValid s p.routeSet then badParam c h 14 s
  else if p.latCrit = 0 ∧ 0 < p.limits.getD 7 0 then badParam c h 24 s
  else if !((List.range 13).all fun q => totalHolds s k q (p.limits.getD q 0)) then refuse c h csNoFit s
  else replyPinned (pinnedObjs s) c h 0 (setSlice k (newSlice p s.now (getSlice s k)) s)

def sliceCreateEffect (h : Cmd) (p : SliceCreateP) (s : Dev) : Dev :=
  command 0x0701 h false (sliceCreateBad p) (sliceCreateBody p h) (readBlock 0x0701 h p.block s)

def execSliceCreate (h : Cmd) (p : SliceCreateP) (s : State) : Res := runLevels (sliceCreateEffect h p) s

/-! ## SLICE_MODIFY (R328, Table 9.11) -/

/-- Ranges of the selected fields, by their byte offset in the packet. -/
def sliceModifyBad (p : SliceModifyP) : Option Nat :=
  let on := fun (i v lo hi : Nat) => !p.mask.getLsbD i || (decide (lo ≤ v) && decide (v ≤ hi))
  firstBad [(14, decide (p.mask &&& 0xF001 = 0)), (19, on 7 p.authFailLimit 1 255), (20, on 5 p.feedbackInterval 1000 1000000),
    (24, on 4 p.ratePoll 1000 1000000), (28, on 2 p.pageWaitBase 1000 1000000), (32, on 1 p.faultTimeout 100 10000000),
    (36, on 3 p.pageWaitLimit 1000 60000000), (40, on 6 p.keyWait 100 10000000)]

/-- The selected fields applied. Translation and reduction switch later (Table 1.5); times are kept in ns. -/
def applySlice (p : SliceModifyP) (now : Nat) (x : Slice) : Slice :=
  let on := fun (i : Nat) => p.mask.getLsbD i
  { x with
    faultTimeout := if on 1 then p.faultTimeout * 1000 else x.faultTimeout
    pageWaitBase := if on 2 then p.pageWaitBase else x.pageWaitBase
    pageWaitLimit := if on 3 then p.pageWaitLimit * 1000 else x.pageWaitLimit
    ratePoll := if on 4 then p.ratePoll else x.ratePoll
    feedbackInterval := if on 5 then p.feedbackInterval else x.feedbackInterval
    keyWait := if on 6 then p.keyWait * 1000 else x.keyWait
    authFailLimit := if on 7 then p.authFailLimit else x.authFailLimit
    fbSince := if on 8 && p.ccHa && !x.ccHa then now else x.fbSince
    ccHa := if on 8 then p.ccHa else x.ccHa
    xltHaNext := if !on 9 then x.xltHaNext else if p.xltHa = x.xltHa then none else some (p.xltHa, x.epoch, false)
    keyHa := if on 10 then p.keyHa else x.keyHa
    redHaNext := if !on 11 then x.redHaNext else if p.redHa = x.redHa then none else some p.redHa }

/-- The refusals of R328 in the order of its table: NOT_PERMITTED stands before BUSY. -/
def sliceModifyBody (p : SliceModifyP) (h : Cmd) (c : CmdInfo) (s : Dev) : Dev :=
  if (getSlice s h.slice).st = .free then badParam c h 6 s
  else if p.mask.getLsbD 9 && p.xltHa && !s.pasidEn then refuse c h csNotPermitted s
  else if sliceGoing s h.slice then refuse c h csBusy s
  else ok c h (switchReduction h.slice (modSlice h.slice (applySlice p s.now) s))

def sliceModifyEffect (h : Cmd) (p : SliceModifyP) : Dev → Dev := command 0x0702 h false (sliceModifyBad p) (sliceModifyBody p h)

def execSliceModify (h : Cmd) (p : SliceModifyP) (s : State) : Res := run (sliceModifyEffect h p) s

/-! ## SLICE_QUOTA (R335, R463) -/

/-- The new LIMIT of a quota: none leaves it as it is. -/
def newLimit (s : Dev) (k : Nat) (l : List (Option Nat)) (q : Nat) : Nat := ((l[q]?).getD none).getD (quotaLimit s k q)

def sliceQuotaBad (l : List (Option Nat)) (b : QuotaRead) : Option Nat :=
  firstBad [(8, !blockBad b && limitsOk (l.map fun v => v.getD 0))]

/-- A growth beyond a device total, or a shrink below the live objects. -/
def quotaRefused (s : Dev) (k q v : Nat) : Bool :=
  let old := quotaLimit s k q
  (decide (old < v) && !totalHolds s k q v) || (decide (v < old) && decide (q ≠ 5) && decide (v < quotaLive s k q))

def sliceQuotaBody (l : List (Option Nat)) (h : Cmd) (c : CmdInfo) (s : Dev) : Dev :=
  let k := h.slice
  let new := (List.range 13).map (newLimit s k l)
  if (getSlice s k).latCrit = false ∧ 0 < ((l[7]?).getD none).getD 0 then badParam c h 8 s
  else if (List.range 13).any fun q => quotaRefused s k q (new.getD q 0) then refuse c h csNoFit s
  else
    let pend := (List.range 13).map fun q => decide (new.getD q 0 < quotaUsed s k q)
    ok c h (modSlice k (fun x => { x with limits := new, pend := pend }) s)

def sliceQuotaEffect (h : Cmd) (l : List (Option Nat)) (b : QuotaRead) (s : Dev) : Dev :=
  command 0x0703 h true (sliceQuotaBad l b) (sliceQuotaBody l h) (readBlock 0x0703 h b s)

def execSliceQuota (h : Cmd) (limits : List (Option Nat)) (block : QuotaRead) (s : State) : Res :=
  runLevels (sliceQuotaEffect h limits block) s

/-! ## SLICE_BIND (R336) -/

/-- Rings of a slice other than its work rings: space, base and bytes. -/
def recordRings (s : Dev) (k : Nat) : List (Nat × Nat × Nat) :=
  let ring := fun (n : Nat) (r : Ring) => (r.space, r.base, 2 ^ r.lg * n)
  let x := getSlice s k
  let e := getEvq s (k + 1)
  let a := getAq s (8 + k)
  (s.cqs.flatMap fun p => if p.2.slice = k then [ring 32 p.2.ring] else [])
    ++ (x.faultQ.toList.map (ring 32)) ++ (x.feedbackQ.toList.map (ring 32))
    ++ (if e.en then [ring 32 e.ring] else [])
    ++ (if a.en then [(a.space, a.cbase, 2 ^ a.lg * 64), (a.space, a.rbase, 2 ^ a.lg * 32)] else [])

/-- Work rings of a slice: space, base and bytes. Their addresses are translated (R118). -/
def workRings (s : Dev) (k : Nat) : List (Nat × Nat × Nat) :=
  let ring := fun (r : Ring) => (r.space, r.base, 2 ^ r.lg * 64)
  s.qps.flatMap fun p => if p.2.slice = k then [ring p.2.sq.ring, ring p.2.rq.ring] else []

/-- A ring, queue, window or table root of the slice lies in the space. -/
def spaceUsed (s : Dev) (k sp : Nat) : Bool :=
  ((workRings s k ++ recordRings s k).any fun r => r.1 == sp)
    || (s.windows.any fun p => p.2.owner == k && (p.2.v || p.2.closing) && p.2.space == sp)
    || (tget s.xlt.roots (k * 16 + sp)).isSome

/-- Ranges of the selected fields (Table 14.12). -/
def sliceBindBad (p : SliceBindP) : Option Nat :=
  let on := fun (i : Nat) (ok : Bool) => !p.mask.getLsbD i || ok
  firstBad [(8, decide (p.mask &&& 0xE0 = 0)), (9, on 0 (decide (p.accMask < 256))),
    (10, on 1 (decide (p.classMask < 256))), (11, on 2 (decide (p.routeSet < 64))),
    (12, on 3 (decide (0 < p.bwWeight ∧ p.bwWeight < 4096))), (14, on 4 (decide (p.latCrit < 2)))]

/-- The selected fields applied. -/
def applyBind (p : SliceBindP) (x : Slice) : Slice :=
  let on := fun (i : Nat) => p.mask.getLsbD i
  { x with
    accMask := if on 0 then BitVec.ofNat 8 p.accMask else x.accMask
    classMask := if on 1 then BitVec.ofNat 8 p.classMask else x.classMask
    routeSet := if on 2 then p.routeSet else x.routeSet
    bwWeight := if on 3 then p.bwWeight else x.bwWeight
    latCrit := if on 4 then p.latCrit == 1 else x.latCrit }

/-- Ports that the change takes from the slice. -/
def portsLost (p : SliceBindP) (x : Slice) : List Nat :=
  if p.mask.getLsbD 0 then (List.range 8).filter fun a => x.accMask.getLsbD a && !p.accMask.testBit a else []

def sliceBindBody (p : SliceBindP) (h : Cmd) (c : CmdInfo) (s : Dev) : Dev :=
  let k := h.slice
  let x := getSlice s k
  if p.mask.getLsbD 2 && !setValid s p.routeSet then badParam c h 11 s
  else if p.mask.getLsbD 1 && s.qps.any (fun q => q.2.slice == k && !p.classMask.testBit q.2.p.tc) then refuse c h csNotPermitted s
  else if (portsLost p x).any fun a => spaceUsed s k (2 + a) then refuse c h csBusy s
  else if p.mask.getLsbD 4 && decide (p.latCrit = 0) && s.qps.any (fun q => q.2.slice == k && q.2.pinned) then refuse c h csBusy s
  else replyPinned (pinnedObjs s) c h 0 (modSlice k (applyBind p) s)

def sliceBindEffect (h : Cmd) (p : SliceBindP) : Dev → Dev := command 0x0704 h true (sliceBindBad p) (sliceBindBody p h)

def execSliceBind (h : Cmd) (p : SliceBindP) (s : State) : Res := runLevels (sliceBindEffect h p) s

/-! ## Extents (R331, R390) -/

/-- End of the last whole extent (R390). -/
def extentsEnd : Nat := 68664 * 0x200000

/-- Whole, non-empty extents below that end. -/
def extentBad (base length : Nat) : Option Nat :=
  firstBad [(8, decide (base % 0x200000 = 0 ∧ base < extentsEnd)),
    (16, decide (length % 0x200000 = 0 ∧ 0 < length ∧ base + length ≤ extentsEnd))]

/-- Two ranges of bytes overlap. -/
def meets (a n : Nat) (e : Nat × Nat) : Bool := overlaps a n e.1 e.2

/-- The extent overlaps one of another slice, the backing store, or one that is being zeroed. -/
def extentTaken (s : Dev) (k base length : Nat) : Bool :=
  decide (base < backingEnd) || s.zeroing.any (meets base length)
    || s.slices.any fun p => p.1 != k && (p.2.extents.any (meets base length) || p.2.removing.any (meets base length))

def smemAddBody (base length : Nat) (h : Cmd) (c : CmdInfo) (s : Dev) : Dev :=
  let k := h.slice
  let x := getSlice s k
  if extentTaken s k base length then refuse c h csNotPermitted s
  else if 64 ≤ x.extents.length + x.removing.length then refuse c h csNoFit s
  else if quotaLimit s k 3 < quotaUsed s k 3 + length / 0x200000 then refuse c h csNoFit s
  else ok c h (setSlice k { x with extents := x.extents ++ [(base, length)] } s)

def smemAddEffect (h : Cmd) (base length : Nat) : Dev → Dev :=
  command 0x0705 h true (extentBad base length) (smemAddBody base length h)

def execSliceSmemAdd (h : Cmd) (base length : Nat) (s : State) : Res := runLevels (smemAddEffect h base length) s

/-- The frames of Millefeuille to which the pages of a work ring translate. -/
def ringFrames (s : Dev) (k base bytes : Nat) : List (Nat × Nat) :=
  (List.range (ceilDiv (base % 4096 + bytes) 4096)).filterMap fun i =>
    match walk s k 1 (base / 4096 + i) 0 with
    | .leaf pfn _ _ _ _ => some (pfn * 4096, 4096)
    | .fault _ => none

/-- Ranges of Millefeuille that the slice's objects occupy by address: rings, logs, root pages. -/
def placedIn (s : Dev) (k : Nat) : List (Nat × Nat) :=
  let mine := fun (l : List (Nat × Nat × Nat)) => l.filterMap fun r => if r.1 = 1 then some r.2 else none
  mine (recordRings s k) ++ ((mine (workRings s k)).flatMap fun r => ringFrames s k r.1 r.2)
    ++ (s.streams.filterMap fun p => if p.2.slice = k ∧ p.2.sender = true then some (p.2.p.log, p.2.p.k * p.2.p.slotBytes) else none)
    ++ s.xlt.roots.filterMap fun p => if p.1 / 16 = k then some (p.2, 4096) else none

/-- SLICE_SMEM_REMOVE completes as an invalidation of space 0x1; the extent counts in USED until then. -/
def smemRemoveBody (base length : Nat) (h : Cmd) (c : CmdInfo) (s : Dev) : Dev :=
  let k := h.slice
  let x := getSlice s k
  if !x.extents.contains (base, length) then badParam c h 8 s
  else if (placedIn s k).any (meets base length) then refuse c h csNoFit s
  else
    withdraw c h 1 0 allPages
      (modSlice k fun x => { x with extents := x.extents.erase (base, length), removing := x.removing ++ [(base, length)] })
      (fun e t => .extent k e t base length) (dropExtent k base length) s

def smemRemoveEffect (h : Cmd) (base length : Nat) : Dev → Dev :=
  command 0x0706 h true (extentBad base length) (smemRemoveBody base length h)

def execSliceSmemRemove (h : Cmd) (base length : Nat) (s : State) : Res := runLevels (smemRemoveEffect h base length) s

/-! ## SLICE_RESET and SLICE_DESTROY (R338, R343, R464) -/

/-- A reset of the slice has been ordered. -/
def resetOrdered (s : Dev) (k : Nat) : Bool :=
  s.waits.any fun w => match w.2.2 with
    | .sliceReset j _ _ => j == k
    | .sliceDestroy j _ _ => j == k
    | _ => false

/-- The slice notes the commands that execute for it beside the one that orders its reset. -/
def noteExecuting (h : Cmd) (s : Dev) : Dev :=
  modSlice h.slice (fun x => { x with finishing := (executing s h.slice).filter fun c => c != (h.aq, h.index) }) s

/-- The reset is ordered: it begins when the slice's executing commands have ended (R344). REPORT stands at 8. -/
def sliceResetEffect (h : Cmd) (report : Nat) : Dev → Dev :=
  command 0x0707 h true (firstBad [(8, decide (report % 64 = 0))]) fun c s =>
    if resetOrdered s h.slice then refuse c h csBusy s else waitOn h c.op (.sliceReset h.slice report none) (noteExecuting h s)

def execSliceReset (h : Cmd) (report : Nat) (s : State) : Res := runLevels (sliceResetEffect h report) s

def sliceDestroyEffect (h : Cmd) (report : Nat) : Dev → Dev :=
  command 0x0708 h true (firstBad [(8, decide (report % 64 = 0))]) fun c s =>
    if resetOrdered s h.slice then refuse c h csBusy s else waitOn h c.op (.sliceDestroy h.slice report none) (noteExecuting h s)

def execSliceDestroy (h : Cmd) (report : Nat) (s : State) : Res := runLevels (sliceDestroyEffect h report) s

/-! ## Step 3: drain (R340) -/

/-- A write of the slice, of payload or of a record, that has not been issued. -/
def sliceWrite (k : Nat) (w : LoggedWrite) : Bool := w.slice == k

/-- Reads of a queue pair's rings that have not returned. -/
def ringReads (q : Qp) : Nat := b2n q.sq.reading.isSome + b2n q.rq.reading.isSome

/-- The memory accesses of a slice that its reset still waits for: writes, reads of payload, reads of work entries. -/
def sliceTraffic (s : Dev) (k : Nat) : Nat :=
  let n := fun (p : IoPort) => p.queued.countP (sliceWrite k)
  n s.host + s.accs.foldl (fun m p => m + n p.2) 0 + (allReads s).countP (fun r => useSlice s r.use == some k)
    + (s.staleReads.countP fun r => r.slice == k)
    + s.qps.foldl (fun m p => if p.2.slice = k then m + ringReads p.2 else m) 0

/-- What has not been issued or has not returned is abandoned, and what held a translation for it has ended. -/
def abandonTraffic (k : Nat) (s : Dev) : Dev :=
  let mine := fun (p : IoPort) => p.queued.filter (sliceWrite k)
  let gone := mine s.host ++ s.accs.flatMap fun p => mine p.2
  let reads := (allReads s).filter fun r => useSlice s r.use == some k
  let cut := fun (p : IoPort) => { p with queued := p.queued.filter fun w => !sliceWrite k w }
  let s := keepReads (fun r => !(useSlice s r.use == some k)) s
  endHolders ((gone.filterMap fun w => w.token) ++ reads.flatMap fun r => r.tokens) { s with
    staleReads := s.staleReads.filter fun r => !(r.slice == k)
    qps := tmap s.qps fun _ q =>
      if q.slice = k then { q with sq := { q.sq with reading := none }, rq := { q.rq with reading := none } } else q
    host := cut s.host
    accs := tmap s.accs fun _ p => cut p }

/-- Accumulates that a stack has accepted complete. -/
def commitSlice (k : Nat) (s : Dev) : Dev :=
  let mine := fun (a : Accum) => (getQp s a.qpn).any fun q => q.slice == k
  let l := s.accums.filter mine
  (l.map fun a => (a.qpn, a.psn)).eraseDups.foldl (fun s x => commitPieces k (l.filter fun a => a.qpn == x.1 && a.psn == x.2) s)
    { s with accums := s.accums.filter fun a => !mine a }

/-- The commands that wait on holders of the slice end with step 3 (R344). -/
def holdersEnd (k : Nat) (s : Dev) : Dev :=
  let closing := s.windows.filterMap fun p => if p.2.owner = k ∧ p.2.closing = true then some p.1 else none
  closing.foldl (fun s i => holdersDone k (some i) s) (holdersDone k none s)

/-- The drain has ended: with everything done, or at its bound of 50 µs with the rest abandoned, which SLICE_DMA_ABANDONED tells. -/
def drainSlice (k since : Nat) (s : Dev) : Nat × Dev :=
  let n := sliceTraffic s k
  let s := if n = 0 then s else advanceTo (since + 50000) s
  let s := holdersEnd k (dropLocks (abandonTraffic k (commitSlice k s)))
  (n, if n = 0 then s else sliceEvent k 0xB 2 bankCore n 0 0 s)

/-! ## Step 4: account (R341) -/

/-- The oldest unretired entry of a queue completes. -/
def accountEntry (fault : Option (Nat × Bool × U32)) (qpn : Nat) (rq : Bool) (s : Dev) : Dev :=
  match getQp s qpn with
  | none => s
  | some q =>
    let w := wq q rq
    let i := w.ring.cons
    let bad := fault == some (qpn, rq, i)
    let (p, s) := deliver (cqOf q rq) (flushCompletion s qpn q rq i (if bad then stMalformed else stFlushed)) true s
    let s := modWq qpn rq (fun w => { w with ring := { w.ring with cons := i + 1 } }) s
    modSlice q.slice (fun x =>
      let c := x.counts
      { x with counts :=
          if bad then { c with malformed := c.malformed + 1 }
          else match p with
            | .written => { c with written := c.written + 1 }
            | .held => { c with held := c.held + 1 }
            | _ => { c with discarded := c.discarded + 1 } }) s

/-- A queue's entries complete in ring order. -/
def accountQueue (fault : Option (Nat × Bool × U32)) (qpn : Nat) (rq : Bool) (s : Dev) : Dev :=
  times (((getQp s qpn).map fun q => ringUsed (wq q rq).ring).getD 0) (accountEntry fault qpn rq) s

/-- Streams count the entries that have ended, and a failure whose flush had not ended is told (R73). -/
def accountQp (k qpn : Nat) (s : Dev) : Dev :=
  let fault := if (getSlice s k).counts.malformed = 0 then (getSlice s k).fault else none
  let s := match getQp s qpn with
    | some q => q.rqr.started.foldl (fun s e => stageRetired q e s) s
    | none => s
  let s := accountQueue fault qpn true (accountQueue fault qpn false s)
  match getQp s qpn with
  | none => s
  | some q =>
    match q.err with
    | some e => if q.st = .error then qpErrorEvent qpn q e (setQp qpn { q with err := none } s) else s
    | none => s

/-- Completions held before the reset keep their place ahead of the new ones; queues that only owe a reset's have no stall. -/
def accountSlice (k : Nat) (s : Dev) : Dev :=
  let cqs := s.cqs.filter fun p => p.2.slice == k
  let s := cqs.foldl (fun s p => pumpCq p.1 s) s
  let s := (s.qps.filter fun p => p.2.slice == k).foldl (fun s p => accountQp k p.1 s) s
  { s with cqs := tmap s.cqs fun _ c =>
      if c.slice = k ∧ (c.hold.all fun e => e.2) = true then { c with stallSince := none } else c }

/-- RESULT and reset report of R464. -/
def resetResult (c : ResetCounts) : Nat :=
  packResult [(sat 32 c.written, 4), (sat 32 c.held, 4), (sat 32 c.discarded, 4), (c.malformed, 1)]
def reportList (c : ResetCounts) : List Nat := [c.written, c.held, c.discarded, c.malformed, c.items, c.pkts, c.dma]

/-- The report is written before the reply, with the device's PASID (R330, R464). -/
def writeReport (addr : Nat) (c : ResetCounts) (s : Dev) : Dev :=
  let l := reportList c
  emit (.resetReport addr l) (store 0 addr ((l.flatMap fun v => natLe v 8) ++ natLe 0 8) false true deviceOwner none s)

/-! ## Step 5: restore (R342), and removal (R346) -/

/-- The objects of a slice after its reset. -/
def restoreSlice (k : Nat) (s : Dev) : Dev :=
  let clearMon := fun (m : Monitor) => { m with depth := emptyBins, delay := emptyBins, peakDepth := 0, peakDelay := 0 }
  { s with
    qps := tmap s.qps fun _ q => if q.slice = k then clearQp q else q
    cqs := tmap s.cqs fun _ c => if c.slice = k then { c with error := false, stalled := false } else c
    groups := tmap s.groups fun _ g => if g.slice = k then { g with opSeq := 0, broken := false } else g
    streams := tmap s.streams fun _ x => if x.slice = k then { x with unretired := 0 } else x
    monitors := tmap s.monitors fun _ m => if m.owner = some k then clearMon m else m }

/-- The slice is LIVE again; a latency-critical one wakes its path. -/
def liveAgain (k : Nat) (s : Dev) : Dev :=
  let s := modSlice k (fun x => { x with
    st := .live, fault := none, counts := ⟨0, 0, 0, 0, 0, 0, 0⟩, resetCount := x.resetCount + 1 }) (restoreSlice k s)
  (pinsAsleep s).foldl (fun s o => startWake o s) s

/-- The counter's INDEX is a slice (Table 16.15). -/
def sliceCounter (code : Nat) : Bool := (decide (1 ≤ code) && decide (code ≤ 0x19)) || code == 0x37

/-- Every object of a slice is gone, with the quarantines of R75 and R112; its extents are to be zeroed; its counters are clear
(R513), and its event queue and watermarks end with it (log 74). -/
def removeObjects (k : Nat) (s : Dev) : Dev :=
  let x := getSlice s k
  let s := (s.qps.filter fun p => p.2.slice == k).foldl (fun s p => removeQp p.1 s) s
  let s := s.cqs.foldl (fun s c => if c.2.slice = k then freeHold c.2.hold s else s) s
  let free := fun (w : Window) =>
    if w.owner = k ∧ (w.v = true ∨ w.closing = true) then { w with v := false, closing := false, cached := false, freedAt := some s.now } else w
  { s with
    cqs := tfilter s.cqs fun _ c => !(c.slice == k)
    windows := tmap s.windows fun _ w => free w
    triggers := tfilter s.triggers fun _ t => !(t.slice == k)
    groups := tfilter s.groups fun _ g => !(g.slice == k)
    streams := tfilter s.streams fun _ x => !(x.slice == k)
    monitors := tfilter s.monitors fun _ m => !(m.owner == some k)
    programs := s.programs.filter fun p => !(p.slice == k)
    keySlots := tfilter s.keySlots fun _ x => !(x.owner == k)
    xlt := { s.xlt with
      roots := tfilter s.xlt.roots fun i _ => !(i / 16 == k)
      cache := s.xlt.cache.filter fun t => !(t.slice == k)
      ptrs := s.xlt.ptrs.filter fun t => !(t.slice == k) }
    zeroing := s.zeroing ++ x.extents ++ x.removing
    watermarks := tfilter s.watermarks fun e _ => !(decide (e < 16384) && e / 32 == k)
    eventQ := tdel s.eventQ (k + 1)
    counters := tfilter s.counters fun i _ => !(sliceCounter (i / 4096) && i % 4096 == k) }

/-- The slice enters FREE, and its admin queue closes (R346 step 4, R481). -/
def freeSlice (k : Nat) (s : Dev) : Dev :=
  let s := removeObjects k s
  let s := setSlice k { Slice.free with resetCount := (getSlice s k).resetCount + 1 } s
  if (getAq s (8 + k)).en then stopQueue (8 + k) s else s

/-! ## SLICE_RESET_DRAINED and EXTENT_ZERO_DONE -/

/-- Steps 3 to 5 for the reset that waits. -/
def finishReset (w : Cmd × Nat × WaitOn) (k report since : Nat) (destroy : Bool) (s : Dev) : Dev :=
  let (n, s) := drainSlice k since s
  let s := accountSlice k (modSlice k (fun x => { x with counts := { x.counts with dma := n } }) s)
  let c := (getSlice s k).counts
  let s := endWait w (if destroy then freeSlice k s else liveAgain k s)
  reply (cmdRow w.2.1) w.1 csOk 0 (resetResult c) (writeReport report c s)

/-- SLICE_RESET_DRAINED: the reset begins now at the latest, where nothing delays it, and ends. -/
def resetDrained (k : Nat) (s : Dev) : Dev :=
  let s := s.waits.foldl (fun s w => beginReset w s) s
  s.waits.foldl (fun s w =>
    match w.2.2 with
    | .sliceReset j r (some t) => if j = k then finishReset w k r t false s else s
    | .sliceDestroy j r (some t) => if j = k then finishReset w k r t true s else s
    | _ => s) s

def execSliceResetDrained (slice : Nat) (s : State) : Res := runRetire (resetDrained slice) s

/-- A removed extent has been zeroed: it reads as zero, without poison, and may be given again (R346 step 3). -/
def zeroDone (base : Nat) (s : Dev) : Dev :=
  match s.zeroing.find? fun e => e.1 == base with
  | none => s
  | some (a, n) =>
    clearPoison a n { s with mem := memZero s.mem a n, zeroing := s.zeroing.erase (a, n) }

def execExtentZeroDone (base : Nat) (s : State) : Res := runLevels (zeroDone base) s

end Sys2Proof.Machine
end

