-- ==== Sys2Proof/Machine/Recovery.lean ====
section
/-!
DEFINITION. Sys2Proof/Machine/Recovery.lean: context snapshots (R411 to R414) and the triage of device events (R425).
-/
namespace Sys2Proof.Machine

/-! ## SNAP_EXPORT (R411, R412) -/

/-- The slices of a scope: one, or every slice that is not FREE. -/
def scopeSlices (s : Dev) (one : Option Nat) : List Nat :=
  match one with
  | some k => [k]
  | none => s.slices.filterMap fun p => if p.2.st = .free then none else some p.1

/-- Rings that a slice has registered. -/
def ringRecords (s : Dev) (k : Nat) : List SnapObj :=
  let e := getEvq s (k + 1)
  (if e.en then [.ring 0 (k + 1) e.vector e.ring] else [])
    ++ ((getSlice s k).faultQ.toList.map fun r => .ring 1 k 0 r)
    ++ ((getSlice s k).feedbackQ.toList.map fun r => .ring 2 k 0 r)

/-- Messages that the sequencer has queued for a group. -/
def groupMsgs (s : Dev) (g : Nat) : List SeqMsg := s.seqMsgs.filter fun m => collKind g m.kind || moeKind g m.kind

/-- Own rows of a MOE entry that items or reads at a port have in hand. -/
def rowsInHand (s : Dev) (gid : Nat) : List MoeTicket :=
  (s.items.filterMap fun i => match i.dest with
    | .own g t => if g = gid then some t else none
    | _ => none)
    ++ (allReads s).filterMap fun r => match r.use with
      | .moeRow g _ t _ _ => if g = gid then some t else none
      | _ => none

/-- A MOE entry as an image holds it: what items and reads have in hand is still to be done, and an entry whose table has not been
read whole reads it again. -/
def exportMoe (s : Dev) (gid : Nat) (m : MoeState) : MoeState :=
  { m with
    tickets := m.tickets ++ rowsInHand s gid
    run := m.run.map fun r => { r with reads := 0, begun := r.loaded } }

/-- A group as an image holds it. -/
def exportGroup (s : Dev) (gid : Nat) (g : Group) : Group := { g with moe := g.moe.map (exportMoe s gid) }

/-- Messages that the sequencer has queued for a stream. -/
def streamMsgs (s : Dev) (n : Nat) : List SeqMsg :=
  s.seqMsgs.filter fun m => match m.kind with
    | .replay k _ => k == n
    | _ => false

/-- The records of one slice (Table 12.6). -/
def sliceRecords (s : Dev) (k : Nat) : List SnapObj :=
  [.slicePage k (getSlice s k).pasid]
    ++ (s.qps.filterMap fun p => if p.2.slice = k then some (.qp p.1 p.2) else none)
    ++ (s.cqs.filterMap fun p => if p.2.slice = k then some (.cq p.1 p.2) else none)
    ++ (s.windows.filterMap fun p => if p.2.owner = k ∧ p.2.v = true then some (.window p.1 p.2) else none)
    ++ (s.xlt.roots.filterMap fun p => if p.1 / 16 = k then some (.root k (p.1 % 16) p.2) else none)
    ++ (s.groups.filterMap fun p => if p.2.slice = k then some (.group p.1 (exportGroup s p.1 p.2) (groupMsgs s p.1)) else none)
    ++ (s.streams.filterMap fun p => if p.2.slice = k then some (.stream p.1 p.2 (streamMsgs s p.1)) else none)
    ++ (s.triggers.filterMap fun p => if p.2.slice = k then some (.trigger p.1 p.2) else none)
    ++ ringRecords s k

/-- The records of a scope. -/
def scopeRecords (s : Dev) (one : Option Nat) : List SnapObj :=
  ((scopeSlices s one).flatMap (sliceRecords s))
    ++ (if one.isNone && (getEvq s 0).en then [.ring 0 0 (getEvq s 0).vector (getEvq s 0).ring] else [])

/-- TYPE and ID of a record (Table 12.6). -/
def recordName : SnapObj → Nat × Nat
  | .slicePage k _ => (1, k)
  | .qp n _ => (2, n)
  | .cq n _ => (3, n)
  | .window n _ => (4, n)
  | .root k sp _ => (5, k * 16 + sp)
  | .group n _ _ => (6, n)
  | .stream n _ _ => (7, n)
  | .trigger n _ => (8, n)
  | .ring _ n _ _ => (9, n)

/-- The state of an object in its record: the slice's page, the window's entry and the root as the manual lays them out. The bytes of the
contexts, and the records of the adapter's own with their length, are free (log 104). -/
def recordBody (o : SnapObj) (s : Dev) : List Byte × Dev :=
  let free := fun (n : Nat) =>
    let (v, s) := freshValue s
    (natLe v n, s)
  match o with
  | .slicePage k _ => ((List.range 64).flatMap fun i => natLe (slcRead s (k * 0x200 + 8 * i)) 8, s)
  | .qp _ _ => free 512
  | .cq _ _ => free 64
  | .window _ w => (natLe (encWindow w) 16, s)
  | .root _ _ a => (natLe a 8, s)
  | _ =>
    let (v, s) := freshValue s
    let (x, s) := freshValue s
    (natLe x (v % 2 ^ 32), s)

/-- A record: its header, and its state filled to a multiple of 8. -/
def recordBytes (o : SnapObj) (s : Dev) : List Byte × Dev :=
  let (b, s) := recordBody o s
  let n := recordName o
  (natLe (recordHeader n.1 n.2 b.length) 8 ++ padTo b (roundUp b.length 8), s)

/-- The records of an image, one after another. -/
def allRecords (l : List SnapObj) (s : Dev) : List Byte × Dev :=
  l.foldl (fun a o =>
    let (b, s) := recordBytes o a.2
    (a.1 ++ b, s)) ([], s)

/-- The header of an image of `n` records in `bytes` bytes (Table 12.5), with its DIGEST. -/
def imageHeader (s : Dev) (one : Option Nat) (n bytes : Nat) (digest : List Byte) : List Byte :=
  natLe (pack [(bytes, 64), (n, 32), (0, 20), (s.routing.selfEpid, 18), (one.getD 0, 9), (b2n one.isSome, 1), (1, 16), (0x5A58534E, 32),
    (timeNs s, 64)]) 32 ++ digest

/-- DIGEST of an image: SHAKE256, 256 bits, of the whole image with DIGEST zero (R412). -/
def imageDigest (bytes : List Byte) : List Byte := (shake256 (bytes.take 32 ++ List.replicate 32 0 ++ bytes.drop 64)).take 32

/-- The image of a scope. -/
def snapImage (one : Option Nat) (s : Dev) : Snapshot × Dev :=
  let l := scopeRecords s one
  let (b, s) := allRecords l s
  let head := imageHeader s one l.length (64 + b.length)
  (⟨head (imageDigest (head (List.replicate 32 0) ++ b)) ++ b, l, s.now⟩, s)

/-- The queue pairs of the scope freeze; in a stopped data plane they stand still already. -/
def freezeScope (l : List Nat) (s : Dev) : Dev :=
  if s.dataStopped then s
  else { s with qps := tmap s.qps fun _ q => if l.contains q.slice then { q with frozen := some (q.frozen.getD s.now) } else q }

/-- SNAP_EXPORT: SCOPE at 8 (0 device, 1 the slice), the address 16. The image is written to host memory of the device's PASID, ordered
at the port before the reply (R411, R475). RESULT is the image length. -/
def snapExportBody (scope addr : Nat) (h : Cmd) (c : CmdInfo) (s : Dev) : Dev :=
  let one := if scope = 1 then some h.slice else none
  let l := scopeSlices s one
  if l.any (sliceGoing s) then refuse c h csBusy s
  else
    let (i, s) := snapImage one (freezeScope l s)
    reply c h csOk 0 (packResult [(i.bytes.length, 8)]) (store 0 addr i.bytes false true deviceOwner none (emit (.snapshot i) s))

def snapExportEffect (h : Cmd) (scope addr : Nat) : Dev → Dev :=
  command 0x0802 h (decide (scope = 1)) (firstBad [(8, decide (scope < 2))]) (snapExportBody scope addr h)

def execSnapExport (h : Cmd) (scope addr : Nat) (s : State) : Res := runLevels (snapExportEffect h scope addr) s

/-! ## SNAP_IMPORT (R413) -/

/-- The slice of a record, if it has one. -/
def recordSlice : SnapObj → Option Nat
  | .slicePage k _ => some k
  | .qp _ q => some q.slice
  | .cq _ c => some c.slice
  | .window _ w => some w.owner
  | .root k _ _ => some k
  | .group _ g _ => some g.slice
  | .stream _ x _ => some x.slice
  | .trigger _ t => some t.slice
  | .ring kind n _ _ => if kind = 0 then (if n = 0 then none else some (n - 1)) else some n

/-- TYPE and ID of up to `n` records as they stand in an image. -/
def recordNames : Nat → List Byte → List (Nat × Nat)
  | 0, _ => []
  | n + 1, l =>
    if l.length < 8 then []
    else
      let h := leNat (l.take 8)
      (h / 2 ^ 56, h / 2 ^ 32 % 2 ^ 24) :: recordNames n (l.drop (8 + roundUp (h % 2 ^ 32) 8))

/-- MAGIC, VERSION and DIGEST hold, and no record has a reserved TYPE: the records are those of the objects that the operand names. -/
def imageOk (i : Snapshot) : Bool :=
  let f := fun (o k : Nat) => leNat ((i.bytes.drop o).take k)
  let names := recordNames (Nat.min (f 8 4) i.bytes.length) (i.bytes.drop 64)
  f 20 4 == 0x5A58534E && f 18 2 == 1 && (i.bytes.drop 32).take 32 == imageDigest i.bytes
    && names.all (fun x => decide (1 ≤ x.1 ∧ x.1 ≤ 9)) && names == i.records.map recordName

def imageSlices (i : Snapshot) : List Nat := (i.records.filterMap recordSlice).eraseDups

/-- A slice can take an image: it is LIVE and holds none of the objects that an image brings. -/
def sliceReady (s : Dev) (k : Nat) : Bool :=
  sliceLive s k
    && !((s.qps.any fun p => p.2.slice == k) || (s.cqs.any fun p => p.2.slice == k)
      || (s.windows.any fun p => p.2.owner == k && (p.2.v || p.2.closing)) || (s.groups.any fun p => p.2.slice == k)
      || (s.streams.any fun p => p.2.slice == k) || s.triggers.any fun p => p.2.slice == k)

/-- Objects of the image that count in quota `q` of a slice. -/
def imageCount (i : Snapshot) (k q : Nat) : Nat :=
  i.records.countP fun r => match r, q with
    | .qp _ x, 0 => x.slice == k
    | .cq _ x, 1 => x.slice == k
    | .window _ x, 2 => x.owner == k
    | .qp _ x, 7 => x.slice == k && x.pinned
    | .group _ x _, 9 => x.slice == k
    | .stream _ x _, 10 => x.slice == k
    | .trigger _ x, 11 => x.slice == k
    | _, _ => false

/-- An identifier of the image is in use or in quarantine (R75, R112). -/
def recordTaken (s : Dev) : SnapObj → Bool
  | .qp n _ => (getQp s n).isSome || inQuarantine s n
  | .cq n _ => (tget s.cqs n).isSome
  | .window n _ => !windowFree s n
  | .group n _ _ => (tget s.groups n).isSome
  | .stream n _ _ => (tget s.streams n).isSome
  | .trigger n _ => (tget s.triggers n).isSome
  | _ => false

/-- The first refusal of an image. -/
def importRefusal (s : Dev) (i : Snapshot) : Option Nat :=
  let l := imageSlices i
  if !imageOk i then some csBadParam
  else if !(l.all (sliceReady s)) then some csBusy
  else if l.any fun k => (List.range 13).any fun q => decide (quotaLimit s k q < imageCount i k q + quotaUsed s k q) && decide (0 < imageCount i k q)
    then some csNoFit
  else if i.records.any (recordTaken s) then some csBusy
  else none

/-- A work queue as it comes back: its entries are fetched again. -/
def importQueue (w : WorkQueue) (next : U32) : WorkQueue := { newQueue w.ring with next := next, stopped := w.stopped, paused := w.paused }

/-- A started entry as it comes back: it reads its source afresh, under the program that its slot holds now. -/
def importSend (s : Dev) (slice : Nat) (e : SendEntry) : SendEntry :=
  { e with
    e := { e.e with staged := none }
    stampGroup := none, faultDue := none, tokens := [], txNext := 0, txOut := [], txBad := []
    txProg := if usesTx e.e.raw then (txProgram s slice e.e.raw).map (·.id) else none }

/-- A moment of an image on this adapter's clock: as far from now as it was from the capture (log 104). -/
def sinceTaken (s : Dev) (taken t : Nat) : Nat := t + s.now - taken

/-- An outstanding PSN as it comes back: its destination is translated afresh. -/
def importOut (at_ : Nat → Nat) (o : OutPkt) : OutPkt :=
  { o with delayUntil := o.delayUntil.map at_, place := [], tokens := [], placed := o.answered, rerun := 0 }

/-- A queue pair as it comes back: frozen, with RTO_BASE running for PSNs that are not acknowledged. -/
def importQp (s : Dev) (at_ : Nat → Nat) (q : Qp) : Qp :=
  let out := q.rqr.out.map (importOut at_)
  let r := { q.rqr with
    out := out, started := q.rqr.started.map (importSend s q.slice)
    rto := q.p.rtoBase, retries := 0, busySince := q.rqr.busySince.map at_, waitDue := q.rqr.waitDue.map at_, rtoStopped := false
    rtoDue := if out.any (fun o => !ackedOut o) then some (s.now + q.p.rtoBase) else none }
  let m := q.rsp.msgs.map fun m => { m with stampGroup := none, accAt := at_ m.accAt }
  { q with
    sq := importQueue q.sq (firstUnstarted q false)
    rq := importQueue q.rq (firstUnstarted q true)
    rqr := r
    rsp := { q.rsp with msgs := m, unsent := q.rsp.unsent.map (fun u => { u with due := at_ u.due }), ackPending := 0, ackFirstAt := none }
    cc := { q.cc with bucketAt := s.now, tableAt := none, sample := none }
    cached := q.pinned
    usedAt := s.now
    held := none
    heldBy := []
    frozen := some s.now }

/-- A group as it comes back: an input that was still being copied is copied again. -/
def importGroup (at_ : Nat → Nat) (g : Group) : Group :=
  { g with run := g.run.map fun r =>
      let r := { r with lastProgress := at_ r.lastProgress }
      if r.ready then r else { r with started := false, copies := 0 } }

/-- Messages that an image brings queue again, in their order. -/
def importMsgs (l : List SeqMsg) (s : Dev) : Dev :=
  { s with seqMsgs := s.seqMsgs ++ l.zipIdx.map (fun x => { x.1 with id := s.freeCtr + x.2 }), freeCtr := s.freeCtr + l.length }

/-- A ring that nothing has registered again is registered. -/
def importRing (kind n vector : Nat) (r : Ring) (s : Dev) : Dev :=
  match kind with
  | 0 => if (getEvq s n).en then s else setEvq n { getEvq s n with en := true, ring := r, vector := vector } s
  | 1 => if (getSlice s n).faultQ.isSome then s else modSlice n (fun x => { x with faultQ := some r }) s
  | _ => if (getSlice s n).feedbackQ.isSome then s else modSlice n (fun x => { x with feedbackQ := some r }) s

/-- A record's object is created with its identifier, generation, TAG and state; a root that has been set again stands. -/
def importRecord (taken : Nat) (s : Dev) (r : SnapObj) : Dev :=
  let at_ := sinceTaken s taken
  match r with
  | .qp n q => setQp n (importQp s at_ q) { s with gens := tset s.gens n q.gen, qpFreed := tdel s.qpFreed n }
  | .cq n c =>
    setCq n { c with writtenAt := List.replicate (ringUsed c.ring) s.now, stallSince := c.stallSince.map at_ } s
  | .window n w => { s with windows := tset s.windows n { w with cached := false, closing := false, freedAt := none } }
  | .root k sp a =>
    let i := k * 16 + sp
    if (tget s.xlt.roots i).isSome then s else { s with xlt := { s.xlt with roots := tset s.xlt.roots i a } }
  | .group n g l => importMsgs l { s with groups := tset s.groups n (importGroup at_ g) }
  | .stream n x l => importMsgs l { s with streams := tset s.streams n x }
  | .trigger n t => { s with triggers := tset s.triggers n t }
  | .ring kind n v r => importRing kind n v r s
  | _ => s

/-- SNAP_IMPORT: the image's address stands at 8. -/
def snapImportEffect (h : Cmd) (i : Snapshot) : Dev → Dev :=
  command 0x0803 h false none fun c s =>
    match importRefusal s i with
    | some st => if st = csBadParam then badParam c h 8 s else refuse c h st s
    | none => ok c h (i.records.foldl (importRecord i.taken) s)

def execSnapImport (h : Cmd) (image : Snapshot) (s : State) : Res := runLevels (snapImportEffect h image) s

/-! ## SNAP_THAW (R411, R414) -/

/-- A key slot of the queue pair holds no key. -/
def keyMissing (s : Dev) (q : Qp) : Bool :=
  (q.p.txKey.toList ++ q.p.rxKey.toList).any fun k => !((tget s.keySlots k).any fun x => x.cur.isSome)

/-- A freeze ends: clocks that stood still go on, and the queue pair with them. -/
def thawQp (qpn : Nat) (s : Dev) : Dev :=
  match getQp s qpn with
  | none => s
  | some q =>
    match q.frozen with
    | none => s
    | some t =>
      let q' := { q with frozen := none }
      let s := setQp qpn (shiftClocks (stoodStill s q' t) q') s
      flushQp qpn (runDeferreds qpn (fetchQueue qpn true (fetchQueue qpn false s)))

/-- SNAP_THAW: SCOPE at 8. -/
def snapThawBody (scope : Nat) (h : Cmd) (c : CmdInfo) (s : Dev) : Dev :=
  let mine := s.qps.filter fun p => scope = 0 || p.2.slice == h.slice
  if mine.any fun p => keyMissing s p.2 then refuse c h csBusy s
  else ok c h (mine.foldl (fun s p => thawQp p.1 s) s)

def snapThawEffect (h : Cmd) (scope : Nat) : Dev → Dev :=
  command 0x0804 h (decide (scope = 1)) (firstBad [(8, decide (scope < 2))]) (snapThawBody scope h)

def execSnapThaw (h : Cmd) (scope : Nat) (s : State) : Res := runRetire (snapThawEffect h scope) s

/-! ## Triage (R425, Table 12.13) -/

/-- The ACTION of a device event. -/
def triageAction (e : EventRec) : Nat :=
  if e.type = 0x30 ∧ e.arg1 = 0 then 1 else if e.type = 0x60 then 2 else 0

/-- The step of an ACTION: a port that went down is to be retrained. A scrub brought forward shows in PATROL_SCRUB alone. -/
def triageStep (e : EventRec) (s : Dev) : Dev :=
  if triageAction e = 1 then modPort e.arg0 (fun p => { p with retrains := 3, retrainDue := some (s.now + 1000000000) }) s else s

/-- EVENT_TRIAGE: a control core takes its oldest record's step and writes the record. -/
def eventTriage (core : Nat) (s : Dev) : Dev :=
  match tgetD s.triage core [] with
  | [] => s
  | e :: r =>
    let s := { s with triage := if r.isEmpty then tdel s.triage core else tset s.triage core r }
    placeEvent 0 { e with action := triageAction e, untriaged := false } (triageStep e s)

def execEventTriage (core : Nat) (s : State) : Res := runLevels (eventTriage core) s

/-- A retraining of a port that is still down begins; the next follows a second later. -/
def retrainAgain (n : Nat) (s : Dev) : Dev :=
  let p := getPort s n
  if p.up || p.retrains = 0 then modPort n (fun p => { p with retrains := 0, retrainDue := none }) s
  else
    modPort n (fun p => { p with
      training := true, retrains := p.retrains - 1
      retrainDue := if p.retrains ≤ 1 then none else some (s.now + 1000000000) }) s

/-- TRIAGE_RETRAIN_TIMER. The control firmware retrains: with no core running nothing does. -/
def triageRetrain (n : Nat) (s : Dev) : Dev :=
  atExpiry (getPort s n).retrainDue (fun s => if s.cores = 0 then s else retrainAgain n s) s

def execTriageRetrainTimer (n : Nat) (s : State) : Res := runLevels (triageRetrain n) s

end Sys2Proof.Machine
end

