-- ==== Sys2Proof/Machine/Security.lean ====
section
/-!
DEFINITION. Sys2Proof/Machine/Security.lean: key slots and key-encryption keys (R431 to R436, R442), the commands of the management
plane (R451, R480), the SPDM responder (R452, R453), the raw block service (R448), debug unlock and the JTAG port (R529).
-/
namespace Sys2Proof.Machine

/-! ## KEY_INSTALL (R434, R442) -/

/-- The binding of a wrapped key names this slice, slot and DIR. -/
def bindingOk (b : U32) (slice slot dir : Nat) : Bool :=
  fld b 8 0 == slice && fld b 20 9 == slot && fld b 21 21 == dir

/-- What the read of the 56 bytes gives: of the slice's Millefeuille allocation what memory holds, of host memory what the port answers. -/
def wrappedRead (s : Dev) (slice : Nat) (k : WrappedKey) : ReadData :=
  if k.space ≠ 1 then { k.data with refused := k.data.refused || !pasidOk s slice 0 }
  else if inAllocation s slice k.addr 56 then smemRead s k.addr 56 else ⟨[], false, true⟩

/-- The 48 bytes of a wrapped key. -/
def plainKey (l : List Byte) : PlainKey where
  key := BitVec.ofNat 256 (leNat (l.take 32))
  nonce := BitVec.ofNat 64 (leNat ((l.drop 32).take 8))
  serial := u32 (leNat ((l.drop 40).take 4))
  binding := u32 (leNat ((l.drop 44).take 4))

/-- The key, where the slice has a key-encryption key, the 56 bytes can be read, they unwrap and the reserved bits are 0. -/
def unwraps (s : Dev) (slice : Nat) (k : WrappedKey) : Option PlainKey :=
  let d := wrappedRead s slice k
  if d.refused || d.poisoned then none
  else ((getSlice s slice).kek.bind fun kek => unwrapKey kek d.bytes).bind fun l =>
    if fld (plainKey l).binding 31 22 = 0 then some (plainKey l) else none

/-- The slot rotates its keys with the host's help: its own mode, or for a free slot the slice's (Table 1.5). -/
def slotHa (s : Dev) (slice slot : Nat) : Bool :=
  match tget s.keySlots slot with
  | some y => y.keyHa
  | none => (getSlice s slice).keyHa

/-- The refusal of Table 13.2 of a key that unwraps. -/
def installRefusal (s : Dev) (slice slot dir position : Nat) (k : PlainKey) : Option Nat :=
  if !bindingOk k.binding slice slot dir then some csNotPermitted
  else if (tget s.keySlots slot).any fun y => y.owner != slice then some csNotPermitted
  else if dir = 0 ∧ ((tget s.keySerials slot).any fun m => decide (k.serial.toNat ≤ m)) = true then some csNotPermitted
  else if (tget s.keySlots slot).isNone = true ∧ quotaFull s slice 8 = true then some csNoFit
  else if position = 1 ∧ dir = 0 ∧ slotHa s slice slot = true then some csNotPermitted
  else none

/-- A slot that a first install allocates. -/
def freshSlot (slice : Nat) (ha : Bool) : KeySlot where
  owner := slice
  rx := false
  cur := none
  next := none
  prev := none
  pkts := 0
  bytes := 0
  stoppedSince := none
  waitOver := false
  failsSince := 0
  lastFailEvent := none
  keyHa := ha

/-- A key enters a slot as CUR, with its counts at 0, or as NEXT. Into a stopped slot every key enters as CUR. A NEXT that is loaded when
an install as CUR switches the slot to host-assisted rotation stays, and the slot rolls to it at its limit (DESIGN CHOICE, log 163). -/
def putKey (y : KeySlot) (dir position : Nat) (ha : Bool) (k : FabKey) : KeySlot :=
  if position = 0 ∨ y.stoppedSince.isSome = true then
    { y with rx := dir == 1, cur := some k, pkts := 0, bytes := 0, stoppedSince := none, waitOver := false, keyHa := ha }
  else { y with rx := dir == 1, next := some k }

/-- A queue pair goes on after its transmit slot has been stopped since `t`. -/
def releaseKeyQp (t qpn : Nat) (s : Dev) : Dev :=
  match getQp s qpn with
  | none => s
  | some q =>
    let q' := { q with rqr := { q.rqr with keyWaiting := false } }
    runDeferreds qpn (setQp qpn (shiftClocks (stoodStill s q' t) q') s)

/-- The queue pairs that name a slot are released. -/
def releaseSlot (k : Nat) (since : Option Nat) (s : Dev) : Dev :=
  match since with
  | none => s
  | some t => (s.qps.filter fun p => p.2.p.txKey == some k).foldl (fun s p => releaseKeyQp t p.1 s) s

/-- An install that is not refused. -/
def placeKey (slice slot dir position : Nat) (k : PlainKey) (s : Dev) : Dev :=
  let ha := (getSlice s slice).keyHa
  let y := (tget s.keySlots slot).getD (freshSlot slice ha)
  let top := Nat.max (tgetD s.keySerials slot 0) k.serial.toNat
  releaseSlot slot y.stoppedSince { s with
    keySlots := tset s.keySlots slot (putKey y dir position ha ⟨k.key, k.nonce, k.serial⟩)
    keySerials := tset s.keySerials slot top }

/-- An install is carried out. -/
def installKey (c : CmdInfo) (h : Cmd) (slot dir position : Nat) (k : WrappedKey) (s : Dev) : Dev :=
  match unwraps s h.slice k with
  | none => badParam c h 16 (if (wrappedRead s h.slice k).refused && decide (k.space = 0) then refusedRead 15 k.addr s else s)
  | some p =>
    match installRefusal s h.slice slot dir position p with
    | some st => refuse c h st s
    | none => ok c h (placeKey h.slice slot dir position p s)

/-- An install is held until the management plane runs again (R21). It has not committed. -/
def holdKey (h : Cmd) (slot dir position : Nat) (k : WrappedKey) (s : Dev) : Dev :=
  { s with waits := s.waits ++ [(h, 0x0A01, .mgmtKey slot dir position k)] }

/-- KEY_INSTALL: SLOT at 8, DIR 10 (0 transmit, 1 receive), POSITION 11 (0 CUR, 1 NEXT), the address 16, which DETAIL names where the key
does not unwrap. -/
def keyInstallEffect (h : Cmd) (slot dir position : Nat) (k : WrappedKey) : Dev → Dev :=
  command 0x0A01 h true (firstBad [(8, decide (slot < 4096)), (10, decide (dir < 2)), (11, decide (position < 2))]) fun c s =>
    if s.sec.mgmtReset then holdKey h slot dir position k s else installKey c h slot dir position k s

def execKeyInstall (h : Cmd) (slot dir position : Nat) (key : WrappedKey) (s : State) : Res :=
  runRetire (keyInstallEffect h slot dir position key) s

/-- The installs that were held are carried out, in the order in which they came. -/
def resumeKeys (s : Dev) : Dev :=
  s.waits.foldl (fun s w =>
    match w.2.2 with
    | .mgmtKey slot dir position k => installKey (cmdRow w.2.1) w.1 slot dir position k (endWait w s)
    | _ => s) s

/-! ## KEY_FREE and KEY_QUERY (R434, R436) -/

/-- The slot is allocated to the slice of the command, or the refusal of R534. -/
def withSlot (slot : Nat) (h : Cmd) (body : KeySlot → CmdInfo → Dev → Dev) (c : CmdInfo) (s : Dev) : Dev :=
  match tget s.keySlots slot with
  | none => badParam c h 8 s
  | some y => if y.owner ≠ h.slice then refuseOther c h 8 s else body y c s

/-- Some queue pair names the slot. -/
def slotNamed (s : Dev) (slot : Nat) : Bool := s.qps.any fun p => p.2.p.txKey == some slot || p.2.p.rxKey == some slot

def keyFreeBody (slot : Nat) (h : Cmd) (c : CmdInfo) (s : Dev) : Dev :=
  if slotNamed s slot then refuse c h csBusy s else ok c h { s with keySlots := tdel s.keySlots slot }

def keyFreeEffect (h : Cmd) (slot : Nat) : Dev → Dev :=
  command 0x0A02 h true (firstBad [(8, decide (slot < 4096))]) (withSlot slot h fun _ => keyFreeBody slot h)

def execKeyFree (h : Cmd) (slot : Nat) (s : State) : Res := runLevels (keyFreeEffect h slot) s

/-- The status of a key slot (Table 13.3). -/
def encKeySlot (now : Nat) (y : KeySlot) : Nat :=
  pack [(0, 9), (y.owner, 9), (b2n y.stoppedSince.isSome, 1), (b2n (y.prev.any fun p => decide (now < p.2)), 1), (b2n y.next.isSome, 1),
    (b2n y.rx, 1), (y.bytes, 41), (y.pkts, 33), ((y.cur.map fun k => k.serial.toNat).getD 0, 32)]

def keyQueryEffect (h : Cmd) (slot : Nat) : Dev → Dev :=
  command 0x0A03 h true (firstBad [(8, decide (slot < 4096))])
    (withSlot slot h fun y c s => reply c h csOk 0 (encKeySlot s.now y) s)

def execKeyQuery (h : Cmd) (slot : Nat) (s : State) : Res := run (keyQueryEffect h slot) s

/-! ## Erasing keys (R431, R498) -/

/-- A slot without any key. -/
def eraseSlot (y : KeySlot) : KeySlot := { y with cur := none, next := none, prev := none, pkts := 0, bytes := 0 }

/-- The key store and the pipelines' key registers are zeroised. -/
def zeroise (s : Dev) : Dev :=
  { s with
    keySlots := tmap s.keySlots fun _ y => eraseSlot y
    slices := tmap s.slices fun _ x => { x with kek := none }
    sec := { s.sec with serviceKeys := [], attestKey := false } }

/-! ## The management plane's commands (R433, R451, R480) -/

/-- The management processor and the island answer: the self-test has passed and no reset of theirs is under way. -/
def mgmtUp (s : Dev) : Bool := s.sec.selftestOk && !s.sec.mgmtReset

/-- The session is open. -/
def inSession (s : Dev) (session : Option Nat) : Bool := mgmtUp s && session.any fun i => s.sec.sessions.contains i

/-- A command of the management plane: outside a session an SPDM ERROR and nothing else; where its Key is the device and its SLICE not 0,
or while the data plane is stopped, NOT_PERMITTED (R467, R478); with a reserved field that is not zero BAD_PARAM and its offset (R7, R469); else the status and state that `f`
gives. -/
def mgmtCommand (what : String) (device : Bool) (m : MgmtHead) (f : Dev → Nat × Dev) (s : Dev) : Dev :=
  if !inSession s m.session then (if mgmtUp s then emit (.spdm (m.session.getD 0) "ERROR" []) s else s)
  else if (device && m.slice != 0) || s.dataStopped then emit (.spdm (m.session.getD 0) what [csNotPermitted]) s
  else
    match m.rsvd with
    | some o => emit (.spdm (m.session.getD 0) what [csBadParam, o]) s
    | none =>
      let (st, s) := f s
      emit (.spdm (m.session.getD 0) what [st]) s

/-- KEK_SET (R433). -/
def kekSet (slice : Nat) (kek : BitVec 256) (s : Dev) : Nat × Dev :=
  if 512 ≤ slice ∨ (getSlice s slice).st = .free then (csBadParam, s)
  else if sliceGoing s slice then (csBusy, s)
  else (csOk, modSlice slice (fun x => { x with kek := some kek }) s)

def execKekSet (m : MgmtHead) (slice : Nat) (kek : BitVec 256) (s : State) : Res :=
  run (mgmtCommand "KEK_SET" false m (kekSet slice kek)) s

/-- The bank of flash that is not running. -/
def otherBank (a : Ao) : Nat := 1 - low a.bank 1

/-- Image `i` of a bank passes R450: its digest, its signature, and its SVN against the minimum of its kind (log 164). -/
def imagePasses (minSvn : List Nat) (b : BankImage) (i : Nat) : Bool :=
  match b.images[i]? with
  | none => false
  | some x => x.digestOk && x.signed && decide (minSvn.getD i 0 ≤ x.svn)

/-- Every image of a bank passes. -/
def bankPasses (minSvn : List Nat) (b : BankImage) : Bool := (List.range 4).all (imagePasses minSvn b)

/-- The first image of a bank that fails. -/
def badImage (minSvn : List Nat) (b : BankImage) : Nat := ((List.range 4).find? fun i => !imagePasses minSvn b i).getD 0

/-- The minimum SVNs once a bank has booted (R451). -/
def raiseSvn (minSvn : List Nat) (b : BankImage) : List Nat :=
  (List.range 4).map fun i => Nat.max (minSvn.getD i 0) ((b.images[i]?.map fun x => x.svn).getD 0)

/-- No valid bank: part of one has been written over. -/
def noImage : BankImage := ⟨[], ⟨0, 0, 0, [], [], [], [], [], [], []⟩⟩

/-- FW_UPDATE (R451): part of a bank, at its offset in the bank's 31 MiB; with the last part the bank that now stands there, which is
verified before the reply. One that fails is refused, and the last part changes nothing (R470). The status, and the flash. -/
def fwUpdate (offset bytes : Nat) (bank : Option BankImage) (a : Ao) : Nat × Ao :=
  if 65536 < bytes ∨ 31 * 2 ^ 20 < offset + bytes then (csBadParam, a)
  else
    let put := fun (b : BankImage) (p : Option Nat) => { a with banks := a.banks.set (otherBank a) b, pendingBank := p }
    match bank with
    | none => (csOk, put noImage none)
    | some b => if bankPasses a.minSvn b then (csOk, put b (some (otherBank a))) else (csBadParam, a)

/-- FW_UPDATE is carried out in an open session, unless SLICE or a reserved field is not zero or the data plane is stopped (R7, R467, R478,
R480). -/
def fwUpdateState (m : MgmtHead) (offset bytes : Nat) (bank : Option BankImage) (s : State) : State :=
  if !alive s.ao then s
  else
    let go := inSession s.dev m.session && !s.dev.dataStopped && m.rsvd.isNone && m.slice == 0
    let (st, a) := fwUpdate offset bytes bank s.ao
    { s with
      ao := if go then a else s.ao
      dev := mgmtCommand "FW_UPDATE" true m (fun d => (st, d)) s.dev }

def execFwUpdate (m : MgmtHead) (offset bytes : Nat) (bank : Option BankImage) (s : State) : Res :=
  runAo (fwUpdateState m offset bytes bank) s

/-- SEC_ZEROISE (R431). -/
def secZeroise (s : Dev) : Nat × Dev := (csOk, { zeroise s with sec := { (zeroise s).sec with zeroised := true } })

def execSecZeroise (m : MgmtHead) (s : State) : Res := runLevels (mgmtCommand "SEC_ZEROISE" true m secZeroise) s

/-! ## SPDM (R452, R453, Table 13.7) -/

/-- A session ends: SPDM_SESSION_END. -/
def endSession (session cause : Nat) (s : Dev) : Dev :=
  devEvent 0x104 0 0x7F session cause 0 { s with sec := { s.sec with sessions := s.sec.sessions.filter fun i => i != session } }

/-- The response with the measurement blocks, signed with the device identity key. -/
def measureRsp (session debug : Nat) (s : Dev) : Dev :=
  let l := s.sec.measures ++ [debug]
  emit (.spdm session "MEASUREMENTS" (l ++ [Config.signature l])) s

/-- The measurement blocks: blocks 1 to 6, and the debug state, which is 0 while locked and else a free value other than 0 (log 5). -/
def measurements (session : Nat) (s : Dev) : Dev :=
  if !mgmtUp s then s
  else if !s.sec.attestKey then emit (.spdm session "ERROR" []) s
  else if !s.sec.unlocked then measureRsp session 0 s
  else
    let (v, s) := freshValue s
    measureRsp session (v + 1) s

def execGetMeasurements (session : Option Nat) (s : State) : Res := run (measurements (session.getD 0)) s

/-- The answer to a request that needs the device identity key. -/
def signed (session : Nat) (what : String) (f : Dev → Dev) (s : Dev) : Dev :=
  if s.sec.attestKey then emit (.spdm session what []) (f s) else emit (.spdm session "ERROR" []) s

/-- A request that only an open session may make. -/
def sessionOnly (session : Nat) (what : String) (f : Dev → Dev) (s : Dev) : Dev :=
  if s.sec.sessions.contains session then f (emit (.spdm session what []) s) else emit (.spdm session "ERROR" []) s

/-- KEY_EXCHANGE: at most four sessions at once. -/
def keyExchange (session : Nat) (s : Dev) : Dev :=
  if s.sec.sessions.contains session || s.sec.handshakes.contains session || decide (4 ≤ s.sec.sessions.length + s.sec.handshakes.length)
  then emit (.spdm session "ERROR" []) s
  else signed session "KEY_EXCHANGE_RSP" (fun s => { s with sec := { s.sec with handshakes := s.sec.handshakes ++ [session] } }) s

/-- FINISH opens the session. -/
def finish (session : Nat) (s : Dev) : Dev :=
  if s.sec.handshakes.contains session then
    emit (.spdm session "FINISH_RSP" []) { s with sec := { s.sec with
      handshakes := s.sec.handshakes.filter fun i => i != session, sessions := s.sec.sessions ++ [session] } }
  else emit (.spdm session "ERROR" []) s

/-- An SPDM request of the scope of Table 13.5, by its request code (DSP0274). DIGESTS names slot 0 by its bit and its digest, CERTIFICATE
slot 0 and its certificate; messages have at most 64 KiB. -/
def spdmRequest (code session : Nat) (s : Dev) : Dev :=
  if !mgmtUp s then s
  else
    match code with
    | 0x84 => emit (.spdm session "VERSION" [0x12, 0x13]) s
    | 0xE1 => emit (.spdm session "CAPABILITIES CERT CHAL MEAS_SIG ENCRYPT MAC KEY_EX HBEAT KEY_UPD" [65536]) s
    | 0xE3 => emit (.spdm session "ALGORITHMS EdDSA-Ed448 SHA3-384 ECDHE-secp384r1 AES-256-GCM" []) s
    | 0x81 => emit (.spdm session "DIGESTS" (1 :: vals (sha3 Config.certificate))) s
    | 0x82 => emit (.spdm session "CERTIFICATE" (0 :: vals Config.certificate)) s
    | 0x83 => signed session "CHALLENGE_AUTH" id s
    | 0xE0 => measurements session s
    | 0xE4 => keyExchange session s
    | 0xE5 => finish session s
    | 0xE8 => sessionOnly session "HEARTBEAT_ACK" id s
    | 0xE9 => sessionOnly session "KEY_UPDATE_ACK" id s
    | 0xEC => sessionOnly session "END_SESSION_ACK" (endSession session 0) s
    | 0xFE => sessionOnly session "VENDOR_DEFINED_RESPONSE" id s
    | _ => emit (.spdm session "ERROR UnsupportedRequest" []) s

def execSpdmRequest (code session : Nat) (s : State) : Res := run (spdmRequest code session) s

/-- SPDM_HEARTBEAT_LOST. -/
def heartbeatLost (session : Nat) (s : Dev) : Dev := if inSession s (some session) then endSession session 1 s else s

def execSpdmHeartbeatLost (session : Nat) (s : State) : Res := runLevels (heartbeatLost session) s

/-! ## The raw block service (R448) -/

/-- RAW_BLOCK_REQUEST of the management processor. -/
def rawBlocks (encrypt : Bool) (key : Nat) (blocks : List (BitVec 128)) (s : Dev) : Dev :=
  if !mgmtUp s then s
  else
    match s.sec.serviceKeys.find? fun p => p.1 == key with
    | none => emit (.mctp "RAW_BLOCK refused" [csBadParam]) s
    | some (_, k) =>
      if blocks.length = 0 ∨ 256 < blocks.length then emit (.mctp "RAW_BLOCK refused" [csBadParam]) s
      else emit (.blocks (blocks.map fun b => if encrypt then aesEncrypt k b else aesDecrypt k b)) s

def execRawBlockRequest (encrypt : Bool) (key : Nat) (blocks : List (BitVec 128)) (s : State) : Res :=
  run (rawBlocks encrypt key blocks) s

/-! ## Debug and JTAG (R529) -/

/-- DEBUG_UNLOCK. -/
def debugUnlock (isSigned : Bool) (s : Dev) : Dev :=
  if mgmtUp s && isSigned then { s with sec := { s.sec with unlocked := true } } else s

def execDebugUnlock (signed : Bool) (s : State) : Res := runLevels (debugUnlock signed) s

/-- The instructions by number: 0 BYPASS, 1 IDCODE, 2 SAMPLE/PRELOAD, 3 EXTEST, 4 EXTEST_PULSE, 5 EXTEST_TRAIN; any other is debug access. -/
def jtagActs (perst unlocked : Bool) (ir : Nat) : Nat :=
  if ir < 3 then ir
  else if ir < 6 then (if perst then ir else 0)
  else if unlocked then ir else 0

/-- What the register that an instruction selects captures: the IDCODE, or the 0 of BYPASS. -/
def jtagCapture (ir : Nat) : Option Nat := if ir = 0 then some 0 else if ir = 1 then some 0xB40960B5 else none

/-- JTAG_INSTRUCTION: an instruction is loaded, so TRST# is high. -/
def jtagLoad (ir : Nat) (s : State) : State :=
  let i := jtagActs s.ao.perst s.dev.sec.unlocked ir
  { s with ao := { s.ao with jtagIr := ir, trst := false }, dev := emit (.jtag i (jtagCapture i)) s.dev }

def execJtagInstruction (ir : Nat) (s : State) : Res := runAo (jtagLoad ir) s

/-- TRST_ASSERT: Test-Logic-Reset, in which IDCODE is loaded (IEEE 1149.1), and nothing else. -/
def trstAssert (s : State) : State := { s with ao := { s.ao with trst := true, jtagIr := 1 } }

def execTrstAssert (s : State) : Res := runAo trstAssert s

end Sys2Proof.Machine
end

