-- ==== Sys2Proof/Machine/Reset.lean ====
section
/-!
DEFINITION. Sys2Proof/Machine/Reset.lean: the resets of Table 15.5 (R21, R273, R496 to R500), power-on and boot (R430, R450, R497,
R523), power loss (R522, R525, R532), reference clocks (R525) and temperature (R530, R531).
-/
namespace Sys2Proof.Machine

/-! ## Management-plane reset (R21, R496) -/

/-- A management-plane reset starts: the SPDM sessions end with cause 2. -/
def startMgmtReset (s : Dev) : Dev :=
  let l := s.sec.sessions
  let s := { s with sec := { s.sec with mgmtReset := true, handshakes := [] } }
  l.foldl (fun s i => endSession i 2 s) s

/-- A write of PWR_RESET_CTL, or an MCTP request, asks for it; one that is under way is not started again (R499). -/
def mgmtReset (s : Dev) : Dev := if s.sec.mgmtReset then bump 0x35 0 s else startMgmtReset s

def execMgmtPlaneReset (s : State) : Res := run mgmtReset s

/-- MGMT_WATCHDOG_EXPIRY. -/
def execMgmtWatchdogExpiry (s : State) : Res := runLevels (fun d => if d.sec.mgmtReset then d else startMgmtReset d) s

/-- MGMT_PLANE_RESET_DONE: the commands that were held are carried out. -/
def mgmtResetDone (s : Dev) : Dev :=
  if s.sec.mgmtReset then resumeKeys { s with sec := { s.sec with mgmtReset := false } } else s

def execMgmtPlaneResetDone (s : State) : Res := runRetire mgmtResetDone s

/-! ## Transit-only reset (R273, R496, R499) -/

/-- PORT_RETRAINs of fabric ports that the reset supersedes write no reply (R500). -/
def supersedeRetrains (s : Dev) : Dev :=
  s.waits.foldl (fun s w =>
    match w.2.2 with
    | .port n =>
      if n < 64 then
        { endWait w s with started := s.started.filter fun c => !(c.queue == w.1.aq && c.index == w.1.index) }
      else s
    | _ => s) s

/-- Every fabric port goes down; what its link layer and the packet core's buffers held is discarded. -/
def dropFabric (s : Dev) : Dev :=
  let s := fabricLost ((List.range 64).foldl (fun s n => endScan n s) s)
  parentDown { s with
    ports := tmap s.ports fun n p => if n < 64 then { freshLink p with retrains := 0, retrainDue := none } else p
    escWaiting := [] }

def transitOnlyReset (s : Dev) : Dev :=
  if s.transitReset || s.slices.any fun p => p.2.st != .free then bump 0x35 0 s
  else startAll (dropFabric (supersedeRetrains { s with transitReset := true }))

def execTransitOnlyReset (s : State) : Res := runLevels transitOnlyReset s

/-- The ports whose configuration gives them a MODE, and which are not OFF, start to train. -/
def startTraining (s : Dev) : Dev :=
  (List.range 64).foldl (fun s n =>
    if portNamed s n && !(getPort s n).up && !portOff s n then modPort n (fun p => { p with training := true }) s else s) s

/-- TRANSIT_ONLY_RESET_DONE. -/
def execTransitOnlyResetDone (s : State) : Res :=
  run (fun d => if d.transitReset then startTraining { d with transitReset := false } else d) s

/-! ## What a PERST# warm reset and a loss of power leave (R496, R498, R522) -/

/-- Outputs, clock and free values of the model, and the stopped clocks: no reset touches them. -/
def keepOutside (s d : Dev) : Dev := { d with now := s.now, out := s.out, freeCtr := s.freeCtr, refLost := s.refLost }

/-- Every domain but AO at its reset value. -/
def powerLost (s : Dev) : Dev := keepOutside s Dev.reset

/-- Registers of a physical fabric port that are marked -ST. -/
def keepFab (f : FabRegs) : FabRegs := { FabRegs.reset with cfg := f.cfg, asym := f.asym, udpPort := f.udpPort }

/-- Registers of an accelerator port that are marked -ST: MODE, PCIE_GEN and ACP_DB_BASE. -/
def keepAcc (p : IoPort) : IoPort := { IoPort.reset with cfg := p.cfg &&& 0x0FF00000, live := p.cfg &&& 0x0FF00000, dbBase := p.dbBase }

/-- What PERST# leaves of the island: the self-test's verdict, and the -AO bits. -/
def keepSec (x : Security) : Security :=
  { Security.reset with selftestOk := x.selftestOk, zeroised := x.zeroised, unlocked := x.unlocked }

/-- A PERST# warm reset (R498): everything is at its reset value but the AO domain, registers marked -ST or -AO, the generations,
window TAGs, seeds and what counts since power-on, and the Millefeuille contents outside the backing store. -/
def warmReset (s : Dev) : Dev :=
  keepOutside s { Dev.reset with
    mem := s.mem.filter fun c => decide (backingEnd ≤ c.1)
    poison := s.poison.filter fun l => decide (backingEnd ≤ l * 32)
    gens := s.gens
    windows := tmap s.windows fun _ w => { w with v := false, closing := false, cached := false, freedAt := none }
    engines := tmap s.engines fun _ e => { Engine.reset with seed := e.seed }
    slices := tmap s.slices fun _ x => { Slice.free with resetCount := x.resetCount }
    keySerials := s.keySerials
    zeroing := s.zeroing
    fabRegs := tmap s.fabRegs fun _ f => keepFab f
    accs := tmap s.accs fun _ p => keepAcc p
    routing := { Routing.reset with g := s.routing.g, selfEpid := s.routing.selfEpid }
    rtoBase := s.rtoBase
    time := { TimeUnit.reset with cfg := s.time.cfg, following := fld s.time.cfg 21 16 }
    dies := tmap s.dies fun _ d => { Stack.reset with poisoned := d.poisoned }
    errBanks := s.errBanks
    scrubHours := s.scrubHours
    rowThresh := s.rowThresh
    sec := keepSec s.sec
    grade := s.grade }

/-! ## Boot (R430, R449 to R451, R497) -/

/-- The bank numbered `b` in flash. -/
def bankAt (a : Ao) (b : Nat) : BankImage := a.banks.getD b noImage

/-- FAB_PORT_CFG takes a word: MODE unless it is reserved, and the FEC bits (R242). -/
def writeFabCfg (old v : U32) : U32 :=
  let mode := if fld v 27 24 ≤ 4 then v &&& 0x0F000000 else old &&& 0x0F000000
  mode ||| (v &&& 0x00C00000)

/-- ACP_PORT_CFG takes a word: MODE and PCIE_GEN unless reserved, and the two enables (R371). -/
def writeAcpCfg (old v : U32) : U32 :=
  let mode := if fld v 27 24 ≤ 2 then v &&& 0x0F000000 else old &&& 0x0F000000
  let gen := if 4 ≤ fld v 23 20 ∧ fld v 23 20 ≤ 6 then v &&& 0x00F00000 else old &&& 0x00F00000
  mode ||| gen ||| (v &&& 0x000C0000)

/-- The configuration image sets the grade and version, this adapter's EPID, the ports' MODEs, the service keys, and the
addresses of accelerator memory and of the BARs below each port in PCIe mode (R374). -/
def applyImage (c : ConfigImage) (s : Dev) : Dev :=
  let s := (List.range 32).foldl (fun s p =>
    match c.fabCfg[p]? with
    | some v => setFab p { getFab s p with cfg := writeFabCfg (getFab s p).cfg v } s
    | none => s) s
  let s := (List.range 8).foldl (fun s a =>
    match c.acpCfg[a]? with
    | some v => modIo a (fun x => { x with cfg := writeAcpCfg x.cfg v }) s
    | none => s) s
  let s := (List.range 8).foldl (fun s a => modIo a (fun x => { x with memBase := c.accBase.getD a 0, bars := c.accBars.getD a [] }) s) s
  { s with
    ports := (List.range 64).foldl (fun t n => match c.macs[n]?, c.ips[n]? with
      | some m, some a => tset t n { tgetD t n FPort.reset with mac := m, ip := a }
      | _, _ => t) s.ports
    cfgVer := c.cfgVer
    grade := c.grade
    routing := { s.routing with selfEpid := low c.selfEpid 18 }
    sec := { s.sec with serviceKeys := c.serviceKeys.take 16 } }

/-- Step 4 of R497, and the ports begin to train. While PERST# is low the sequence waits (R523). -/
def configure (s : State) : State :=
  if s.ao.perst then { s with ao := { s.ao with phase := .perstHeld } }
  else { s with
    ao := { s.ao with phase := .booting }
    dev := startTraining (applyImage (bankAt s.ao s.ao.bank).cfg s.dev) }

/-- Blocks 1 to 6, as the island measures a bank: the boot ROM's version, the digests of the island's, the management processor's and the
control firmware and of the configuration image, the running bank and the minimum SVNs. -/
def measureBank (b : Nat) (minSvn : List Nat) (x : BankImage) : List Nat :=
  Config.romVersion :: ([2, 0, 1, 3].map fun i => ((x.images[i]?.map fun y => y.measured.toNat).getD 0)) ++ b :: minSvn

def measure (b : Nat) (a : Ao) (s : Dev) : Dev :=
  { s with sec := { s.sec with bank := b, attestKey := true, measures := measureBank b a.minSvn (bankAt a b) } }

/-- A bank that has passed runs. -/
def startBank (b : Nat) (s : State) : State :=
  configure { s with
    ao := { s.ao with bank := b, pendingBank := none, booted := true }
    dev := measure b s.ao s.dev }

/-- The bank that the flash state record names. -/
def namedBank (a : Ao) : Nat := low (a.pendingBank.getD a.bank) 1

/-- R450: the bank of the state record, else the other with BOOT_BANK_FALLBACK, else the recovery responder alone. ARG1 is the first
image that failed. -/
def boot (s : State) : State :=
  let b := namedBank s.ao
  if bankPasses s.ao.minSvn (bankAt s.ao b) then startBank b s
  else if bankPasses s.ao.minSvn (bankAt s.ao (1 - b)) then
    onDev (devEvent 0x103 0 0x7F b (badImage s.ao.minSvn (bankAt s.ao b)) 0) (startBank (1 - b) s)
  else onDev (emit (.mctp "BOOT_FAILED" [b])) { s with ao := { s.ao with phase := .recovery } }

/-- The island's tests at power-on, then boot (R430). -/
def firstBoot (selftest : Bool) (s : State) : State :=
  if selftest then boot (onDev (fun d => { d with sec := { d.sec with selftestOk := true } }) s)
  else onDev (fun d => emit (.mctp "SELFTEST_FAILED" []) (zeroise d)) { s with ao := { s.ao with phase := .recovery } }

/-- POWER_ON: POR# rises. `a` and `b` are what the flash holds when the adapter is first powered; later its own updates stand. -/
def powerOn (perstHigh selftest : Bool) (a b : BankImage) (s : State) : State :=
  if s.ao.phase ≠ .held then s
  else firstBoot selftest { s with
    ao := { s.ao with perst := !perstHigh, banks := if s.ao.banks.isEmpty then [a, b] else s.ao.banks } }

def execPowerOn (perstHigh selftest : Bool) (a b : BankImage) (s : State) : Res := runAo (powerOn perstHigh selftest a b) s

/-- RESET_SEQUENCE_DONE: the control cores run, admin queue 0 may be enabled, and the minimum SVNs rise to those of the images that
have booted (R451). -/
def sequenceDone (s : State) : State :=
  if s.ao.phase ≠ .booting then s
  else
    let v := raiseSvn s.ao.minSvn (bankAt s.ao s.ao.bank)
    { s with
      ao := { s.ao with phase := .running, minSvn := v }
      dev := { s.dev with ready := true, cores := 0x3F, sec := { s.dev.sec with measures := s.dev.sec.measures.take 6 ++ v } } }

def execResetSequenceDone (s : State) : Res := runAo sequenceDone s

/-- RECOVERY_BANK_WRITE: the recovery responder takes a signed bank, and boot runs. -/
def recoveryWrite (bank : Nat) (image : BankImage) (s : State) : State :=
  if s.ao.phase ≠ .recovery ∨ s.dev.sec.selftestOk = false then s
  else if 2 ≤ bank ∨ bankPasses s.ao.minSvn image = false then onDev (emit (.mctp "RECOVERY_BANK refused" [bank])) s
  else
    boot (onDev (emit (.mctp "RECOVERY_BANK accepted" [bank])) { s with ao := { s.ao with banks := s.ao.banks.set bank image } })

def execRecoveryBankWrite (bank : Nat) (image : BankImage) (s : State) : Res := runAo (recoveryWrite bank image) s

/-! ## PERST# (R498, R523) -/

/-- PERST_ASSERT. -/
def perstAssert (s : State) : State :=
  if alive s.ao then { s with ao := { s.ao with phase := .perstHeld, perst := true, booted := false }, dev := warmReset s.dev }
  else { s with ao := { s.ao with perst := true } }

def execPerstAssert (s : State) : Res := runAo perstAssert s

/-- PERST_DEASSERT: boot, unless power-on has booted already and waited; then configuration and training. -/
def perstDeassert (s : State) : State :=
  let s := { s with ao := { s.ao with perst := false } }
  match s.ao.phase with
  | .perstHeld => if s.ao.booted then configure s else boot s
  | .recovery => if s.dev.sec.selftestOk then boot s else s
  | _ => s

def execPerstDeassert (s : State) : Res := runAo perstDeassert s

/-! ## Loss of power (R431, R521, R522, R525, R532) -/

/-- What is kept of the always-on domain where power goes: the flash, and the pins that the board drives. -/
def flashOnly (a : Ao) : Ao :=
  { Ao.reset with
    perst := a.perst
    banks := a.banks
    bank := a.bank
    pendingBank := a.pendingBank
    minSvn := a.minSvn
    trst := a.trst
    jtagIr := a.jtagIr }

/-- POR_FALL: every domain is held in reset; the thermal pins are released (R531). -/
def porFall (s : State) : State :=
  let d := if s.ao.thermTrip then emit (.pin "THERM_TRIP#" true) s.dev else s.dev
  let d := if s.ao.thermAlert then emit (.pin "THERM_ALERT#" true) d else d
  { s with ao := flashOnly s.ao, dev := powerLost d }

def execPorFall (s : State) : Res := runAo porFall s

/-- The state of R522, entered once, with every cause reported. The AO domain keeps the thermal pins, and the trip points of the grade. -/
def enterLoss (cause : String) (args : List Nat) (s : State) : State :=
  if s.ao.phase = .held then s
  else
    let d := if s.ao.phase = .powerLoss then s.dev else { powerLost s.dev with grade := s.dev.grade }
    { s with
      ao := { s.ao with phase := .powerLoss, booted := false, causes := s.ao.causes ++ [cause] }
      dev := emit (.mctp cause args) d }

/-- RAIL_FAULT. -/
def execRailFault (rail : Nat) (s : State) : Res := runAo (enterLoss "RAIL_FAULT" [rail]) s

/-- SYSCLK_LOSS: SMBus and MCTP go on from the on-die oscillator. -/
def execSysclkLoss (s : State) : Res := runAo (enterLoss "SYSCLK_LOSS" []) s

/-! ## Reference clocks (R525) -/

/-- Logical ports that a fabric reference clock serves. -/
def fabServed (g : Nat) : List Nat := (List.range 8).map fun i => 8 * g + i

/-- REFCLK_LOSS: the ports go down with cause 0. -/
def refclkLoss (acc : Bool) (g : Nat) (s : Dev) : Dev :=
  let s := { s with refLost := s.refLost ++ [(acc, g)] }
  if acc then (List.range 4).foldl (fun s i => linkLoss (4 * g + i) s) s
  else (fabServed g).foldl (fun s n => portDown n 0 s) s

/-- Such a clock exists. -/
def refclkNamed (acc : Bool) (g : Nat) : Bool := if acc then decide (g < 2) else decide (g < 8)

/-- A clock that stops; while the ports are held in reset only that is kept. -/
def refclkStops (acc : Bool) (g : Nat) (s : State) : State :=
  if !refclkNamed acc g || s.dev.refLost.contains (acc, g) then s
  else if alive s.ao then onDev (fun d => settleAll (startTriggered (refclkLoss acc g d))) s
  else onDev (fun d => { d with refLost := d.refLost ++ [(acc, g)] }) s

def execRefclkLoss (acc : Bool) (g : Nat) (s : State) : Res := runAo (refclkStops acc g) s

/-- REFCLK_RESTORED: the ports train again. -/
def refclkBack (acc : Bool) (g : Nat) (s : State) : State :=
  if !s.dev.refLost.contains (acc, g) then s
  else
    let l := if acc then (List.range 4).map fun i => 64 + 4 * g + i else fabServed g
    let train := fun (d : Dev) =>
      l.foldl (fun d n => if portNamed d n then modPort n (fun p => { p with training := true }) d else d) d
    onDev (fun d =>
      let d := { d with refLost := d.refLost.filter fun x => !(x == (acc, g)) }
      if alive s.ao then train d else d) s

def execRefclkRestored (acc : Bool) (g : Nat) (s : State) : Res := runAo (refclkBack acc g) s

/-! ## Temperature (R530, R531) -/

/-- The alert and trip points of the logic die (Table 17.6), by GRADE: 1 is the CC part. -/
def alertPoint (s : Dev) : Nat := if s.grade = 1 then 100 else 90
def tripPoint (s : Dev) : Nat := if s.grade = 1 then 115 else 105

/-- THERM_ALERT: asserted at the alert point, with the temperature over MCTP; released 3 K below it. -/
def thermAlertAt (tj : Nat) (s : State) : State :=
  if s.ao.phase = .held then s
  else if !s.ao.thermAlert && decide (alertPoint s.dev ≤ tj) then
    { s with
      ao := { s.ao with thermAlert := true }
      dev := emit (.mctp "THERM_ALERT" [tj]) (emit (.pin "THERM_ALERT#" false) s.dev) }
  else if s.ao.thermAlert && decide (tj + 3 ≤ alertPoint s.dev) then
    { s with ao := { s.ao with thermAlert := false }, dev := emit (.pin "THERM_ALERT#" true) s.dev }
  else s

def execThermAlert (tj : Nat) (s : State) : Res := runAo (thermAlertAt tj) s

/-- THERM_TRIP: the trip point has been held for 10 µs. -/
def thermTripAt (tj : Nat) (dram : List Nat) (s : State) : State :=
  if s.ao.phase = .held ∨ (tj < tripPoint s.dev ∧ dram.all (fun d => decide (d ≤ 105)) = true) then s
  else
    enterLoss "THERM_TRIP" (tj :: dram)
      (if s.ao.thermTrip then s
       else { s with ao := { s.ao with thermTrip := true }, dev := emit (.pin "THERM_TRIP#" false) s.dev })

def execThermTrip (tj : Nat) (dram : List Nat) (s : State) : Res := runAo (thermTripAt tj dram) s

/-- SENSOR_REPORT: the hotspot, each DRAM die and each rail's current, over MCTP. -/
def sensorReport (r : Sensors) (s : State) : State :=
  if s.ao.phase = .held then s else onDev (emit (.mctp "SENSORS" (r.tj :: (r.dram ++ r.rails)))) s

def execSensorReport (r : Sensors) (s : State) : Res := runAo (sensorReport r) s

end Sys2Proof.Machine
end

