-- ==== Sys2Proof/Machine/HostRegs.lean ====
section
/-!
DEFINITION. Sys2Proof/Machine/HostRegs.lean: REGISTER_WRITE, a write of BAR0 by its offset (R348, R456, R499, R505 to R508, Tables
16.1 to 16.3). Registers with a row of their own act here as that row does.
-/
namespace Sys2Proof.Machine

/-! ## Parts of a word -/

/-- An 8-byte register's value after a write of `size` bytes at `off`: the half that is not written stays as it reads (R506). -/
def mergeWord (old : Nat) (off size : Nat) (v : U64) : U64 :=
  if size = 8 then v
  else if off % 8 = 0 then BitVec.ofNat 64 (old / 2 ^ 32 * 2 ^ 32 + low v.toNat 32)
  else BitVec.ofNat 64 (low old 32 + low v.toNat 32 * 2 ^ 32)

/-- The written bits of an 8-byte register, the others 0: for registers that store nothing, and for RW1C bits. -/
def writtenWord (off size : Nat) (v : U64) : U64 := mergeWord 0 off size v

/-- A 32-bit register's upper four bytes ignore writes. -/
def hitsLow (off : Nat) : Bool := decide (off % 8 = 0)

/-- A field takes a value within its range, else it keeps what it has (R506). -/
def inRange (old v lo hi : Nat) : Nat := if lo ≤ v ∧ v ≤ hi then v else old

/-! ## CMD (Table 14.1, R456, R457) -/

/-- A base of queue 0's rings, while EN is 0. -/
def aq0Base (reply : Bool) (v : U64) (s : Dev) : Dev :=
  modAq 0 (fun a => if a.en || a.closing then a else if reply then { a with rbase := v.toNat } else { a with cbase := v.toNat }) s

/-- CMD_AQ_RCONS: a write of the upper half alone carries ARM and no new index. -/
def rconsWord (n off size : Nat) (v : U64) (s : Dev) : U64 :=
  if size = 4 ∧ off % 8 = 4 then writtenWord off size v ||| BitVec.ofNat 64 (getAq s n).rcons.toNat else writtenWord off size v

def cmdWrite (o size : Nat) (v : U64) (s : Dev) : Dev :=
  let n := o / 0x1000
  let r := o % 0x1000 / 8 * 8
  if 519 < n then s
  else if r = 0x00 then (if hitsLow o then aqProd n (writtenWord o size v) s else s)
  else if r = 0x08 then aqRcons n (rconsWord n o size v s) s
  else if n ≠ 0 then s
  else
    let w := mergeWord (cmdRead s r) o size v
    if r = 0x10 then aq0Write w s
    else if r = 0x18 then aq0Base false w s
    else if r = 0x20 then aq0Base true w s
    else s

/-! ## HIF and ACP (Tables 10.3, 10.4, 10.7) -/

def hifWrite (o size : Nat) (v : U64) (s : Dev) : Dev :=
  if o = 0x000 then { s with host := { s.host with cfg := BitVec.ofNat 32 (low v.toNat 32) &&& 0xC } }
  else if o / 8 * 8 = 0x100 then winCtlWrite (mergeWord (hifRead s 0x100) o size v) s
  else s

def acpWrite (o size : Nat) (v : U64) (s : Dev) : Dev :=
  let a := o / 0x10000
  let r := o % 0x10000
  if 7 < a then s
  else if r = 0x00 then modIo a (fun p => { p with cfg := writeAcpCfg p.cfg (BitVec.ofNat 32 (low v.toNat 32)) }) s
  else if r / 8 * 8 = 0x08 then
    modIo a (fun p => { p with dbBase := mergeWord p.dbBase.toNat r size v &&& ~~~(0x1FFFFFF : U64) }) s
  else s

/-! ## FAB (Tables 7.1, 16.3, 16.9) -/

/-- Fields of eight bytes: `mask` repeated. -/
def perByte (mask : Nat) : U64 := BitVec.ofNat 64 (mask * 0x0101010101010101)

def fabWrite (o size : Nat) (v : U64) (s : Dev) : Dev :=
  let p := o / 0x10000
  let r := o % 0x10000
  let f := getFab s p
  let w := fun (old : Nat) => mergeWord old r size v
  if 31 < p then s
  else if r = 0x00 then setFab p { f with cfg := writeFabCfg f.cfg (BitVec.ofNat 32 (low v.toNat 32)) } s
  else
    match r / 8 * 8 with
    | 0x10 => vcThreshWrite p false (w f.threshA.toNat) s
    | 0x18 => vcThreshWrite p true (w f.threshB.toNat) s
    | 0x20 => setFab p { f with asym := BitVec.ofNat 32 (low (w f.asym.toNat).toNat 32) } s
    | 0x100 => setFab p { f with pcp := w f.pcp.toNat &&& perByte 0x07 } s
    | 0x108 => setFab p { f with dscp := w f.dscp.toNat &&& perByte 0x3F } s
    | 0x110 => setFab p { f with udpPort := low (w f.udpPort).toNat 16 } s
    | _ => s

/-! ## RTG, TPT, SCH (Table 16.3) -/

def rtgRegWrite (o size : Nat) (v : U64) (s : Dev) : Dev :=
  let r := s.routing
  let w := fun (old : Nat) => (mergeWord old o size v).toNat
  let b := o / 8 * 8
  if b = 0x08 then selfEpidWrite (mergeWord r.selfEpid o size v) s
  else if 0x40 ≤ b ∧ b < 0x80 then
    let k := (b - 0x40) / 8
    if k = 1 ∨ k = 7 then s
    else pumpEscape { s with routing := { r with vcPorts := tset r.vcPorts k (mergeWord (vcPortsRead s k) o size v) } }
  else
    let r' := match b with
      | 0x00 => { r with g := inRange r.g (low (w r.g) 4) 4 14 }
      | 0x10 => { r with escWait := inRange r.escWait (low (w r.escWait) 17) 100 100000 }
      | 0x18 => { r with nmBias := inRange r.nmBias (low (w r.nmBias) 21) 0 1048576 }
      | 0x20 => { r with floodHops := low (w r.floodHops) 3 }
      | _ => r
    { s with routing := r' }

def tptWrite (o size : Nat) (v : U64) (s : Dev) : Dev :=
  if o / 8 * 8 = 0 then { s with rtoBase := inRange s.rtoBase (low (mergeWord s.rtoBase o size v).toNat 32) 8000 4000000 } else s

/-- SCH_TC_WEIGHT: six weights of one byte, 1 to 255 each. -/
def tcWeights (old w : U64) : U64 :=
  BitVec.ofNat 64 (pack ((List.range 6).map fun c => (inRange (fld old (8 * c + 7) (8 * c)) (fld w (8 * c + 7) (8 * c)) 1 255, 8)))

def schPortWrite (n r size : Nat) (v : U64) (s : Dev) : Dev :=
  if 63 < n then s
  else
    match r / 8 * 8 with
    | 0x00 => modPort n (fun p => { p with tcWeight := tcWeights p.tcWeight (mergeWord p.tcWeight.toNat r size v) }) s
    | 0x08 => modPort n (fun p => { p with
        transitWeight := inRange p.transitWeight (low (mergeWord p.transitWeight r size v).toNat 12) 1 4095 }) s
    | 0x10 => gateCtlWrite n (mergeWord (gateCtl s n) r size v) s
    | _ => s

/-- The marking threshold: a multiple of 8,192 in its range. -/
def ceThreshWrite (w : Nat) (s : Dev) : Dev :=
  let t := low w 21
  if t % 8192 = 0 then { s with ceThresh := inRange s.ceThresh t 8192 1048576 } else s

def schWrite (o size : Nat) (v : U64) (s : Dev) : Dev :=
  if 0x10000 ≤ o then schPortWrite ((o - 0x10000) / 0x2000) ((o - 0x10000) % 0x2000) size v s
  else if o = 0x10 then timeCfgWrite (BitVec.ofNat 32 (low v.toNat 32)) s
  else if o / 8 * 8 = 0x28 then ceThreshWrite (mergeWord s.ceThresh o size v).toNat s
  else s

/-! ## SMC, PWR, DBG (Tables 11.3, 15.6, 12.9, 12.10) -/

def smcWrite (o : Nat) (v : U64) (s : Dev) : Dev :=
  if o = 0x10 then
    { s with scrubHours := inRange s.scrubHours (fld v 23 16) 0 168, rowThresh := inRange s.rowThresh (fld v 7 0) 1 255 }
  else s

/-- PWR_RESET_CTL: TYPE 0x1 and 0x2 start a reset; other values are ignored (R499). -/
def pwrWrite (o : Nat) (v : U64) (s : Dev) : Dev :=
  if o ≠ 0x10 then s
  else if fld v 3 0 = 1 then mgmtReset s
  else if fld v 3 0 = 2 then transitOnlyReset s
  else s

def dbgWrite (o size : Nat) (v : U64) (s : Dev) : Dev :=
  let k := (o - 0x10000) / 0x40
  let r := o % 0x40 / 8 * 8
  if o < 0x10000 ∨ 81 < k ∨ bit (writtenWord o size v) 63 = false then s
  else if r = 0x00 then errFirstClear k s
  else if r = 0x08 then errNextClear k s
  else s

/-! ## REGISTER_WRITE -/

/-- A write of a block of Table 16.2. GEN, EVT, TXE, XLT and SLC ignore it; SEC discards what comes from the host (R508). -/
def blockWrite (block o size : Nat) (v : U64) (fromHost : Bool) (s : Dev) : Dev :=
  match block with
  | 0x1 => cmdWrite o size v s
  | 0x3 => hifWrite o size v s
  | 0x4 => acpWrite o size v s
  | 0x5 => fabWrite o size v s
  | 0x6 => rtgRegWrite o size v s
  | 0x7 => tptWrite o size v s
  | 0x8 => schWrite o size v s
  | 0xB => smcWrite o v s
  | 0xC => if fromHost then bump 0x2E 0 s else s
  | 0xD => pwrWrite o v s
  | 0xF => dbgWrite o size v s
  | _ => s

/-- REGISTER_WRITE: from the host only 4 and 8 bytes, naturally aligned (R348). Before READY the host reaches no register (R523). -/
def registerWrite (off size : Nat) (v : U64) (fromHost : Bool) (s : Dev) : Dev :=
  if fromHost && !s.ready then s
  else if !((size == 4 || size == 8) && off % size == 0) then (if fromHost then bump 0x2B 0 s else s)
  else if 0x04000000 ≤ off then s
  else blockWrite (off / 0x400000) (off % 0x400000) size v fromHost s

def execRegisterWrite (offset size : Nat) (value : U64) (fromHost : Bool) (s : State) : Res :=
  runRetire (registerWrite offset size value fromHost) s

end Sys2Proof.Machine
end

