-- ==== Sys2Proof/Machine/Miss.lean ====
section
/-!
DEFINITION. Sys2Proof/Machine/Miss.lean: CONTEXT_FETCH_DONE and WINDOW_FETCH_DONE with the mirrored backing store (R77, R78,
R115, R390, R391), and what a device-fatal error does (R22, R418).
-/
namespace Sys2Proof.Machine

/-! ## Device-fatal errors (R418) -/

/-- A device-fatal error: latched, and once it has stopped the data plane only that. -/
def deviceFatal (k code l0 l1 l2 : Nat) (s : Dev) : Dev :=
  let s := latch k code 4 none l0 l1 l2 s
  if s.dataStopped then s
  else
    let s := fabricLost s
    let s := parentDown { s with dataStopped := true, ports := tmap s.ports fun _ p => freshLink p, escWaiting := [] }
    let s := (List.range 8).foldl (fun s a => fence a s) s
    emit (.mctp "DEVICE_FATAL" [k, code]) (devEvent 0x74 4 k k code 0 s)

/-! ## Uncorrectable lines (R385, R391) -/

/-- SMEM_UE of a line, with the record header of the object it held, or 0. -/
def smemUe (addr header : Nat) (s : Dev) : Dev :=
  let k := (smemMap addr).1
  devEvent 0x61 2 (bankSmc k) (stackChan addr) addr header (latch (bankSmc k) 0x0701 2 none addr (stackChan addr) header s)

/-- A mirrored object of `n` bytes is read: from its mirror where the primary reads poisoned, and the primary's lines are then written
again from it. False where both copies are lost. A copy reads poisoned by its markers, or by what its read now finds. -/
def readMirrored (addr n header : Nat) (primaryBad mirrorBad : Bool) (s : Dev) : Bool × Dev :=
  let lines := linesOf addr n
  if !(primaryBad || poisonedAt s addr n) then (true, s)
  else if !(mirrorBad || poisonedAt s (mirrorOf addr) n) then
    (true, smemUe addr header { s with poison := s.poison.filter fun l => !lines.contains l })
  else
    let k := (smemMap addr).1
    let s := markPoison (lines ++ linesOf (mirrorOf addr) n) s
    (false, deviceFatal (bankSmc k) 0x0702 addr 0 header (devEvent 0x63 4 (bankSmc k) 0 0 header s))

/-! ## CONTEXT_FETCH_DONE (R77, R78) -/

/-- A packet parked for its context is looked at. -/
def contextReady (x : Parked) (s : Dev) : Dev :=
  let s := takeParked x s
  match getQp s x.qpn with
  | none => s
  | some q =>
    if pkIsResp (phOp x.p.hdr) then
      (if (getSlice s q.slice).st = .faultStop then s else rxRespOnDie x.qpn x.link x.p x.since s)
    else rxOnDie x.qpn x.link x.p x.since s

/-- The context is on-die: the packets parked for it go on in arrival order. -/
def contextFetched (qpn : Nat) (primaryBad mirrorBad : Bool) (s : Dev) : Dev :=
  match getQp s qpn with
  | none => s
  | some q =>
    let l := (parkedIn s (pipeOf qpn)).filter fun x => x.qpn == qpn && x.why == .context
    if (q.cached && l.isEmpty) || !dataOn s then s
    else
      match readMirrored (contextAddr qpn) 512 (recordHeader 2 qpn 512) primaryBad mirrorBad s with
      | (false, s) => s
      | (true, s) =>
        let s := cacheContext qpn s
        l.foldl (fun s x => contextReady x s) s

def execContextFetchDone (qpn : Nat) (primaryBad mirrorBad : Bool) (s : State) : Res :=
  runRetire (contextFetched qpn primaryBad mirrorBad) s

/-! ## WINDOW_FETCH_DONE (R115) -/

/-- A live entry that is not on-die enters the window cache. -/
def cacheWindow (i : Nat) (s : Dev) : Dev :=
  match tget s.windows i with
  | none => s
  | some w =>
    if w.v && !w.cached then
      let s := evictWindow (pipeOf i) s
      { s with windows := tset s.windows i { w with cached := true, stored := encWindow w } }
    else s

/-- The packets parked for a window go on in arrival order, each in its pipeline. -/
def windowFetched (i : Nat) (primaryBad mirrorBad : Bool) (s : Dev) : Dev :=
  let l := (List.range 4).flatMap fun k => (parkedIn s k).filter fun x => x.why == .window i
  let out := (tget s.windows i).any fun w => w.v && !w.cached
  if !dataOn s || (l.isEmpty && !out) then s
  else
    match readMirrored (windowAddr i) 16 (recordHeader 4 i 16) primaryBad mirrorBad s with
    | (false, s) => s
    | (true, s) => l.foldl (fun s x => unpark x s) (cacheWindow i s)

def execWindowFetchDone (index : Nat) (primaryBad mirrorBad : Bool) (s : State) : Res :=
  runRetire (windowFetched index primaryBad mirrorBad) s

end Sys2Proof.Machine
end

