-- ==== Sys2Proof/Machine/Smem.lean ====
section
/-!
DEFINITION. Sys2Proof/Machine/Smem.lean: the stacks' own work: what the ECC finds on a read or a scrub (R384 to R387), and refresh
with its calibration margins (R388, R389).
-/
namespace Sys2Proof.Machine

/-! ## ECC outcomes (Table 11.2) -/

/-- The record header of the object whose copy lies at an address of the backing store (Table 11.5, Table 12.6), or 0. A line of the
window table holds two entries, of which the first is named. -/
def objectAt (s : Dev) (a : Nat) : Nat :=
  let at_ := fun (n bytes : Nat) (there : Bool) (type : Nat) => if there then recordHeader type n bytes else 0
  if a < 0x40000000 then
    let n := a / 4096 * 4 + a % 2048 / 512
    at_ n 512 (getQp s n).isSome 2
  else if a < 0x60000000 then
    let n := (a - 0x40000000) / 4096 * 128 + a % 2048 / 16
    at_ n 16 ((tget s.windows n).any fun w => w.v) 4
  else if a < 0x62000000 then
    let n := (a - 0x60000000) / 4096 * 32 + a % 2048 / 64
    at_ n 64 (tget s.cqs n).isSome 3
  else 0

/-- A new scrub interval counts its corrections from zero. -/
def scrubInterval (s : Dev) : Dev :=
  let t := s.scrubHours * 3600000000000
  if t = 0 ∨ s.now < s.scrubSince + t then s
  else { s with rowCounts := [], scrubSince := s.scrubSince + (s.now - s.scrubSince) / t * t }

/-- A line was corrected: counted, and SMEM_ROW_WEAK when its row reaches ROW_THRESH corrections. -/
def corrected (a : Nat) (s : Dev) : Dev :=
  let s := scrubInterval (bump 0x30 (stackChan a) s)
  let row := Config.rowOf (a / 32)
  let n := tgetD s.rowCounts row 0 + 1
  let s := { s with rowCounts := tset s.rowCounts row n }
  if n = s.rowThresh then devEvent 0x60 1 (bankSmc (smemMap a).1) (stackChan a) a 0 s else s

/-- What the code finds in a line with `k` erroneous 8-bit symbols (R384): one is corrected, two or three are detected. More lie outside
its guarantee, and `v` chooses (log 182). -/
def eccFinding (k v : Nat) : EccOutcome :=
  if k = 0 then .clean
  else if k = 1 then .corrected
  else if k ≤ 3 then .uncorrectable
  else match v % 3 with
    | 0 => .clean
    | 1 => .corrected
    | _ => .uncorrectable

/-- An error beyond the code's guarantee that it does not find leaves other bytes in the line. -/
def wrongBytes (k a : Nat) (s : Dev) : Dev :=
  if k < 4 then s
  else
    let (v, s) := freshValue s
    { s with mem := memWrite s.mem a (natLe v 32) }

/-- A line has been read with `k` of its symbols in error. One that carries the poison marker is reported no more. -/
def lineRead (line k : Nat) (s : Dev) : Dev :=
  let a := line * 32
  if smemBytes ≤ a ∨ poisonedLine s line = true then s
  else
    let (v, s) := if k < 4 then (0, s) else freshValue s
    match eccFinding k v with
    | .clean => wrongBytes k a s
    | .corrected => corrected a (wrongBytes k a s)
    | .uncorrectable => smemUe a (objectAt s a) (markPoison [line] s)

/-- STACK_READ_RETURN. -/
def execStackReadReturn (line symbols : Nat) (s : State) : Res := runLevels (lineRead line symbols) s

/-- PATROL_SCRUB: SCRUB_HOURS 0 disables it, and it pauses in MERINGUE (R387, R490). -/
def patrolScrub (line symbols : Nat) (s : Dev) : Dev :=
  if s.scrubHours = 0 ∨ (getPower s (.stack (smemMap (line * 32)).1)).st = .meringue then s else lineRead line symbols s

def execPatrolScrub (line symbols : Nat) (s : State) : Res := runLevels (patrolScrub line symbols) s

/-! ## Refresh (Table 11.4, R389) -/

/-- The refresh window by the hottest DRAM die. -/
def refreshWindow (temp : Nat) : Nat := if temp ≤ 85 then 0 else if temp ≤ 95 then 1 else 2

/-- SMEM_REFRESH: the window follows the temperature. `margin` is a pin whose margin has been measured: channel, pin, and the margin
in 1/128 of a unit interval. -/
def smemRefresh (k temp : Nat) (margin : Option (Nat × Nat × Nat)) (s : Dev) : Dev :=
  if 4 ≤ k then s
  else
    let s := { s with dies := tset s.dies k { getDie s k with temp := temp, refresh := refreshWindow temp } }
    match margin with
    | none => s
    | some (chan, pin, m) => if m < 8 then devEvent 0x62 1 (bankSmc k) (k * 16 + chan) pin 0 s else s

def execSmemRefresh (stack temp : Nat) (margin : Option (Nat × Nat × Nat)) (s : State) : Res :=
  runLevels (smemRefresh stack temp margin) s

end Sys2Proof.Machine
end

