-- ==== Sys2Proof/Machine/Dispatch.lean ====
section
/-!
DEFINITION. Sys2Proof/Machine/Dispatch.lean: one arm per command, each a direct call of its meaning.
-/
namespace Sys2Proof.Machine

def exec (i : Instr) (s : State) : Host.Outcome State Fault Refusal :=
  match i with
  | .aqCreate h n lg space cbase rbase vector => Sys2Proof.Machine.execAqCreate h n lg space cbase rbase vector s
  | .aqDestroy h n => Sys2Proof.Machine.execAqDestroy h n s
  | .devModeSet h routeHa evtHa => Sys2Proof.Machine.execDevModeSet h routeHa evtHa s
  | .devQuery h kind code index offset => Sys2Proof.Machine.execDevQuery h kind code index offset s
  | .selfTest h kind lane target base length => Sys2Proof.Machine.execSelfTest h kind lane target base length s
  | .selfTestDone kind target a b failed => Sys2Proof.Machine.execSelfTestDone kind target a b failed s
  | .pwrSet h p => Sys2Proof.Machine.execPwrSet h p s
  | .qpCreate h p => Sys2Proof.Machine.execQpCreate h p s
  | .qpModify h p => Sys2Proof.Machine.execQpModify h p s
  | .qpDestroy h qpn => Sys2Proof.Machine.execQpDestroy h qpn s
  | .qpQuery h qpn space addr => Sys2Proof.Machine.execQpQuery h qpn space addr s
  | .qpPin h qpn => Sys2Proof.Machine.execQpPin h qpn s
  | .qpUnpin h qpn => Sys2Proof.Machine.execQpUnpin h qpn s
  | .wqInvalidate h qpn queue => Sys2Proof.Machine.execWqInvalidate h qpn queue s
  | .cqCreate h cqn ring stall => Sys2Proof.Machine.execCqCreate h cqn ring stall s
  | .cqModify h cqn stall => Sys2Proof.Machine.execCqModify h cqn stall s
  | .cqDestroy h cqn => Sys2Proof.Machine.execCqDestroy h cqn s
  | .cqQuery h cqn => Sys2Proof.Machine.execCqQuery h cqn s
  | .winCreate h perm space base length => Sys2Proof.Machine.execWinCreate h perm space base length s
  | .winDestroy h wkey => Sys2Proof.Machine.execWinDestroy h wkey s
  | .winQuery h index => Sys2Proof.Machine.execWinQuery h index s
  | .xltRootSet h space root => Sys2Proof.Machine.execXltRootSet h space root s
  | .xltInval h space whole base length => Sys2Proof.Machine.execXltInval h space whole base length s
  | .xltInvalWait h epoch => Sys2Proof.Machine.execXltInvalWait h epoch s
  | .invalHoldersDone slice window => Sys2Proof.Machine.execInvalHoldersDone slice window s
  | .invalTimeoutExpiry slice window => Sys2Proof.Machine.execInvalTimeoutExpiry slice window s
  | .xltResolve h items cons => Sys2Proof.Machine.execXltResolve h items cons s
  | .fqCreate h ring => Sys2Proof.Machine.execFqCreate h ring s
  | .txeLoad h slot mask space image => Sys2Proof.Machine.execTxeLoad h slot mask space image s
  | .txePlanLoad h items => Sys2Proof.Machine.execTxePlanLoad h items s
  | .txeUnload h slot => Sys2Proof.Machine.execTxeUnload h slot s
  | .txeAuxWrite h slot offset data => Sys2Proof.Machine.execTxeAuxWrite h slot offset data s
  | .txeSeed h mask seed => Sys2Proof.Machine.execTxeSeed h mask seed s
  | .collCreate h p => Sys2Proof.Machine.execCollCreate h p s
  | .collDestroy h group => Sys2Proof.Machine.execCollDestroy h group s
  | .collReset h group => Sys2Proof.Machine.execCollReset h group s
  | .moeBind h p => Sys2Proof.Machine.execMoeBind h p s
  | .stageBind h p => Sys2Proof.Machine.execStageBind h p s
  | .stageReplay h stream from_ => Sys2Proof.Machine.execStageReplay h stream from_ s
  | .stageQuery h stream => Sys2Proof.Machine.execStageQuery h stream s
  | .trigCreate h p => Sys2Proof.Machine.execTrigCreate h p s
  | .trigArm h trig threshold => Sys2Proof.Machine.execTrigArm h trig threshold s
  | .trigDestroy h trig => Sys2Proof.Machine.execTrigDestroy h trig s
  | .portRetrain h n => Sys2Proof.Machine.execPortRetrain h n s
  | .routesetSet h n entry => Sys2Proof.Machine.execRoutesetSet h n entry s
  | .rtgWrite h writes => Sys2Proof.Machine.execRtgWrite h writes s
  | .rtgSwap h => Sys2Proof.Machine.execRtgSwap h s
  | .epMap h logical entry => Sys2Proof.Machine.execEpMap h logical entry s
  | .neighSet h p => Sys2Proof.Machine.execNeighSet h p s
  | .shaperSet h kind object tc rate burst reset => Sys2Proof.Machine.execShaperSet h kind object tc rate burst reset s
  | .ccProfileSet h n p => Sys2Proof.Machine.execCcProfileSet h n p s
  | .meterSet h cir pir cbs pbs => Sys2Proof.Machine.execMeterSet h cir pir cbs pbs s
  | .histAttach h mon kind object tc binMode step => Sys2Proof.Machine.execHistAttach h mon kind object tc binMode step s
  | .histDetach h mon => Sys2Proof.Machine.execHistDetach h mon s
  | .histRead h mon clear => Sys2Proof.Machine.execHistRead h mon clear s
  | .timeSet h ns => Sys2Proof.Machine.execTimeSet h ns s
  | .timeAdj h offset => Sys2Proof.Machine.execTimeAdj h offset s
  | .gateSet h port cycle baseTime entries => Sys2Proof.Machine.execGateSet h port cycle baseTime entries s
  | .gateListActivate port => Sys2Proof.Machine.execGateListActivate port s
  | .gateIntervalAdvance port => Sys2Proof.Machine.execGateIntervalAdvance port s
  | .fbrCreate h ring => Sys2Proof.Machine.execFbrCreate h ring s
  | .fbrAck h cons => Sys2Proof.Machine.execFbrAck h cons s
  | .sliceCreate h p => Sys2Proof.Machine.execSliceCreate h p s
  | .sliceModify h p => Sys2Proof.Machine.execSliceModify h p s
  | .sliceQuota h limits poisoned => Sys2Proof.Machine.execSliceQuota h limits poisoned s
  | .sliceBind h p => Sys2Proof.Machine.execSliceBind h p s
  | .sliceSmemAdd h base length => Sys2Proof.Machine.execSliceSmemAdd h base length s
  | .sliceSmemRemove h base length => Sys2Proof.Machine.execSliceSmemRemove h base length s
  | .sliceReset h report => Sys2Proof.Machine.execSliceReset h report s
  | .sliceResetDrained slice => Sys2Proof.Machine.execSliceResetDrained slice s
  | .sliceDestroy h report => Sys2Proof.Machine.execSliceDestroy h report s
  | .extentZeroDone base => Sys2Proof.Machine.execExtentZeroDone base s
  | .hostResume h port action discard => Sys2Proof.Machine.execHostResume h port action discard s
  | .snapExport h scope addr => Sys2Proof.Machine.execSnapExport h scope addr s
  | .snapImport h image => Sys2Proof.Machine.execSnapImport h image s
  | .snapThaw h scope => Sys2Proof.Machine.execSnapThaw h scope s
  | .evqCreate h queue ring vector => Sys2Proof.Machine.execEvqCreate h queue ring vector s
  | .evqAck h queue cons arm => Sys2Proof.Machine.execEvqAck h queue cons arm s
  | .wmSet h entry kind object level => Sys2Proof.Machine.execWmSet h entry kind object level s
  | .wmRead h entry => Sys2Proof.Machine.execWmRead h entry s
  | .wmAck h entry => Sys2Proof.Machine.execWmAck h entry s
  | .wmClear h entry => Sys2Proof.Machine.execWmClear h entry s
  | .keyInstall h slot dir position key => Sys2Proof.Machine.execKeyInstall h slot dir position key s
  | .keyFree h slot => Sys2Proof.Machine.execKeyFree h slot s
  | .keyQuery h slot => Sys2Proof.Machine.execKeyQuery h slot s
  | .kekSet m slice kek => Sys2Proof.Machine.execKekSet m slice kek s
  | .fwUpdate m offset bytes bank => Sys2Proof.Machine.execFwUpdate m offset bytes bank s
  | .secZeroise m => Sys2Proof.Machine.execSecZeroise m s
  | .spdmRequest code session => Sys2Proof.Machine.execSpdmRequest code session s
  | .getMeasurements session => Sys2Proof.Machine.execGetMeasurements session s
  | .rawBlockRequest encrypt key blocks => Sys2Proof.Machine.execRawBlockRequest encrypt key blocks s
  | .debugUnlock signed => Sys2Proof.Machine.execDebugUnlock signed s
  | .jtagInstruction ir => Sys2Proof.Machine.execJtagInstruction ir s
  | .cmdAqProd queue value => Sys2Proof.Machine.execCmdAqProd queue value s
  | .cmdAqRcons queue value => Sys2Proof.Machine.execCmdAqRcons queue value s
  | .commandFetchReturn queue packets => Sys2Proof.Machine.execCommandFetchReturn queue packets s
  | .commandReread queue => Sys2Proof.Machine.execCommandReread queue s
  | .commandTimeout queue index => Sys2Proof.Machine.execCommandTimeout queue index s
  | .aq0Enable value => Sys2Proof.Machine.execAq0Enable value s
  | .aq0Disable value => Sys2Proof.Machine.execAq0Disable value s
  | .mgmtPlaneReset => Sys2Proof.Machine.execMgmtPlaneReset s
  | .mgmtWatchdogExpiry => Sys2Proof.Machine.execMgmtWatchdogExpiry s
  | .transitOnlyReset => Sys2Proof.Machine.execTransitOnlyReset s
  | .hifWinCtlWrite value => Sys2Proof.Machine.execHifWinCtlWrite value s
  | .schGateCtlWrite port value => Sys2Proof.Machine.execSchGateCtlWrite port value s
  | .fabVcThreshWrite port halfB value => Sys2Proof.Machine.execFabVcThreshWrite port halfB value s
  | .rtgSelfEpidWrite value => Sys2Proof.Machine.execRtgSelfEpidWrite value s
  | .schTimeCfgWrite value => Sys2Proof.Machine.execSchTimeCfgWrite value s
  | .errFirstClear bank => Sys2Proof.Machine.execErrFirstClear bank s
  | .errNextClear bank => Sys2Proof.Machine.execErrNextClear bank s
  | .schTimeNsRead => Sys2Proof.Machine.execSchTimeNsRead s
  | .registerWrite offset size value fromHost => Sys2Proof.Machine.execRegisterWrite offset size value fromHost s
  | .bar4Write offset data ep => Sys2Proof.Machine.execBar4Write offset data ep s
  | .bar4Read offset length => Sys2Proof.Machine.execBar4Read offset length s
  | .doorbell port slice word whole => Sys2Proof.Machine.execDoorbell port slice word whole s
  | .cqConsumed port slice word => Sys2Proof.Machine.execCqConsumed port slice word s
  | .cqArm port slice word => Sys2Proof.Machine.execCqArm port slice word s
  | .pushPageWrite port slice page offset data => Sys2Proof.Machine.execPushPageWrite port slice page offset data s
  | .pushTrigger port slice page word => Sys2Proof.Machine.execPushTrigger port slice page word s
  | .entryFetchReturn qpn rq entries => Sys2Proof.Machine.execEntryFetchReturn qpn rq entries s
  | .entryReread qpn rq => Sys2Proof.Machine.execEntryReread qpn rq s
  | .entryStart qpn => Sys2Proof.Machine.execEntryStart qpn s
  | .packetBuild qpn source => Sys2Proof.Machine.execPacketBuild qpn source s
  | .egressPacketSelect port => Sys2Proof.Machine.execEgressPacketSelect port s
  | .rxRequestPacket link p => Sys2Proof.Machine.execRxRequestPacket link p s
  | .rxAck link p => Sys2Proof.Machine.execRxAck link p s
  | .rxNak link p => Sys2Proof.Machine.execRxNak link p s
  | .rxResponse link p => Sys2Proof.Machine.execRxResponse link p s
  | .cqStallTimeout cqn => Sys2Proof.Machine.execCqStallTimeout cqn s
  | .ackTimerExpiry qpn => Sys2Proof.Machine.execAckTimerExpiry qpn s
  | .rtoExpiry qpn => Sys2Proof.Machine.execRtoExpiry qpn s
  | .nakDelayExpiry qpn psn => Sys2Proof.Machine.execNakDelayExpiry qpn psn s
  | .busyLimitExpiry qpn => Sys2Proof.Machine.execBusyLimitExpiry qpn s
  | .pageWaitLimitExpiry qpn => Sys2Proof.Machine.execPageWaitLimitExpiry qpn s
  | .contextFetchDone qpn primaryBad mirrorBad => Sys2Proof.Machine.execContextFetchDone qpn primaryBad mirrorBad s
  | .windowFetchDone index primaryBad mirrorBad => Sys2Proof.Machine.execWindowFetchDone index primaryBad mirrorBad s
  | .walkDone slice space page => Sys2Proof.Machine.execWalkDone slice space page s
  | .crumbBatchTimer slice => Sys2Proof.Machine.execCrumbBatchTimer slice s
  | .faultTimeoutExpiry qpn fetch rq => Sys2Proof.Machine.execFaultTimeoutExpiry qpn fetch rq s
  | .failedRecordExpiry slice space page => Sys2Proof.Machine.execFailedRecordExpiry slice space page s
  | .atsCompletion slice page r w u size pfn => Sys2Proof.Machine.execAtsCompletion slice page r w u size pfn s
  | .prgResponse slice page code => Sys2Proof.Machine.execPrgResponse slice page code s
  | .atsInvalidateRequest pasid base length whole itag => Sys2Proof.Machine.execAtsInvalidateRequest pasid base length whole itag s
  | .itemDispatch item => Sys2Proof.Machine.execItemDispatch item s
  | .itemEnd item data => Sys2Proof.Machine.execItemEnd item data s
  | .rangeLockGrant item => Sys2Proof.Machine.execRangeLockGrant item s
  | .accumulateCommit qpn psn => Sys2Proof.Machine.execAccumulateCommit qpn psn s
  | .collStepStart group => Sys2Proof.Machine.execCollStepStart group s
  | .stepTimeoutExpiry group => Sys2Proof.Machine.execStepTimeoutExpiry group s
  | .prevGraceExpiry slot => Sys2Proof.Machine.execPrevGraceExpiry slot s
  | .keyWaitExpiry slot => Sys2Proof.Machine.execKeyWaitExpiry slot s
  | .rateTableRead qpn => Sys2Proof.Machine.execRateTableRead qpn s
  | .feedbackIntervalEnd slice => Sys2Proof.Machine.execFeedbackIntervalEnd slice s
  | .histSample => Sys2Proof.Machine.execHistSample s
  | .portTrained n peer rtt => Sys2Proof.Machine.execPortTrained n peer rtt s
  | .portDown n cause => Sys2Proof.Machine.execPortDown n cause s
  | .flitReceive n c => Sys2Proof.Machine.execFlitReceive n c s
  | .replayReq n seq => Sys2Proof.Machine.execReplayReq n seq s
  | .replayMiss n seq => Sys2Proof.Machine.execReplayMiss n seq s
  | .replayReqTimeout n => Sys2Proof.Machine.execReplayReqTimeout n s
  | .replayBufferExpiry n => Sys2Proof.Machine.execReplayBufferExpiry n s
  | .abort n vc => Sys2Proof.Machine.execAbort n vc s
  | .flow n off => Sys2Proof.Machine.execFlow n off s
  | .flowRefreshTimer n => Sys2Proof.Machine.execFlowRefreshTimer n s
  | .laneFailed n lane => Sys2Proof.Machine.execLaneFailed n lane s
  | .narrowComplete n peerLanes peerNext => Sys2Proof.Machine.execNarrowComplete n peerLanes peerNext s
  | .routeUpdate n u => Sys2Proof.Machine.execRouteUpdate n u s
  | .transitPacket n vc p uncorrectable => Sys2Proof.Machine.execTransitPacket n vc p uncorrectable s
  | .escWaitExpiry waiting => Sys2Proof.Machine.execEscWaitExpiry waiting s
  | .timeFlitSend n => Sys2Proof.Machine.execTimeFlitSend n s
  | .timeFlitReceive n t rxTime inReplay => Sys2Proof.Machine.execTimeFlitReceive n t rxTime inReplay s
  | .timeParentLost => Sys2Proof.Machine.execTimeParentLost s
  | .ppsInEdge at_ => Sys2Proof.Machine.execPpsInEdge at_ s
  | .ppsInMissing => Sys2Proof.Machine.execPpsInMissing s
  | .ppsOutPulse => Sys2Proof.Machine.execPpsOutPulse s
  | .ptpMessage n kind offset => Sys2Proof.Machine.execPtpMessage n kind offset s
  | .ethFrameReceive n f p => Sys2Proof.Machine.execEthFrameReceive n f p s
  | .pfcFrameReceive n enable times => Sys2Proof.Machine.execPfcFrameReceive n enable times s
  | .pfcPauseExpiry n priority => Sys2Proof.Machine.execPfcPauseExpiry n priority s
  | .pfcXoffRefresh n priority => Sys2Proof.Machine.execPfcXoffRefresh n priority s
  | .zalTransaction a hdr data => Sys2Proof.Machine.execZalTransaction a hdr data s
  | .accUpstreamRequest a write addr data => Sys2Proof.Machine.execAccUpstreamRequest a write addr data s
  | .portReadCompletion port tag status data => Sys2Proof.Machine.execPortReadCompletion port tag status data s
  | .hostReadTimeout tag => Sys2Proof.Machine.execHostReadTimeout tag s
  | .writeLogAck port tlps => Sys2Proof.Machine.execWriteLogAck port tlps s
  | .hostLinkLoss port => Sys2Proof.Machine.execHostLinkLoss port s
  | .hostLinkUp port => Sys2Proof.Machine.execHostLinkUp port s
  | .hostHotReset port => Sys2Proof.Machine.execHostHotReset port s
  | .perstAssert => Sys2Proof.Machine.execPerstAssert s
  | .perstDeassert => Sys2Proof.Machine.execPerstDeassert s
  | .powerOn perstHigh selftest a b => Sys2Proof.Machine.execPowerOn perstHigh selftest a b s
  | .resetSequenceDone => Sys2Proof.Machine.execResetSequenceDone s
  | .porFall => Sys2Proof.Machine.execPorFall s
  | .railFault rail => Sys2Proof.Machine.execRailFault rail s
  | .sysclkLoss => Sys2Proof.Machine.execSysclkLoss s
  | .refclkLoss acc g => Sys2Proof.Machine.execRefclkLoss acc g s
  | .thermAlert tj => Sys2Proof.Machine.execThermAlert tj s
  | .thermTrip tj dram => Sys2Proof.Machine.execThermTrip tj dram s
  | .sensorReport r => Sys2Proof.Machine.execSensorReport r s
  | .coreHung core => Sys2Proof.Machine.execCoreHung core s
  | .coreRestarted core => Sys2Proof.Machine.execCoreRestarted core s
  | .eventTriage core => Sys2Proof.Machine.execEventTriage core s
  | .triageRetrainTimer n => Sys2Proof.Machine.execTriageRetrainTimer n s
  | .patrolScrub line symbols => Sys2Proof.Machine.execPatrolScrub line symbols s
  | .smemRefresh stack temp margin => Sys2Proof.Machine.execSmemRefresh stack temp margin s
  | .powerIdleTimer o => Sys2Proof.Machine.execPowerIdleTimer o s
  | .souffle o => Sys2Proof.Machine.execSouffle o s
  | .souffleDone o => Sys2Proof.Machine.execSouffleDone o s
  | .parkStart o => Sys2Proof.Machine.execParkStart o s
  | .parkTimeout o => Sys2Proof.Machine.execParkTimeout o s
  | .parkedPortSignal o => Sys2Proof.Machine.execParkedPortSignal o s
  | .unparkTimeout o => Sys2Proof.Machine.execUnparkTimeout o s
  | .mgmtPlaneResetDone => Sys2Proof.Machine.execMgmtPlaneResetDone s
  | .transitOnlyResetDone => Sys2Proof.Machine.execTransitOnlyResetDone s
  | .refclkRestored acc g => Sys2Proof.Machine.execRefclkRestored acc g s
  | .portParked o => Sys2Proof.Machine.execPortParked o s
  | .spdmHeartbeatLost session => Sys2Proof.Machine.execSpdmHeartbeatLost session s
  | .recoveryBankWrite bank image => Sys2Proof.Machine.execRecoveryBankWrite bank image s
  | .selfTestQuiesceTimeout engine => Sys2Proof.Machine.execSelfTestQuiesceTimeout engine s
  | .stackReadReturn line symbols => Sys2Proof.Machine.execStackReadReturn line symbols s
  | .trstAssert => Sys2Proof.Machine.execTrstAssert s

end Sys2Proof.Machine
end

