-- ==== Sys2Proof/Machine/Step.lean ====
section
/-!
DEFINITION. Sys2Proof/Machine/Step.lean: one step: the command at the front of the queue has its effect; with no command
waiting the adapter's clock ticks.
-/
namespace Sys2Proof.Machine

/-- One tick with no command waiting: 1 ns of the adapter's own time passes, and fabric time with it (R306, log 2); the bytes of
frames whose moment that is leave their ports' ingress (R278, R279, log 157). -/
def tick (s : State) : State := { s with dev := pumpIngress (advanceTo (s.dev.now + 1) s.dev) }

/-- One step of the machine. -/
def step (s : State) : Host.Outcome State Fault Refusal :=
  match s.pending with
  | [] => .next (tick s)
  | c :: rest => exec c { s with pending := rest }

/-- The state with the command that a word spells put at the front of its queue. -/
def State.withFetchWord (s : State) (nbits w : Nat) : State :=
  match decodeTableWord nbits w with
  | some c => { s with pending := c :: s.pending }
  | none => s

end Sys2Proof.Machine
end

