-- ==== Sys2Proof/WellFormed.lean ====
section
/-!
DEFINITION. Sys2Proof/WellFormed.lean: the commands that can arrive. A command is well formed when every operand fits the field, the
register or the numbering of Table 1.1 that carries it: a field of a command packet its width (R459, R462, R533), a queue, port, engine
or stack its number. Whether the adapter then accepts the value is the command's own rule.
-/
namespace Sys2Proof

/-- `v` fits in `n` bits. -/
def fits (n v : Nat) : Bool := decide (v < 2 ^ n)

/-- All the listed pairs of a width and a value fit. -/
def allFit (l : List (Nat × Nat)) : Bool := l.all fun p => fits p.1 p.2

/-- The header of a command packet: one of the 520 admin queues, and a 9-bit SLICE (Table 14.3). -/
def Cmd.ok (h : Cmd) : Bool := decide (h.aq < 520) && fits 9 h.slice

/-- A link: a logical port, an accelerator port as 64 + a, or the loopback, 255 (R266). -/
def linkOk (n : Nat) : Bool := decide (n < 72) || n == 255

/-- The number of an object that the power manager knows (R489). -/
def PowerObj.ok : PowerObj → Bool
  | .engine n => decide (n < 24)
  | .fab n => decide (n < 64)
  | .acc a => decide (a < 8)
  | .stack s => decide (s < 4)

/-- The host port, 15, or an accelerator port. -/
def ioOk (k : Nat) : Bool := k == 15 || decide (k < 8)

def RingP.ok (r : RingP) : Bool := allFit [(8, r.space), (64, r.base), (8, r.lg)]

/-- A packet's payload as Table 3.3 bounds it, in the 14 bits of PAY_LEN. -/
def Packet.ok (p : Packet) : Bool := fits 14 p.payload.length

def QpCreateP.ok (p : QpCreateP) : Bool :=
  allFit [(32, p.qpn), (8, p.sqSpace), (64, p.sqBase), (8, p.sqLg), (8, p.rqSpace), (64, p.rqBase), (8, p.rqLg)]

def QpModifyP.ok (p : QpModifyP) : Bool :=
  allFit [(32, p.qpn), (8, p.newState), (32, p.scqn), (32, p.rcqn), (32, p.remEpid), (32, p.remQpn), (32, p.rtoBase), (8, p.retryLimit),
    (32, p.busyLimit), (8, p.ackCount), (32, p.ackTimer), (8, p.tc), (8, p.ccProfile), (16, p.txKey), (16, p.rxKey)]

def CollP.ok (p : CollP) : Bool :=
  allFit [(16, p.group), (16, p.n), (16, p.rank), (8, p.channels), (8, p.algoMask), (64, p.segBytes), (8, p.path), (8, p.accFmt), (16, p.redSlot),
    (32, p.stepTimeout), (64, p.members), (8, p.parentV), (16, p.parent)]

def MoeP.ok (p : MoeP) : Bool :=
  allFit [(16, p.group), (16, p.experts), (8, p.k), (16, p.localExperts), (32, p.cap), (64, p.rowBytes), (64, p.outRowBytes), (64, p.map),
    (64, p.landOffset), (64, p.outOffset), (16, p.combSlot)]

def StageP.ok (p : StageP) : Bool :=
  allFit [(16, p.stream), (8, p.role), (32, p.qpn), (16, p.slots), (64, p.slotBytes), (64, p.landOffset), (16, p.overlap), (16, p.k), (64, p.log)]

def TrigP.ok (p : TrigP) : Bool := allFit [(16, p.trig), (8, p.kind), (32, p.source), (32, p.target), (16, p.count)]

def NeighP.ok (p : NeighP) : Bool := allFit [(32, p.epid), (8, p.v), (16, p.vlan), (16, p.port)]

def CcProfile.ok (p : CcProfile) : Bool :=
  allFit [(32, p.target), (64, p.ai), (16, p.beta), (16, p.maxMd), (32, p.wMin), (64, p.wInit), (64, p.wMax), (64, p.paceBurst)]

def QuotaRead.ok (b : QuotaRead) : Bool := fits 64 b.addr

def SliceCreateP.ok (p : SliceCreateP) : Bool :=
  allFit [(32, p.pasid), (8, p.accMask), (8, p.classMask), (16, p.routeSet), (16, p.bwWeight), (8, p.latCrit), (8, p.ccHa), (8, p.xltHa),
    (8, p.keyHa), (8, p.redHa)]
    && p.block.ok && (p.block.poisoned || p.block.refused || decide (p.limits.length = 13))

def SliceModifyP.ok (p : SliceModifyP) : Bool :=
  allFit [(32, p.faultTimeout), (32, p.pageWaitBase), (32, p.pageWaitLimit), (32, p.ratePoll), (32, p.feedbackInterval), (32, p.keyWait),
    (8, p.authFailLimit)]

def SliceBindP.ok (p : SliceBindP) : Bool :=
  allFit [(8, p.accMask), (8, p.classMask), (8, p.routeSet), (16, p.bwWeight), (8, p.latCrit)]

def PwrSetP.ok (p : PwrSetP) : Bool :=
  allFit [(8, p.cls), (8, p.deepest), (8, p.force), (32, p.tStandby), (32, p.tMeringue), (64, p.enterAt)]

/-- A codeword of Light FEC, or a block of Full FEC (Table 7.2). -/
def Codeword.ok (c : Codeword) : Bool := decide (c.code.length = 264) || decide (c.code.length = 1355)

def EthFrame.ok (f : EthFrame) : Bool := allFit [(16, f.etherType), (8, f.nextHeader), (16, f.udpPort), (2, f.ecn), (3, f.priority)]

/-- An operand that must stay below a bound. -/
def below (n v : Nat) : Bool := decide (v < n)

/-- The command is well formed. -/
def Instr.wf : Instr → Bool
  | .aqCreate h n lg space cbase rbase vector => h.ok && allFit [(16, n), (8, lg), (8, space), (64, cbase), (64, rbase), (16, vector)]
  | .aqDestroy h n => h.ok && fits 16 n
  | .devModeSet h routeHa evtHa => h.ok && allFit [(8, routeHa), (8, evtHa)]
  | .devQuery h kind code index offset => h.ok && allFit [(8, kind), (8, code), (32, index), (64, offset)]
  | .selfTest h kind lane target base length => h.ok && allFit [(8, kind), (8, lane), (16, target), (64, base), (64, length)]
  | .selfTestDone kind target _ _ _ => below 3 kind && fits 64 target
  | .pwrSet h p => h.ok && p.ok
  | .qpCreate h p => h.ok && p.ok
  | .qpModify h p => h.ok && p.ok
  | .qpDestroy h qpn => h.ok && fits 32 qpn
  | .qpQuery h qpn space addr => h.ok && allFit [(32, qpn), (8, space), (64, addr)]
  | .qpPin h qpn => h.ok && fits 32 qpn
  | .qpUnpin h qpn => h.ok && fits 32 qpn
  | .wqInvalidate h qpn queue => h.ok && allFit [(32, qpn), (8, queue)]
  | .cqCreate h cqn ring stall => h.ok && ring.ok && allFit [(32, cqn), (32, stall)]
  | .cqModify h cqn stall => h.ok && allFit [(32, cqn), (32, stall)]
  | .cqDestroy h cqn => h.ok && fits 32 cqn
  | .cqQuery h cqn => h.ok && fits 32 cqn
  | .winCreate h perm space base length => h.ok && allFit [(8, perm), (8, space), (64, base), (64, length)]
  | .winDestroy h _ => h.ok
  | .winQuery h index => h.ok && fits 32 index
  | .xltRootSet h space root => h.ok && allFit [(8, space), (64, root)]
  | .xltInval h space whole base length => h.ok && allFit [(8, space), (8, whole), (64, base), (64, length)]
  | .xltInvalWait h epoch => h.ok && fits 16 epoch
  | .invalHoldersDone slice _ => below 512 slice
  | .invalTimeoutExpiry slice _ => below 512 slice
  | .xltResolve h items _ => h.ok && below 256 items.length
  | .fqCreate h ring => h.ok && ring.ok
  | .txeLoad h slot mask space x => h.ok && allFit [(16, slot), (32, mask), (8, space), (64, x.addr), (32, x.len)]
  | .txePlanLoad h items => h.ok && below 256 items.length
    && items.all fun x => allFit [(16, x.slot), (32, x.mask), (8, x.space), (64, x.image.addr), (32, x.image.len)]
  | .txeUnload h slot => h.ok && fits 16 slot
  | .txeAuxWrite h slot offset data => h.ok && allFit [(16, slot), (32, offset)] && below 65 data.length
  | .txeSeed h mask _ => h.ok && fits 32 mask
  | .collCreate h p => h.ok && p.ok
  | .collDestroy h group => h.ok && fits 16 group
  | .collReset h group => h.ok && fits 16 group
  | .moeBind h p => h.ok && p.ok
  | .stageBind h p => h.ok && p.ok
  | .stageReplay h stream _ => h.ok && fits 16 stream
  | .stageQuery h stream => h.ok && fits 16 stream
  | .trigCreate h p => h.ok && p.ok
  | .trigArm h trig _ => h.ok && fits 16 trig
  | .trigDestroy h trig => h.ok && fits 16 trig
  | .portRetrain h n => h.ok && fits 16 n
  | .routesetSet h n _ => h.ok && fits 16 n
  | .rtgWrite h _ => h.ok
  | .rtgSwap h => h.ok
  | .epMap h logical _ => h.ok && fits 32 logical
  | .neighSet h p => h.ok && p.ok
  | .shaperSet h kind object tc rate burst reset => h.ok && allFit [(8, kind), (8, tc), (16, object), (32, rate), (64, burst), (8, reset)]
  | .ccProfileSet h n p => h.ok && fits 8 n && p.ok
  | .meterSet h cir pir cbs pbs => h.ok && allFit [(32, cir), (32, pir), (64, cbs), (64, pbs)]
  | .histAttach h mon kind object tc binMode step => h.ok && allFit [(16, mon), (8, kind), (32, object), (8, tc), (8, binMode), (32, step)]
  | .histDetach h mon => h.ok && fits 16 mon
  | .histRead h mon clear => h.ok && allFit [(16, mon), (8, clear)]
  | .timeSet h ns => h.ok && fits 64 ns
  | .timeAdj h offset => h.ok && decide (-(2 ^ 63) ≤ offset) && decide (offset < 2 ^ 63)
  | .gateSet h port cycle baseTime _ => h.ok && allFit [(16, port), (32, cycle), (64, baseTime)]
  | .gateListActivate port => below 64 port
  | .gateIntervalAdvance port => below 64 port
  | .fbrCreate h ring => h.ok && ring.ok
  | .fbrAck h _ => h.ok
  | .sliceCreate h p => h.ok && p.ok
  | .sliceModify h p => h.ok && p.ok
  | .sliceQuota h limits b => h.ok && b.ok && (b.poisoned || b.refused || decide (limits.length = 13))
  | .sliceBind h p => h.ok && p.ok
  | .sliceSmemAdd h base length => h.ok && allFit [(64, base), (64, length)]
  | .sliceSmemRemove h base length => h.ok && allFit [(64, base), (64, length)]
  | .sliceReset h report => h.ok && fits 64 report
  | .sliceResetDrained slice => below 512 slice
  | .sliceDestroy h report => h.ok && fits 64 report
  | .extentZeroDone base => below 144000000000 base
  | .hostResume h port action discard => h.ok && allFit [(8, port), (8, action), (8, discard)]
  | .snapExport h scope addr => h.ok && allFit [(8, scope), (64, addr)]
  | .snapImport h _ => h.ok
  | .snapThaw h scope => h.ok && fits 8 scope
  | .evqCreate h queue ring vector => h.ok && ring.ok && allFit [(16, queue), (16, vector)]
  | .evqAck h queue _ arm => h.ok && allFit [(16, queue), (8, arm)]
  | .wmSet h entry kind object level => h.ok && allFit [(16, entry), (8, kind), (32, object), (32, level)]
  | .wmRead h entry => h.ok && fits 16 entry
  | .wmAck h entry => h.ok && fits 16 entry
  | .wmClear h entry => h.ok && fits 16 entry
  | .keyInstall h slot dir position key => h.ok && allFit [(16, slot), (8, dir), (8, position), (1, key.space), (64, key.addr)]
  | .keyFree h slot => h.ok && fits 16 slot
  | .keyQuery h slot => h.ok && fits 16 slot
  | .kekSet m slice _ => fits 9 slice && m.slice == slice
  | .fwUpdate m offset bytes _ => fits 9 m.slice && fits 32 offset && fits 32 bytes
  | .secZeroise m => fits 9 m.slice
  | .spdmRequest code session => fits 8 code && fits 32 session
  | .getMeasurements _ => true
  | .rawBlockRequest _ key _ => below 16 key
  | .debugUnlock _ => true
  | .jtagInstruction _ => true
  | .cmdAqProd queue _ => below 520 queue
  | .cmdAqRcons queue _ => below 520 queue
  | .commandFetchReturn queue _ => below 520 queue
  | .commandReread queue => below 520 queue
  | .commandTimeout queue _ => below 520 queue
  | .aq0Enable value => value.getLsbD 63
  | .aq0Disable value => !value.getLsbD 63
  | .mgmtPlaneReset => true
  | .mgmtWatchdogExpiry => true
  | .transitOnlyReset => true
  | .hifWinCtlWrite _ => true
  | .schGateCtlWrite port _ => below 64 port
  | .fabVcThreshWrite port _ _ => below 32 port
  | .rtgSelfEpidWrite _ => true
  | .schTimeCfgWrite _ => true
  | .errFirstClear bank => below 82 bank
  | .errNextClear bank => below 82 bank
  | .schTimeNsRead => true
  | .registerWrite offset size _ _ => fits 26 offset && decide (1 ≤ size) && decide (size ≤ 8)
  | .bar4Write offset data _ => decide (offset + data.length ≤ 2 ^ 28)
  | .bar4Read offset length => decide (offset + length ≤ 2 ^ 28)
  | .doorbell port slice _ _ => ioOk port && below 512 slice
  | .cqConsumed port slice _ => ioOk port && below 512 slice
  | .cqArm port slice _ => ioOk port && below 512 slice
  | .pushPageWrite port slice page offset data => ioOk port && below 512 slice && below 16 page && below 4096 offset && decide (data.length ≤ 4096)
  | .pushTrigger port slice page _ => ioOk port && below 512 slice && below 16 page
  | .entryFetchReturn qpn _ _ => fits 20 qpn
  | .entryReread qpn _ => fits 20 qpn
  | .entryStart qpn => fits 20 qpn
  | .packetBuild qpn _ => fits 20 qpn
  | .egressPacketSelect port => below 64 port
  | .rxRequestPacket link p => linkOk link && p.ok
  | .rxAck link p => linkOk link && p.ok
  | .rxNak link p => linkOk link && p.ok
  | .rxResponse link p => linkOk link && p.ok
  | .cqStallTimeout cqn => fits 18 cqn
  | .ackTimerExpiry qpn => fits 20 qpn
  | .rtoExpiry qpn => fits 20 qpn
  | .nakDelayExpiry qpn _ => fits 20 qpn
  | .busyLimitExpiry qpn => fits 20 qpn
  | .pageWaitLimitExpiry qpn => fits 20 qpn
  | .contextFetchDone qpn _ _ => fits 20 qpn
  | .windowFetchDone index _ _ => fits 24 index
  | .walkDone slice space page => below 512 slice && below 16 space && fits 36 page
  | .crumbBatchTimer slice => below 512 slice
  | .faultTimeoutExpiry qpn _ _ => fits 20 qpn
  | .failedRecordExpiry slice space page => below 512 slice && below 16 space && fits 36 page
  | .atsCompletion slice page _ _ _ size pfn => below 512 slice && fits 36 page && fits 52 size && fits 52 pfn
  | .prgResponse slice page code => below 512 slice && fits 36 page && below 16 code
  | .atsInvalidateRequest pasid _ _ _ itag => fits 20 pasid && below 32 itag
  | .itemDispatch _ => true
  | .itemEnd _ _ => true
  | .rangeLockGrant _ => true
  | .accumulateCommit qpn _ => fits 20 qpn
  | .collStepStart group => fits 16 group
  | .stepTimeoutExpiry group => fits 16 group
  | .prevGraceExpiry slot => below 4096 slot
  | .keyWaitExpiry slot => below 4096 slot
  | .rateTableRead qpn => fits 20 qpn
  | .feedbackIntervalEnd slice => below 512 slice
  | .histSample => true
  | .portTrained n peer rtt => below 72 n && fits 8 peer.width && fits 16 rtt
  | .portDown n cause => below 64 n && below 4 cause
  | .flitReceive n c => below 72 n && c.ok
  | .replayReq n _ => below 72 n
  | .replayMiss n _ => below 72 n
  | .replayReqTimeout n => below 72 n
  | .replayBufferExpiry n => below 72 n
  | .abort n vc => below 72 n && below 8 vc
  | .flow n _ => below 72 n
  | .flowRefreshTimer n => below 72 n
  | .laneFailed n lane => below 72 n && below 16 lane
  | .narrowComplete n peerLanes _ => below 72 n && fits 16 peerLanes
  | .routeUpdate n u => below 64 n && below 121 u.indices.length
  | .transitPacket n vc p _ => below 64 n && below 8 vc && p.ok
  | .escWaitExpiry _ => true
  | .timeFlitSend n => below 64 n
  | .timeFlitReceive n t _ _ => below 64 n && allFit [(2, t.state), (8, t.hops), (18, t.root)]
  | .timeParentLost => true
  | .ppsInEdge _ => true
  | .ppsInMissing => true
  | .ppsOutPulse => true
  | .ptpMessage n _ _ => below 64 n
  | .ethFrameReceive n f p => below 64 n && f.ok && p.ok
  | .pfcFrameReceive n enable times => below 64 n && fits 8 enable && decide (times.length = 8) && times.all (fits 16)
  | .pfcPauseExpiry n priority => below 64 n && below 8 priority
  | .pfcXoffRefresh n priority => below 64 n && below 8 priority
  | .zalTransaction a _ data => below 8 a && below 4097 data.length
  | .accUpstreamRequest a _ addr _ => below 8 a && fits 64 addr
  | .portReadCompletion port tag _ data => ioOk port && fits 12 tag && below 4097 data.bytes.length
  | .hostReadTimeout tag => fits 10 tag
  | .writeLogAck port _ => ioOk port
  | .hostLinkLoss port => ioOk port
  | .hostLinkUp l => ioOk l.port && below 17 l.width
  | .hostHotReset port => ioOk port
  | .perstAssert => true
  | .perstDeassert => true
  | .powerOn _ _ _ _ => true
  | .resetSequenceDone => true
  | .porFall => true
  | .railFault rail => below 8 rail
  | .sysclkLoss => true
  | .refclkLoss acc g => below (if acc then 2 else 8) g
  | .thermAlert _ => true
  | .thermTrip _ dram => decide (dram.length ≤ 48)
  | .sensorReport r => decide (r.dram.length ≤ 48) && decide (r.rails.length ≤ 6)
  | .coreHung core => below 6 core
  | .coreRestarted core => below 6 core
  | .eventTriage core => below 6 core
  | .triageRetrainTimer n => below 64 n
  | .patrolScrub line symbols => below 4500000000 line && below 37 symbols
  | .smemRefresh stack temp _ => below 4 stack && fits 8 temp
  | .powerIdleTimer o => o.ok
  | .souffle o => o.ok
  | .souffleDone o => o.ok
  | .parkStart o => o.ok
  | .parkTimeout o => o.ok
  | .parkedPortSignal o => o.ok
  | .unparkTimeout o => o.ok
  | .mgmtPlaneResetDone => true
  | .transitOnlyResetDone => true
  | .refclkRestored acc g => below (if acc then 2 else 8) g
  | .portParked o => o.ok
  | .spdmHeartbeatLost session => fits 32 session
  | .recoveryBankWrite bank _ => below 2 bank
  | .selfTestQuiesceTimeout engine => below 24 engine
  | .stackReadReturn line symbols => below 4500000000 line && below 37 symbols
  | .trstAssert => true

end Sys2Proof
end

