-- ==== Sys2Proof/Safety.lean ====
section
/-!
DEFINITION. Sys2Proof/Safety.lean: the terms in which statements speak of a run: when the adapter takes a command, the outcome of a
command, and the conditions that no step may break.
-/
namespace Sys2Proof.Machine

/-- The outcome of a command that leaves the queue and the always-on domain alone and changes the rest of the adapter to `d`. -/
def after (s : State) (d : Dev) : Res := .next { s with dev := d }

/-- The checks that every admin command meets before its own rule let this one through: the reset sequence is over, its packet does not wait to start, the command has
not replied TIMEOUT, its queue may carry it (R467), its SLICE suits its Key, the data plane's stop lets it run (R478), no reserved
field is set (R7), and the slice it acts for is there and not being reset (R343). `slice` says that the command acts for SLICE. -/
def accepts (d : Dev) (op : Nat) (h : Cmd) (slice : Bool) : Bool :=
  let c := cmdRow op
  d.ready && !notStarted d h && !d.timedOut.contains (h.aq, h.index) && !(c.devOnly && decide (8 ≤ h.aq))
    && !(decide (8 ≤ h.aq) && decide (h.aq ≠ 8 + h.slice)) && !(keyDevice c.key && decide (h.slice ≠ 0))
    && !(d.dataStopped && !(c.query || runsStopped op)) && h.rsvd.isNone
    && !(slice && decide ((getSlice d h.slice).st = .free)) && !(slice && sliceGoing d h.slice && !runsGoing c)

/-- The adapter runs and takes the command past the common checks. -/
abbrev Takes (s : State) (op : Nat) (h : Cmd) (slice : Bool) : Prop := alive s.ao = true ∧ accepts s.dev op h slice = true

/-- A command on a queue pair of its own slice. -/
abbrev TakesQp (s : State) (op : Nat) (h : Cmd) (qpn : Nat) (q : Qp) : Prop :=
  Takes s op h true ∧ qpn < 2 ^ 20 ∧ getQp s.dev qpn = some q ∧ q.slice = h.slice

/-- A command on a completion queue of its own slice. -/
abbrev TakesCq (s : State) (op : Nat) (h : Cmd) (cqn : Nat) (x : Cq) : Prop :=
  Takes s op h true ∧ cqn < 2 ^ 18 ∧ tget s.dev.cqs cqn = some x ∧ x.slice = h.slice

/-- The adapter runs, and its data plane carries traffic. -/
abbrev Carries (s : State) : Prop := alive s.ao = true ∧ dataOn s.dev = true

/-- The rows that act on the always-on domain, the flash or the pins, or on what is kept while every other domain is held in reset. -/
def aoRow (i : Instr) : Bool :=
  match i with
  | .powerOn _ _ _ _ | .resetSequenceDone | .recoveryBankWrite _ _ | .perstAssert | .perstDeassert | .porFall | .railFault _
  | .sysclkLoss | .refclkLoss _ _ | .refclkRestored _ _ | .thermAlert _ | .thermTrip _ _ | .sensorReport _ | .fwUpdate _ _ _ _
  | .jtagInstruction _ | .trstAssert => true
  | _ => false

/-- The boot rule (R449, R450): while the adapter works or boots, or waits for PERST# after its boot, the bank that runs is one of the two
and each of its images has passed: its signature is good, no image of it is bad, and its SVN is at least the minimum. -/
abbrev bootRule (a : Ao) : Prop :=
  alive a = true ∨ (a.phase = .perstHeld ∧ a.booted = true) → a.bank < 2 ∧ bankPasses a.minSvn (bankAt a a.bank) = true

end Sys2Proof.Machine
end

