-- ==== Sys2Proof/Certificates/Slice0/Obligations.lean ====
section
/-!
DEFINITION. Sys2Proof/Certificates/Slice0/Obligations.lean: the statements about the model, for the provers. A completion statement says,
for every state and operands that meet its conditions, the whole next state: what it does not change in the text is unchanged by the command's
own effect; what a reply and the comparison of levels that follow it may touch is stated once, for all commands.
-/
open Sys2Proof Sys2Proof.Machine

/-! ## Queue pairs, completion queues, doorbells, work entries (02, 03) -/

/-- QP_CREATE, QP_MODIFY, QP_DESTROY, QP_QUERY, QP_PIN, QP_UNPIN and WQ_INVALIDATE complete: with the queue pair there (absent, for QP_CREATE)
and no refusal of their rules in the way, each answers the next state written here. That a pinned pair's QP_PIN replies OK on any slice is the
model's reading of R81 (log 80). -/
def Obligations.QueuePairCommandsComplete : Prop :=
  (∀ (s : State) (h : Cmd) (p : QpCreateP), Takes s 0x0101 h true → qpCreateBad p = none → getQp s.dev p.qpn = none →
    inQuarantine s.dev p.qpn = false → ringStatus s.dev h.slice p.sqSpace p.sqBase p.sqLg 64 = csOk →
    ringStatus s.dev h.slice p.rqSpace p.rqBase p.rqLg 64 = csOk → quotaFull s.dev h.slice 0 = false →
    exec (.qpCreate h p) s = after s (settleAll
      (reply (cmdRow 0x0101) h csOk 0 (packResult [((nextGen s.dev p.qpn).toNat, 1)])
        (cacheContext p.qpn { s.dev with
          gens := tset s.dev.gens p.qpn (nextGen s.dev p.qpn)
          qpFreed := tdel s.dev.qpFreed p.qpn
          qps := tset s.dev.qps p.qpn (newQp s.dev h.slice (nextGen s.dev p.qpn)
            ⟨p.sqSpace, p.sqBase, p.sqLg, p.sqIndex, p.sqIndex⟩ ⟨p.rqSpace, p.rqBase, p.rqLg, p.rqIndex, p.rqIndex⟩) }))))
  ∧ (∀ (s : State) (h : Cmd) (p : QpModifyP) (q : Qp), TakesQp s 0x0102 h p.qpn q → qpModifyBad p = none →
    qpModifyRefusal s.dev h p q = none →
    exec (.qpModify h p) s = after s (settleAll (
      let d := { s.dev with qps := tset s.dev.qps p.qpn (applyModify s.dev p q) }
      if p.newState = 0 then ok (cmdRow 0x0102) h (moveQp p.qpn .reset d)
      else if p.newState = 1 then ok (cmdRow 0x0102) h (moveQp p.qpn .init d)
      else if p.newState = 2 then ok (cmdRow 0x0102) h (moveQp p.qpn .live d)
      else if p.newState = 3 then ok (cmdRow 0x0102) h (moveQp p.qpn .drain d)
      else if p.newState = 4 then moveQp p.qpn .error (waitOn h 0x0102 (.qpError p.qpn) d)
      else ok (cmdRow 0x0102) h d)))
  ∧ (∀ (s : State) (h : Cmd) (qpn : Nat) (q : Qp), TakesQp s 0x0103 h qpn q → q.st = .reset →
    exec (.qpDestroy h qpn) s = after s (settleAll (ok (cmdRow 0x0103) h { s.dev with
      qps := tdel s.dev.qps qpn
      qpFreed := tset s.dev.qpFreed qpn s.dev.now
      triggers := tfilter s.dev.triggers fun _ t => !((t.p.kind == 0 && t.p.source == qpn) || t.p.target == qpn)
      streams := tmap s.dev.streams fun _ x => if x.qpn = some qpn then { x with qpn := none } else x })))
  ∧ (∀ (s : State) (h : Cmd) (qpn space addr : Nat) (q : Qp), TakesQp s 0x0104 h qpn q → addr % 64 = 0 →
    (space = 0 ∨ (space = 1 ∧ inAllocation s.dev h.slice addr 64 = true)) →
    exec (.qpQuery h qpn space addr) s = after s (settleAll (ok (cmdRow 0x0104) h
      (emit (.qpStatus space addr (encQpStatus q))
        (store space addr (natLe (encQpStatus q).toNat 64) false true h.slice none s.dev)))))
  ∧ (∀ (s : State) (h : Cmd) (qpn : Nat) (q : Qp), TakesQp s 0x0105 h qpn q → (q.pinned = true ∨
      ((getSlice s.dev h.slice).latCrit = true ∧ pinnedIn s.dev (qpn % 4) < 2048 ∧ quotaFull s.dev h.slice 7 = false)) →
    exec (.qpPin h qpn) s = after s (settleAll (ok (cmdRow 0x0105) h
      (if q.pinned then s.dev else modQp qpn (fun q => { q with pinned := true }) (cacheContext qpn s.dev)))))
  ∧ (∀ (s : State) (h : Cmd) (qpn : Nat) (q : Qp), TakesQp s 0x0106 h qpn q →
    exec (.qpUnpin h qpn) s = after s (settleAll (ok (cmdRow 0x0106) h
      { s.dev with qps := tset s.dev.qps qpn { q with pinned := false } })))
  ∧ (∀ (s : State) (h : Cmd) (qpn queue : Nat) (q : Qp), TakesQp s 0x0107 h qpn q → queue ≤ 1 →
    exec (.wqInvalidate h qpn queue) s = after s
      (settleAll (reply (cmdRow 0x0107) h csOk 0 (packResult [((firstUnstarted q (queue == 1)).toNat, 4)])
        (setQp qpn (invalidateQueue q (queue == 1)) (addStale qpn (queue == 1) q s.dev)))))

/-- CQ_CREATE, CQ_MODIFY and CQ_QUERY complete. -/
def Obligations.CompletionQueueCommandsComplete : Prop :=
  (∀ (s : State) (h : Cmd) (cqn stall : Nat) (r : RingP), Takes s 0x0108 h true → cqn < 2 ^ 18 → tget s.dev.cqs cqn = none →
    spaceOk r.space = true → 4 ≤ r.lg → r.lg ≤ 20 → (stall = 0 ∨ (1000 ≤ stall ∧ stall ≤ 10000000)) →
    ringStatus s.dev h.slice r.space r.base r.lg 32 = csOk → quotaFull s.dev h.slice 1 = false →
    exec (.cqCreate h cqn r stall) s = after s (settleAll (ok (cmdRow 0x0108) h { s.dev with
      cqs := tset s.dev.cqs cqn {
        slice := h.slice
        ring := ⟨r.space, r.base, r.lg, r.index, r.index⟩
        hold := []
        armed := none
        counter := 0
        stallTimeout := if stall = 0 then 100000 else stall
        stallSince := none
        stalled := false
        error := false
        writtenAt := [] } })))
  ∧ (∀ (s : State) (h : Cmd) (cqn stall : Nat) (x : Cq), TakesCq s 0x0109 h cqn x →
    (stall = 0 ∨ (1000 ≤ stall ∧ stall ≤ 10000000)) →
    exec (.cqModify h cqn stall) s = after s (ok (cmdRow 0x0109) h { s.dev with
      cqs := tset s.dev.cqs cqn { x with stallTimeout := if stall = 0 then 100000 else stall } }))
  ∧ (∀ (s : State) (h : Cmd) (cqn : Nat) (x : Cq), TakesCq s 0x010B h cqn x →
    exec (.cqQuery h cqn) s = after s (reply (cmdRow 0x010B) h csOk 0 (cqResult x) s.dev))

/-- R538: CQ_DESTROY is refused with BUSY, and changes nothing but for its reply, while a queue pair names the completion queue or a counter
trigger has it as its SOURCE; otherwise the queue goes with its held completions, what waited for the reserve that they leave goes on, and the command replies OK. -/
def Obligations.CqDestroyFollowsR538 : Prop :=
  ∀ (s : State) (h : Cmd) (cqn : Nat) (x : Cq), TakesCq s 0x010A h cqn x →
    (((∃ n q, (n, q) ∈ s.dev.qps ∧ (q.p.scqn = cqn ∨ q.p.rcqn = cqn))
        ∨ ∃ n t, (n, t) ∈ s.dev.triggers ∧ t.p.kind = 1 ∧ t.p.source = cqn) →
      exec (.cqDestroy h cqn) s = after s (settleAll (startTriggered (reply (cmdRow 0x010A) h csBusy 0 0 s.dev))))
    ∧ ((∀ n q, (n, q) ∈ s.dev.qps → q.p.scqn ≠ cqn ∧ q.p.rcqn ≠ cqn) →
      (∀ n t, (n, t) ∈ s.dev.triggers → t.p.kind = 1 → t.p.source ≠ cqn) →
      exec (.cqDestroy h cqn) s = after s (settleAll (startTriggered (reply (cmdRow 0x010A) h csOk 0 0
        (sliceGoes x.slice (unstall x.slice (freeHold x.hold { s.dev with cqs := tdel s.dev.cqs cqn })))))))

/-- A doorbell for a queue of a queue pair that is not in RESET follows R40: an index that claims more than the ring holds changes no queue and
raises BAD_DOORBELL; a forward one becomes the producer index; one behind is ignored and counted; INV drops the unstarted cached
entries first; in every case but the first a stopped or paused queue resumes and fetches, and in ERROR it flushes. -/
def Obligations.DoorbellFollowsR40 : Prop :=
  ∀ (s : State) (port slice : Nat) (w : U64) (q : Qp), Carries s → takesDoorbells s.dev port slice = true →
    dbType w < 2 → dbRsvd w = false → getQp s.dev (dbQn w) = some q → q.slice = slice → q.st ≠ .reset →
    let rq : Bool := dbType w == 1
    let r := (wq q rq).ring
    let ahead := (dbIndex w - r.prod).toNat
    let fwd : Prop := ahead ≠ 0 ∧ ahead < 2 ^ 31
    let w0 := if dbInv w then dropCached (wq q rq) (firstUnstarted q rq) else wq q rq
    let given := fun (d : Dev) => if dbInv w then addStale (dbQn w) rq q d else d
    (fwd ∧ 2 ^ r.lg < (dbIndex w - r.cons).toNat →
      exec (.doorbell port slice w true) s = after s (settleAll (startTriggered
        (sliceEvent slice 0x5 0 bankCore (dbQn w) w.toNat 0 s.dev))))
    ∧ (fwd ∧ (dbIndex w - r.cons).toNat ≤ 2 ^ r.lg →
      exec (.doorbell port slice w true) s = after s (settleAll (startTriggered
        ((if q.st = .error then flushQp (dbQn w) else fetchQueue (dbQn w) rq)
          (setQp (dbQn w) (setWq q rq (resumeQueue (notePosted s.dev { w0 with ring := { w0.ring with prod := dbIndex w } })))
            (given { s.dev with postNo := s.dev.postNo + 1 }))))))
    ∧ (ahead = 0 →
      exec (.doorbell port slice w true) s = after s (settleAll (startTriggered
        ((if q.st = .error then flushQp (dbQn w) else fetchQueue (dbQn w) rq)
          (setQp (dbQn w) (setWq q rq (resumeQueue w0)) (given s.dev))))))
    ∧ (2 ^ 31 ≤ ahead →
      exec (.doorbell port slice w true) s = after s (settleAll (startTriggered
        ((if q.st = .error then flushQp (dbQn w) else fetchQueue (dbQn w) rq)
          (setQp (dbQn w) (setWq q rq (resumeQueue w0)) (given (bump 0x06 q.slice s.dev)))))))

/-- R63 and R64: CQ_CONSUMED moves the consumer index forward as far as the producer index, raises BAD_DOORBELL beyond it, and is ignored and
counted behind it; CQ_ARM notifies at once where a completion at or after INDEX is written, else it arms the queue. -/
def Obligations.CompletionDoorbells : Prop :=
  ∀ (s : State) (port slice : Nat) (w : U64) (x : Cq), Carries s → takesDoorbells s.dev port slice = true →
    dbRsvd w = false → tget s.dev.cqs (dbQn w) = some x → x.slice = slice → x.error = false →
    let ahead := (dbIndex w - x.ring.cons).toNat
    let used := (x.ring.prod - x.ring.cons).toNat
    (dbType w = 2 → ahead ≠ 0 → ahead < 2 ^ 31 → ahead ≤ used →
      exec (.cqConsumed port slice w) s = after s (settleAll (startTriggered (feedersGo (dbQn w) (pumpCq (dbQn w)
        (compareMarks { s.dev with cqs := tset s.dev.cqs (dbQn w) { x with
          ring := { x.ring with cons := dbIndex w }
          stallSince := x.stallSince.map fun _ => s.dev.now
          writtenAt := x.writtenAt.drop ahead } }))))))
    ∧ (dbType w = 2 → ahead ≠ 0 → ahead < 2 ^ 31 → used < ahead →
      exec (.cqConsumed port slice w) s = after s (settleAll (startTriggered
        (sliceEvent slice 0x5 0 bankCore (dbQn w) w.toNat 0 s.dev))))
    ∧ (dbType w = 2 → 2 ^ 31 ≤ ahead →
      exec (.cqConsumed port slice w) s = after s (settleAll (startTriggered (bump 0x06 slice s.dev))))
    ∧ (dbType w = 3 → (x.ring.prod ≠ dbIndex w ∧ (x.ring.prod - dbIndex w).toNat < 2 ^ 31) →
      exec (.cqArm port slice w) s = after s (settleAll (startTriggered
        (sliceEvent slice 0x1 0 bankCore (dbQn w) (dbIndex w).toNat 0
          { s.dev with cqs := tset s.dev.cqs (dbQn w) { x with armed := none } }))))
    ∧ (dbType w = 3 → ¬(x.ring.prod ≠ dbIndex w ∧ (x.ring.prod - dbIndex w).toNat < 2 ^ 31) →
      exec (.cqArm port slice w) s = after s (settleAll (startTriggered
        { s.dev with cqs := tset s.dev.cqs (dbQn w) { x with armed := some (dbIndex w) } })))

/-- PUSH_PAGE_WRITE of a byte of the payload staging is recorded at its offset, and between the entry and the doorbell word a byte that was not
zero stays on record (R45); PUSH_TRIGGER on a page without pieces of the doorbell word
binds what the page holds and clears its record: an accepted push (R45) places its entry and moves the producer index, any other acts as an
ordinary doorbell and is counted as a fallback. -/
def Obligations.PushesComplete : Prop :=
  (∀ (s : State) (port slice page off : Nat) (b : Byte), Carries s → takesDoorbells s.dev port slice = true → slice < 512 →
    1 ≤ page → page ≤ 15 → 0x100 ≤ off → off < 0x200 →
    exec (.pushPageWrite port slice page off [b]) s = after s (settleAll (startTriggered
      (let k := (port * 512 + slice) * 16 + page
       { s.dev with pushPages := tset s.dev.pushPages k (tset (tgetD s.dev.pushPages k []) off b) }))))
  ∧ (∀ (s : State) (port slice page off : Nat) (b : Byte), Carries s → takesDoorbells s.dev port slice = true → slice < 512 →
    1 ≤ page → page ≤ 15 → 0x40 ≤ off → off < 0x78 →
    (let k := (port * 512 + slice) * 16 + page
     let p := tgetD s.dev.pushPages k []
     let p' := if (tget p off).any (· != 0) then p else tset p off b
     exec (.pushPageWrite port slice page off [b]) s = after s (settleAll (startTriggered
       { s.dev with pushPages := tset s.dev.pushPages k p' }))))
  ∧ (∀ (s : State) (port slice page : Nat) (w : U64), Carries s → takesDoorbells s.dev port slice = true → 1 ≤ page → page ≤ 15 →
    (let k := (port * 512 + slice) * 16 + page
     let p := tgetD s.dev.pushPages k []
     (∀ i, 0x78 ≤ i → i < 0x80 → tget p i = none) →
     let p' := (natLe w.toNat 8).zipIdx.foldl (fun p b => tset p (0x78 + b.2) b.1) p
     let d := { s.dev with pushPages := tdel s.dev.pushPages k }
     exec (.pushTrigger port slice page w) s = after s (settleAll (startTriggered
       (match pushEntry d slice p' w with
        | some (q, e) => acceptPush (dbQn w) q e d
        | none => takeWord slice w (bump 0x09 slice d))))))

/-- ENTRY_FETCH_RETURN of a queue whose read is outstanding takes the entries of the read in index order and reads on, after it has counted a
refused one (R49, R380); a read that the queue has given up returns first, and nothing of it is taken. ENTRY_REREAD reads again 100 ns after the
failed read, where the queue has read all that lies before the entry and reads nothing else (R49). -/
def Obligations.EntryReadsComplete : Prop :=
  (∀ (s : State) (qpn : Nat) (rq : Bool) (es : List FetchedEntry) (q : Qp) (i : U32) (n : Nat), alive s.ao = true →
    getQp s.dev qpn = some q → (wq q rq).reading = some (i, n) → sliceLive s.dev q.slice = true → q.held = none → q.frozen = none →
    (s.dev.staleReads.find? fun r => r.qpn == qpn && r.rq == rq) = none →
    exec (.entryFetchReturn qpn rq es) s = after s (settleAll (reopening (fun d => fetchQueue qpn rq (acceptEntries qpn rq (es.take n) i
      (countRefused q.slice (wq q rq).ring i (es.take n) (setQp qpn (setWq q rq { wq q rq with reading := none }) d)))) s.dev)))
  ∧ (∀ (s : State) (qpn : Nat) (rq : Bool) (es : List FetchedEntry) (r : StaleRead), alive s.ao = true →
    (s.dev.staleReads.find? fun r => r.qpn == qpn && r.rq == rq) = some r →
    exec (.entryFetchReturn qpn rq es) s = after s (settleAll (reopening (fun d => countRefused r.slice r.ring r.first (es.take r.count)
      { d with staleReads := d.staleReads.erase r }) s.dev)))
  ∧ (∀ (s : State) (qpn : Nat) (rq : Bool) (q : Qp) (t : Nat) (l : List (Nat × Nat)), alive s.ao = true →
    getQp s.dev qpn = some q → (wq q rq).rereadDue = some t → sliceLive s.dev q.slice = true → q.held = none → q.frozen = none →
    canRead s.dev (wq q rq).ring.space = true → (wq q rq).next = (wq q rq).rereadAt → (wq q rq).reading = none →
    translate (advanceTo t s.dev) q.slice (wq q rq).ring.space (entryAddr (wq q rq).ring (wq q rq).next) 64 accRead = .inl l →
    exec (.entryReread qpn rq) s = after s (settleAll (
      let w := wq q rq
      let d := touchTrans q.slice w.ring.space (entryAddr w.ring w.next) 64 accRead (advanceTo t s.dev)
      issueFetch qpn rq q.slice w.ring.space w.next 1 (setQp qpn (setWq q rq { w with
        rereadDue := none, rereads := w.rereads + 1, reading := some (w.next, 1), readNo := d.readNo }) { d with readNo := d.readNo + 1 }))))

/-- A NOP at the head of a send queue that may start retires with OK at once; an entry that is not held, has no reason code, and is none of
the collective, MoE or stage kinds starts as a message of the packets that its length needs (R35, R50, R89). -/
def Obligations.EntryStartCompletes : Prop :=
  ∀ (s : State) (qpn : Nat) (q : Qp) (e : CachedEntry), alive s.ao = true → getQp s.dev qpn = some q → mayStartSend s.dev qpn q = true →
    cachedAt q.sq (firstUnstarted q false) = some e → e.tablePending = false → q.cached = true → e.poisoned = false →
    entryHeld q e = false → sendCode s.dev qpn q.slice e = none → e.tablePoisoned = false → localBad s.dev q.slice e = false →
    (entrySpaces e).all (fun sp => canWrite s.dev sp) = true → localAtomicBad s.dev qpn e.raw = false →
    (weOp e.raw = opNop → exec (.entryStart qpn) s = after s (settleAll
      (retireSends qpn (finishSend qpn e.index stOk (takeEntry qpn (newSend e 0 0 0 none none) s.dev)))))
    ∧ (weOp e.raw < 8 → weOp e.raw ≠ opNop → ¬(opUsesWkey (weOp e.raw) = true ∧ (2 ^ 48 ≤ weOff e.raw ∨ 2 ^ 48 < weOff e.raw + weLen e.raw)) →
      exec (.entryStart qpn) s = after s (settleAll (takeEntry qpn
        (newSend e (if weOp e.raw = opFetchAdd ∨ weOp e.raw = opCmpSwap then 1
            else Nat.max 1 ((weLen e.raw + (if q.p.mtu8k then 8191 else 4095)) / (if q.p.mtu8k then 8192 else 4096)))
          (weLen e.raw) q.rqr.sendSeq none none) s.dev)))

/-- PACKET_BUILD: a queue pair that may send and has a packet to build, after it has read a stale rate-table entry again (R297), builds a
resend first; then the next packet of the message that it is in the middle of, whose PSNs are consecutive (R88); then the oldest message of
the collective sequencer; then the next packet of its oldest started entry with packets to build. -/
def Obligations.PacketBuildCompletes : Prop :=
  ∀ (s : State) (qpn : Nat) (q q' : Qp) (src : ReadData), Carries s → getQp s.dev qpn = some q → sliceLive s.dev q.slice = true →
    quiet s.dev q = false → (q.st = .live ∨ q.st = .drain) → q.cached = true →
    ((nextResend q).isSome = true ∨ (nextSeq s.dev qpn).isSome = true ∨ (nextEntry q).isSome = true) →
    let d := cacheContext qpn (if rateStale s.dev q then rateRead qpn s.dev else s.dev)
    getQp d qpn = some q' →
    (∀ o, nextResend q' = some o →
      exec (.packetBuild qpn src) s = after s (settleAll (startTriggered (resendOut qpn q' o src d))))
    ∧ (∀ e, nextResend q' = none → partBuilt q' = some e →
      exec (.packetBuild qpn src) s = after s (settleAll (startTriggered (buildEntry qpn q' e src d))))
    ∧ (∀ m, nextResend q' = none → partBuilt q' = none → nextSeq d qpn = some m →
      exec (.packetBuild qpn src) s = after s (settleAll (startTriggered (buildSeq qpn q' m src d))))
    ∧ (∀ e, nextResend q' = none → partBuilt q' = none → nextSeq d qpn = none → nextEntry q' = some e →
      exec (.packetBuild qpn src) s = after s (settleAll (startTriggered (buildEntry qpn q' e src d))))

/-- RX_REQUEST_PACKET: a well-formed packet addressed to this adapter, for a queue pair that takes it, unencrypted and with a good or a poison
Glaze, is classified by its PSN (R90): one already accepted is a duplicate, a data packet is re-acknowledged without effect; one outside the
window of 512 PSNs is answered with a SEQ NAK; a new packet with PKT_INDEX 0 opens its message and its data is placed; a new READ_REQ of at
most 64 PSNs waits for its turn. While the pipeline's response queue is full the packet is dropped and counted (R261). How many packets that
queue holds is left open (log 156). -/
def Obligations.RequestPacketsAreClassified : Prop :=
  ∀ (s : State) (link : Nat) (p : Packet) (q q' : Qp), Carries s → pkIsReq (phOp p.hdr) = true → reqMalformed p = false →
    let qpn := phDqpn p.hdr
    getQp s.dev qpn = some q → sliceLive s.dev q.slice = true → (q.st = .live ∨ q.st = .drain) → q.cached = true →
    ((parkedIn s.dev (qpn % 4)).any fun x => x.qpn == qpn && x.why == .context) = false →
    q.p.rxKey = none → phEnc p.hdr = false → q.held = none → q.frozen = none → phGen p.hdr = q.gen → glazeOf p ≠ .bad →
    getQp (cacheContext qpn s.dev) qpn = some q' → phDst p.hdr = s.dev.routing.selfEpid →
    (respFull s.dev (qpn % 4) = true →
      exec (.rxRequestPacket link p) s = after s (settleAll (startTriggered (bump 0x1D (qpn % 4) s.dev))))
    ∧ (respFull s.dev (qpn % 4) = false → (acceptedPsn q'.rsp (phPsn p.hdr) = true → phOp p.hdr ≠ pkReadReq → pkAtomic (phOp p.hdr) = false →
      exec (.rxRequestPacket link p) s = after s (settleAll (startTriggered (runDeferreds qpn (ackNow qpn (cacheContext qpn s.dev))))))
    ∧ (acceptedPsn q'.rsp (phPsn p.hdr) = false → inFlight (cacheContext qpn s.dev) qpn q' (phPsn p.hdr) = false →
        512 ≤ (phPsn p.hdr - q'.rsp.epsn).toNat → (isFetch p && keyStopped (cacheContext qpn s.dev) q') = false →
      exec (.rxRequestPacket link p) s = after s (settleAll (startTriggered (runDeferreds qpn
        (sendNak qpn nakSeq 0 (phPsn p.hdr) (cacheContext qpn s.dev))))))
    ∧ (∀ d, acceptedPsn q'.rsp (phPsn p.hdr) = false → inFlight (cacheContext qpn s.dev) qpn q' (phPsn p.hdr) = false →
        (phPsn p.hdr - q'.rsp.epsn).toNat < 512 → phOp p.hdr ≠ pkReadReq → pkAtomic (phOp p.hdr) = false → phIndex p.hdr = 0 →
        p.desc = some d → findMsg q' (phPsn p.hdr) = none →
      exec (.rxRequestPacket link p) s = after s (settleAll (startTriggered (runDeferreds qpn
        (placeData qpn link p (timeNs s.dev) (placeWaiting qpn (phPsn p.hdr)
          (setQp qpn { q' with rsp := { q'.rsp with msgs := q'.rsp.msgs ++ [newMsg (phPsn p.hdr) (phOp p.hdr) d
              (parkedLen (cacheContext qpn s.dev) qpn q' (phPsn p.hdr)) (cacheContext qpn s.dev).now] } }
            (cacheContext qpn s.dev))))))))
    ∧ (acceptedPsn q'.rsp (phPsn p.hdr) = false → inFlight (cacheContext qpn s.dev) qpn q' (phPsn p.hdr) = false →
        phOp p.hdr = pkReadReq → phIndex p.hdr = 0 → readSpan q' (dsLen (p.desc.getD 0)) ≤ 64 →
        (phPsn p.hdr - q'.rsp.epsn).toNat + readSpan q' (dsLen (p.desc.getD 0)) ≤ 512 → keyStopped (cacheContext qpn s.dev) q' = false →
      exec (.rxRequestPacket link p) s = after s (settleAll (startTriggered (runDeferreds qpn
        (setQp qpn { q' with rsp := { q'.rsp with deferred := q'.rsp.deferred ++ [p] } } (cacheContext qpn s.dev)))))))

/-- RX_ACK, RX_NAK and RX_RESPONSE: a well-formed packet addressed to this adapter, for a queue pair in LIVE or DRAIN, that carries its
generation and a good Glaze acts on the queue pair once its context is marked as used; a response ends the run of failed tags (R446). -/
def Obligations.ResponsePacketsAct : Prop :=
  ∀ (s : State) (link : Nat) (p : Packet) (q : Qp), Carries s → respMalformed p = false →
    let qpn := phDqpn p.hdr
    getQp s.dev qpn = some q → sliceLive s.dev q.slice = true → (q.st = .live ∨ q.st = .drain) → q.cached = true →
    ((parkedIn s.dev (qpn % 4)).any fun x => x.qpn == qpn && x.why == .context) = false →
    q.p.rxKey = none → phEnc p.hdr = false → q.held = none → q.frozen = none → phGen p.hdr = q.gen → respGlaze p = .good →
    phDst p.hdr = s.dev.routing.selfEpid →
    (phOp p.hdr = pkAck → exec (.rxAck link p) s = after s (settleAll (startTriggered (rxAck qpn p (timeNs s.dev) (cacheContext qpn s.dev)))))
    ∧ (phOp p.hdr = pkNak → exec (.rxNak link p) s = after s (settleAll (startTriggered (rxNak qpn p (cacheContext qpn s.dev)))))
    ∧ (phOp p.hdr = pkReadResp ∨ phOp p.hdr = pkAtomicResp →
      exec (.rxResponse link p) s = after s (settleAll (startTriggered (rxResponse qpn link p (cacheContext qpn
        (setQp qpn { q with rqr := { q.rqr with authFails := 0 } } s.dev))))))

/-- R104 steps 3 and 4, as the retransmission timer expires: with the retry count at RETRY_LIMIT the queue pair fails with RETRY_EXCEEDED, owned
by the oldest unacknowledged PSN; otherwise the count rises by 1, the RTO becomes the smaller of twice itself and 4 ms, every unacknowledged
PSN that waits out no NAK is to be resent, and the timer restarts. The delay sample is abandoned, and in hardware mode W becomes W_MIN. -/
def Obligations.RetransmissionTimerFollowsR104 : Prop :=
  ∀ (s : State) (qpn t : Nat) (q : Qp), alive s.ao = true → getQp s.dev qpn = some q → clocksRun s.dev q = true → q.rqr.rtoDue = some t →
    ccHostAssisted (advanceTo t s.dev) q = false →
    let d := advanceTo t s.dev
    let d1 := cacheContext qpn (setQp qpn { q with
      rqr := { q.rqr with rtoDue := none },
      cc := { q.cc with sample := none, w := q.cc.prof.wMin, epochEnd := q.rqr.nextPsn, unlimited := false } } d)
    ∀ q1, getQp d1 qpn = some q1 →
    let oldest := q1.rqr.out.find? fun o => !ackedOut o
    (q1.rqr.retries = q1.p.retryLimit → exec (.rtoExpiry qpn) s = after s (settleAll (startTriggered
      (enterError qpn stRetryExceeded.toNat (oldest.map (·.psn)) 0 (oldest.bind fun o => ownerOf q1 o.psn) stRetryExceeded d1))))
    ∧ (q1.rqr.retries < q1.p.retryLimit → exec (.rtoExpiry qpn) s = after s (settleAll (startTriggered
      (setQp qpn (rearm d1 { q1 with rqr := { q1.rqr with
        out := q1.rqr.out.map fun o => if o.head && o.sent && groupOpen q1 o && o.delayUntil.isNone then { o with resend := true } else o
        retries := q1.rqr.retries + 1
        rto := Nat.min (2 * q1.rqr.rto) 4000000 } }) d1))))

/-- The other timers of queue pairs and completion queues act at their moments: ACK_TIMER, a NAK's DELAY, the busy and wait clocks
(R98, R105, R106, R141), the stall timer (R67, R68). The command of a NAK's DELAY first sends again the responses that had no route
(R268). -/
def Obligations.TransportTimersAct : Prop :=
  (∀ (s : State) (qpn t : Nat) (q : Qp), alive s.ao = true → getQp s.dev qpn = some q → q.rsp.ackFirstAt = some t →
    exec (.ackTimerExpiry qpn) s = after s (settleAll (let d := advanceTo (t + q.p.ackTimer) s.dev
      sendAck qpn (setQp qpn { q with rsp := { q.rsp with ackCause := t } } d))))
  ∧ (∀ (s : State) (qpn t : Nat) (psn : U32) (q : Qp) (o : OutPkt), alive s.ao = true →
    let d := resendUnsent qpn psn s.dev
    getQp d qpn = some q → (q.rqr.out.find? fun o => o.psn == psn && o.head) = some o → o.delayUntil = some t →
    exec (.nakDelayExpiry qpn psn) s = after s (settleAll (let d := advanceTo t d
      setQp qpn (rearm d { q with rqr := { q.rqr with out := q.rqr.out.map fun x =>
        if (x.psn - o.psn).toNat < o.nPsn then { x with delayUntil := none, resend := x.head } else x } }) d)))
  ∧ (∀ (s : State) (qpn t : Nat) (q : Qp), alive s.ao = true → getQp s.dev qpn = some q → clocksRun s.dev q = true →
    q.rqr.busySince = some t →
    exec (.busyLimitExpiry qpn) s = after s (settleAll (startTriggered
      (let o := q.rqr.out.find? fun o => !ackedOut o
       enterError qpn 0x80 (o.map (·.psn)) 0 (o.bind fun o => ownerOf q o.psn) stRetryExceeded
        (advanceTo (t + q.p.busyLimit * 1000) s.dev)))))
  ∧ (∀ (s : State) (qpn t : Nat) (q : Qp), alive s.ao = true → getQp s.dev qpn = some q → clocksRun s.dev q = true →
    q.rqr.waitDue = some t →
    exec (.pageWaitLimitExpiry qpn) s = after s (settleAll (startTriggered
      (let o := q.rqr.out.find? fun o => !ackedOut o
       enterError qpn 0x81 (o.map (·.psn)) 0 (o.bind fun o => ownerOf q o.psn) stRetryExceeded (advanceTo t s.dev)))))
  ∧ (∀ (s : State) (c t : Nat) (x : Cq), alive s.ao = true → tget s.dev.cqs c = some x → canWrite s.dev x.ring.space = true →
    (getSlice s.dev x.slice).st ≠ .faultStop → x.stallSince = some t →
    exec (.cqStallTimeout c) s = after s (settleAll (startTriggered
      (let d := advanceTo (t + x.stallTimeout * 1000) s.dev
       let d := sliceEvent x.slice 0x2 2 bankCore c x.hold.length 0 (freeHold x.hold { d with
         cqs := tset d.cqs c { x with error := true, hold := [], stalled := false, stallSince := none, armed := none } })
       let l := (d.qps.filter fun p => p.2.p.scqn == c || p.2.p.rcqn == c).map (·.1)
       sliceGoes x.slice (unstall x.slice (l.foldl (fun d q => stallError x q d) d))))))

/-- The host-assisted rate path: a stale copy of the rate-table entry of a queue pair with a packet to build is read again; an
interval of a slice's feedback ends (R297, R298). -/
def Obligations.HostAssistedRates : Prop :=
  (∀ (s : State) (qpn : Nat) (q : Qp), alive s.ao = true → getQp s.dev qpn = some q → sliceLive s.dev q.slice = true →
    (getSlice s.dev q.slice).ccHa = true → hasPacket s.dev qpn q = true →
    (q.cc.tableAt = none ∨ ∃ t, q.cc.tableAt = some t ∧ t + (getSlice s.dev q.slice).ratePoll < s.dev.now) →
    exec (.rateTableRead qpn) s = after s (
      let a := 0x62000000 + qpn * 8
      let e := leNat (memRead s.dev.mem a 8)
      let q : Qp := { q with cc := { q.cc with bucket := bucketNow s.dev q, bucketAt := s.dev.now, tableAt := some s.dev.now } }
      if poisonedAt s.dev a 8 = true then bump 0x19 q.slice (setQp qpn q s.dev)
      else if e % 2 = 0 then setQp qpn q s.dev
      else
        let d := setQp qpn (applyRate e q) s.dev
        if 16384 < e / 2 ^ 16 % 2 ^ 24 then bump 0x18 q.slice d else d))
  ∧ (∀ (s : State) (k : Nat), alive s.ao = true → (getSlice s.dev k).st = .live → (getSlice s.dev k).ccHa = true →
    exec (.feedbackIntervalEnd k) s = after s (
      let d := advanceTo ((getSlice s.dev k).fbSince + (getSlice s.dev k).feedbackInterval) s.dev
      let d := setSlice k { getSlice d k with fbSince := d.now } d
      (d.qps.filter fun p => p.2.slice == k).foldl (fun d p => endInterval k p.1 d) (pumpFeedback k d)))

/-! ## Windows and translation (04) -/

/-- WIN_CREATE, WIN_DESTROY and WIN_QUERY complete (R111, R114): a created window has an index that was free, the TAG after the index's last
one and V set; a destroyed one without holders leaves its index free at once; one with holders waits. -/
def Obligations.WindowCommandsComplete : Prop :=
  (∀ (s : State) (h : Cmd) (perm space base length : Nat), Takes s 0x0201 h true → perm < 16 → spaceOk space = true → 0 < length →
    length < 2 ^ 48 → base + length ≤ 2 ^ 48 → spaceBound s.dev h.slice space = true → quotaFull s.dev h.slice 2 = false →
    (∃ i, i < 2 ^ 24 ∧ windowFree s.dev i = true) →
    ∃ i, i < 2 ^ 24 ∧ windowFree s.dev i = true ∧
      exec (.winCreate h perm space base length) s = after s (settleAll (
        let d := evictWindow (i % 4) { s.dev with freeCtr := s.dev.freeCtr + 1 }
        let tag : BitVec 8 := match tget s.dev.windows i with
          | some w => w.tag + 1
          | none => 0
        reply (cmdRow 0x0201) h csOk 0 (packResult [(i * 256 + tag.toNat, 4)]) { d with
          windows := tset d.windows i {
            tag := tag, owner := h.slice, v := true
            rw := perm.testBit 0, rr := perm.testBit 1, ra := perm.testBit 2, rt := perm.testBit 3
            space := space, length := length, base := base, closing := false, freedAt := none, cached := true
            stored := ((tget s.dev.windows i).map fun w => if w.cached then w.stored else encWindow w).getD 0 } })))
  ∧ (∀ (s : State) (h : Cmd) (wkey : U32) (w : Window), Takes s 0x0202 h true → tget s.dev.windows (wkey.toNat / 256 % 2 ^ 24) = some w →
    w.v = true → w.tag = BitVec.ofNat 8 wkey.toNat → w.owner = h.slice →
    (let i := wkey.toNat / 256 % 2 ^ 24
     ((∀ x ∈ s.dev.xlt.holders, x.window ≠ some i) →
       exec (.winDestroy h wkey) s = after s (settleAll (reply (cmdRow 0x0202) h csOk 0 0 { s.dev with
         windows := tset (tset s.dev.windows i { w with v := false, closing := true, cached := false }) i
           { w with v := false, closing := false, cached := false, freedAt := some s.dev.now } })))
     ∧ ((∃ x ∈ s.dev.xlt.holders, x.window = some i) →
       exec (.winDestroy h wkey) s = after s (settleAll (waitOn h 0x0202 (.window i s.dev.now) { s.dev with
         windows := tset s.dev.windows i { w with v := false, closing := true, cached := false } })))))
  ∧ (∀ (s : State) (h : Cmd) (i : Nat) (w : Window), Takes s 0x0203 h true → i < 2 ^ 24 → tget s.dev.windows i = some w →
    (w.v = true ∨ w.closing = true) → w.owner = h.slice →
    exec (.winQuery h i) s = after s (reply (cmdRow 0x0203) h csOk 0 (encWindow w) s.dev))

/-- XLT_ROOT_SET, XLT_INVAL and XLT_INVAL_WAIT complete (R122, R143, R145): with no holder of the closed epoch or an earlier one the reply is OK
with no holders and the epoch that closed; with holders the command waits. -/
def Obligations.RootAndInvalidationCommandsComplete : Prop :=
  (∀ (s : State) (h : Cmd) (space root : Nat), Takes s 0x0204 h true → spaceOk space = true → root % 4096 = 0 → root < 2 ^ 52 →
    (closedEpochs s.dev h.slice).length < 4 →
    (let e := (getSlice s.dev h.slice).epoch
     let k := h.slice * 16 + space
     let d := (invalidate h.slice space 0 (2 ^ 36) { s.dev with xlt := { s.dev.xlt with
       roots := if root = 0 then tdel s.dev.xlt.roots k else tset s.dev.xlt.roots k root } }).2
     (holdersOf s.dev h.slice e = [] →
       exec (.xltRootSet h space root) s = after s (settleAll
         (reply (cmdRow 0x0204) h csOk 0 (packResult [(0, 4), (e.toNat, 2)]) (invalDone h.slice e d))))
     ∧ (holdersOf s.dev h.slice e ≠ [] →
       exec (.xltRootSet h space root) s = after s (settleAll (waitOn h 0x0204 (.epoch h.slice e s.dev.now) d)))))
  ∧ (∀ (s : State) (h : Cmd) (space whole base length : Nat), Takes s 0x0205 h true → spaceOk space = true →
    ((whole = 1 ∧ base = 0 ∧ length = 0) ∨ (whole = 0 ∧ 0 < length ∧ base + length ≤ 2 ^ 48)) →
    (closedEpochs s.dev h.slice).length < 4 →
    (let e := (getSlice s.dev h.slice).epoch
     let d := (invalidate h.slice space (if whole = 1 then 0 else base / 4096)
       (if whole = 1 then 2 ^ 36 else (base + length + 4095) / 4096) s.dev).2
     (holdersOf s.dev h.slice e = [] →
       exec (.xltInval h space whole base length) s = after s (settleAll
         (reply (cmdRow 0x0205) h csOk 0 (packResult [(0, 4), (e.toNat, 2)]) (invalDone h.slice e d))))
     ∧ (holdersOf s.dev h.slice e ≠ [] →
       exec (.xltInval h space whole base length) s = after s (settleAll (waitOn h 0x0205 (.epoch h.slice e s.dev.now) d)))))
  ∧ (∀ (s : State) (h : Cmd) (epoch : Nat), Takes s 0x0206 h true → epoch < 65536 →
    (let e := BitVec.ofNat 16 epoch
     1 ≤ ((getSlice s.dev h.slice).epoch - e).toNat → ((getSlice s.dev h.slice).epoch - e).toNat ≤ 32768 →
     (holdersOf s.dev h.slice e = [] →
       exec (.xltInvalWait h epoch) s = after s (settleAll (reply (cmdRow 0x0206) h csOk 0 0 (invalSeen h.slice s.dev))))
     ∧ (holdersOf s.dev h.slice e ≠ [] →
       exec (.xltInvalWait h epoch) s = after s (settleAll (waitOn h 0x0206 (.epoch h.slice e s.dev.now) s.dev)))))

/-- R143, steps 1 to 3: the epoch of the slice advances by 1 and no other slice's does; the slice has no translation in the space and no
FAILED record in the range that could serve a lookup of a page there, and no table pointer that its walks keep for the range; nothing that
another slice's lookups find goes. -/
def Obligations.InvalidationWithdraws : Prop :=
  ∀ (d : Dev) (slice space lo hi : Nat), let d' := (invalidate slice space lo hi d).2
    (getSlice d' slice).epoch = (getSlice d slice).epoch + 1
    ∧ (∀ k, k ≠ slice → (getSlice d' k) = getSlice d k)
    ∧ (∀ sp page acc, lookup d' slice sp page acc = none)
    ∧ (∀ page, lo ≤ page → page < hi → failedAt d' slice space page = false)
    ∧ (∀ p ∈ d'.xlt.ptrs, p.slice = slice → p.space = space →
        hi ≤ p.at_ * 2 ^ (9 * (4 - p.level)) ∨ (p.at_ + 1) * 2 ^ (9 * (4 - p.level)) ≤ lo)
    ∧ (∀ k sp page acc, k ≠ slice → lookup d' k sp page acc = lookup d k sp page acc ∧ failedAt d' k sp page = failedAt d k sp page)

/-- INVAL_HOLDERS_DONE and INVAL_TIMEOUT_EXPIRY complete (R114, R143 to R145). -/
def Obligations.HolderWaitsEnd : Prop :=
  (∀ (s : State) (slice i : Nat), alive s.ao = true → (∀ x ∈ s.dev.xlt.holders, x.window ≠ some i) →
    exec (.invalHoldersDone slice (some i)) s = after s (settleAll
      (freeWindow i (s.dev.waits.foldl (fun d w => endWindowWait i w d) s.dev))))
  ∧ (∀ (s : State) (slice : Nat), alive s.ao = true →
    exec (.invalHoldersDone slice none) s = after s (settleAll (
      let d := invalSeen slice (s.dev.waits.foldl (fun d w => endEpochWait slice w d) s.dev)
      if closedEpochs d slice = [] then { d with slices := tset d.slices slice { getSlice d slice with removing := [] } } else d)))
  ∧ (∀ (d : Dev) (slice : Nat) (v done : Bool) (n : BitVec 16), (getSlice d slice).xltHaNext = some (v, n, done) →
    n ≠ (getSlice d slice).epoch → holdersOf d slice n = [] → crumbsOut d slice = false →
    (getSlice (invalSeen slice d) slice).xltHa = v ∧ (getSlice (invalSeen slice d) slice).xltHaNext = none)
  ∧ (∀ (s : State) (slice t : Nat) (h : Cmd) (op : Nat) (e : BitVec 16), alive s.ao = true →
    (s.dev.waits.find? fun w => (waitSince slice none w.2.2).isSome) = some (h, op, .epoch slice e t) →
    exec (.invalTimeoutExpiry slice none) s = after s (settleAll (
      let d := advanceTo (t + 200000) s.dev
      let n := holderCount (holdersOf d slice e)
      holderEvents slice (holdersOf d slice e) false (reply (cmdRow op) h csInvalTimeout 0
        (if op = 0x0206 then packResult [(n, 4)] else packResult [(n, 4), (e.toNat, 2)])
        { d with waits := d.waits.filter fun x => !(x == (h, op, .epoch slice e t)) }))))
  ∧ (∀ (s : State) (slice i t : Nat) (h : Cmd) (op : Nat) (w : Window), alive s.ao = true →
    (s.dev.waits.find? fun x => (waitSince slice (some i) x.2.2).isSome) = some (h, op, .window i t) → tget s.dev.windows i = some w →
    exec (.invalTimeoutExpiry slice (some i)) s = after s (settleAll (
      let d := advanceTo (t + 200000) s.dev
      holderEvents w.owner (holdersOfWindow d i) true (reply (cmdRow op) h csInvalTimeout 0
        (packResult [(holderCount (holdersOfWindow d i), 4)])
        { d with waits := d.waits.filter fun x => !(x == (h, op, .window i t)) }))))

/-- FQ_CREATE, XLT_RESOLVE, WALK_DONE and the timers of faults complete (R125, R131 to R138). -/
def Obligations.FaultsAreResolved : Prop :=
  (∀ (s : State) (h : Cmd) (r : RingP), Takes s 0x0208 h true → spaceOk r.space = true → 6 ≤ r.lg → r.lg ≤ 16 →
    (getSlice s.dev h.slice).faultQ = none → ringStatus s.dev h.slice r.space r.base r.lg 32 = csOk →
    exec (.fqCreate h r) s = after s (settleAll (ok (cmdRow 0x0208) h (pumpCrumbs h.slice { s.dev with
      slices := tset s.dev.slices h.slice { getSlice s.dev h.slice with
        faultQ := some ⟨r.space, r.base, r.lg, r.index, r.index⟩ } }))))
  ∧ (∀ (s : State) (h : Cmd) (items : List (Nat × Nat)) (cons : U32), Takes s 0x0207 h true → 1 ≤ items.length → items.length ≤ 16 →
    (∀ x ∈ items, x.2 ≤ 1) →
    exec (.xltResolve h items cons) s = after s (settleAll (startTriggered (
      let p := items.foldl (resolveOne h.slice) (0, s.dev)
      let r := resolveIndex h.slice cons p.2
      reply (cmdRow 0x0207) h csOk 0 (packResult [(p.1, 1), (if r.1 then 1 else 0, 1)])
        (trySwitch h.slice (pumpCrumbs h.slice (compareMarks r.2)))))))
  ∧ (∀ (s : State) (slice space page : Nat) (k : Walk) (pfn run : Nat) (r w ns : Bool), alive s.ao = true →
    (s.dev.xlt.walks.find? fun x => walkOf slice space page x && !x.ats && walkRuns s.dev x) = some k →
    walk s.dev slice space page 0 = .leaf pfn run r w ns →
    exec (.walkDone slice space page) s = after s (settleAll (startTriggered (
      let d := fillPtrs slice space page
        { s.dev with xlt := { s.dev.xlt with walks := s.dev.xlt.walks.filter fun x => !(x == k) } }
      let d := addTrans page ⟨slice, space, page, run, pfn, r, w, ns, (getSlice d slice).epoch, false, false⟩ d
      k.waiters.foldl (fun d x =>
        match lacksPerm x.2 r w with
        | some reason => waiterFaults slice space page reason false x d
        | none => waiterGoes space page x d) d))))
  ∧ (∀ (s : State) (slice t : Nat), alive s.ao = true → (getSlice s.dev slice).crumbsFrom = some t →
    exec (.crumbBatchTimer slice) s = after s (settleAll (trySwitch slice (deliverBatch slice (advanceTo (t + 20000) s.dev)))))
  ∧ (∀ (s : State) (qpn t : Nat) (rq : Bool) (q : Qp), alive s.ao = true → getQp s.dev qpn = some q → sliceLive s.dev q.slice = true →
    (wq q rq).faultDue = some t → exec (.faultTimeoutExpiry qpn true rq) s = after s (settleAll (startTriggered
      (stopFetch qpn rq true (wq q rq).next (advanceTo t s.dev)))))
  ∧ (∀ (s : State) (qpn t : Nat) (rq : Bool) (q : Qp) (i : U32), alive s.ao = true → getQp s.dev qpn = some q →
    sliceLive s.dev q.slice = true → sendFaultDue s.dev qpn q = some (t, i) →
    exec (.faultTimeoutExpiry qpn false rq) s = after s (settleAll (startTriggered
      (enterError qpn stPageFault.toNat (some (((nextResend q).map (·.psn)).getD q.rqr.nextPsn)) 0 (some (false, i)) stPageFault
        (advanceTo t s.dev)))))
  ∧ (∀ (s : State) (slice space page : Nat) (f : FailedRec), alive s.ao = true →
    (s.dev.xlt.failed.find? fun f => f.slice == slice && f.space == space && f.page == page) = some f →
    exec (.failedRecordExpiry slice space page) s = after s (
      let d := advanceTo f.until_ s.dev
      { d with xlt := { d.xlt with failed := d.xlt.failed.filter fun g => !(g == f) } }))

/-- The host's translation and the fetches of contexts and window entries complete (R77, R78, R115, R149 to R151). -/
def Obligations.HostTranslationCompletes : Prop :=
  (∀ (s : State) (slice page size pfn : Nat) (r w u : Bool) (k : Walk), alive s.ao = true →
    (s.dev.xlt.walks.find? fun x => walkOf slice 0 page x && x.ats) = some k → (r = true ∨ w = true) →
    exec (.atsCompletion slice page r w u size pfn) s = after s (settleAll (startTriggered (reopening (fun d =>
      let n := Nat.max 1 (Nat.min size 0x200000 / 4096)
      let first := page / n * n
      let d := addTrans page ⟨slice, 0, first, n - 1, if u then first else pfn - (page - first), r, w, false,
          (getSlice d slice).epoch, true, u⟩
        { d with xlt := { d.xlt with walks := d.xlt.walks.filter fun x => !(x == k) } }
      k.waiters.foldl (fun d x =>
        if (lacksPerm x.2 r w).isSome then
          if (getSlice d slice).priStopped then deniedFails { k with waiters := [x] } d
          else waiterFaults slice 0 page 6 true x d
        else waiterGoes 0 page x d) d) s.dev))))
  ∧ (∀ (s : State) (slice page code : Nat) (f : Fault1), alive s.ao = true →
    ((hostFaults s.dev slice).find? fun f => f.crumb.page == page && f.asked && !f.hasCrumb) = some f →
    exec (.prgResponse slice page code) s = after s (settleAll (startTriggered
      (if code = 0 then resolveFault true f s.dev else if code = 1 then resolveFault false f s.dev else prgFailure slice s.dev))))
  ∧ (∀ (s : State) (pasid base length itag : Nat) (whole : Bool), alive s.ao = true →
    exec (.atsInvalidateRequest pasid base length whole itag) s = after s (settleAll (
      let lo := if whole then 0 else base / 4096
      let hi := if whole then 2 ^ 36 else (base + length + 4095) / 4096
      atsInvalDone itag ((if whole then (s.dev.slices.filter fun p => p.2.st != .free).map (·.1)
        else slicesOf s.dev pasid).foldl (fun d k =>
        let e := (getSlice d k).epoch
        let d' := (invalidate k 0 lo hi d).2
        if holdersOf d' k e = [] then invalDone k e d'
        else { d' with waits := d'.waits ++ [(noCmd, 0, .ats k e d'.now false itag)] }) s.dev))))
  ∧ (∀ (s : State) (qpn : Nat) (q : Qp) (mirrorBad : Bool), Carries s → getQp s.dev qpn = some q → q.cached = false →
    poisonedAt s.dev (contextAddr qpn) 512 = false →
    exec (.contextFetchDone qpn false mirrorBad) s = after s (settleAll (startTriggered (
      let d := cacheContext qpn s.dev
      ((parkedIn s.dev (qpn % 4)).filter fun x => x.qpn == qpn && x.why == .context).foldl (fun d x => contextReady x d) d))))
  ∧ (∀ (s : State) (i : Nat) (w : Window) (mirrorBad : Bool), Carries s → tget s.dev.windows i = some w → w.v = true → w.cached = false →
    poisonedAt s.dev (windowAddr i) 16 = false →
    exec (.windowFetchDone i false mirrorBad) s = after s (settleAll (startTriggered (
      let d := evictWindow (i % 4) s.dev
      let d := { d with windows := tset d.windows i { w with cached := true, stored := encWindow w } }
      ((List.range 4).flatMap fun k => (parkedIn s.dev k).filter fun x => x.why == .window i).foldl (fun d x => unpark x d) d))))

/-! ## Transform engines (05) -/

/-- TXE_LOAD, TXE_PLAN_LOAD, TXE_UNLOAD, TXE_AUX_WRITE and TXE_SEED complete (R171, R179, R181 to R185): an image is read through the slice's
translation (R181 check 1), a loaded program runs from its slot; the one that was there goes once nothing runs it; an unloaded slot is empty at
once. Where a row carries the image's address and length, and a plan item's own mask and space, is the model's choice (logs 13, 152). -/
def Obligations.ProgramCommandsComplete : Prop :=
  (∀ (s : State) (h : Cmd) (slot mask space : Nat) (im : ImageRead) (x : Image), Takes s 0x0301 h true → slot < 64 → mask < 2 ^ 24 →
    space < 2 → im.addr + im.len ≤ 2 ^ 48 → imageMisses s.dev h.slice space im = [] → checkImage (readImage h.slice space im s.dev).1 = .inr x →
    (mask = 0 ∨ (maskEngines mask).length = x.engines) →
    (let d := (readImage h.slice space im s.dev).2
     let r := placeImage d d.programs h.slice slot mask d.freeCtr x
     fitFails d r.1 h.slice r.2 x.engines = none →
     exec (.txeLoad h slot mask space im) s = after s (settleAll (replyPinned (pinnedObjs d) (cmdRow 0x0301) h (maskOf r.2.engines)
       { d with programs := r.1, freeCtr := d.freeCtr + 1 }))))
  ∧ (∀ (s : State) (h : Cmd) (items : List PlanItem) (l : List Program) (ps : List (Program × Nat)), Takes s 0x0302 h true →
    1 ≤ items.length → items.length ≤ 64 → (items.map (·.slot)).Nodup →
    (∀ x ∈ items, x.slot < 64 ∧ x.mask < 2 ^ 24 ∧ x.space < 2 ∧ x.image.addr + x.image.len ≤ 2 ^ 48) →
    (∀ x ∈ items, imageMisses s.dev h.slice x.space x.image = []) →
    let d := (readPlan h.slice items s.dev).2
    placePlan d h.slice 0 (readPlan h.slice items s.dev).1 d.programs [] = .inr (l, ps) →
    (∀ x ∈ ps, fitFails d l h.slice x.1 x.2 = none) →
    exec (.txePlanLoad h items) s = after s (settleAll (replyPinned (pinnedObjs d) (cmdRow 0x0302) h 0
      { d with programs := l, freeCtr := d.freeCtr + items.length })))
  ∧ (∀ (s : State) (h : Cmd) (slot : Nat) (p : Program), Takes s 0x0303 h true → slot < 64 → findProg s.dev h.slice slot = some p →
    exec (.txeUnload h slot) s = after s (settleAll (unpinned (pinnedObjs s.dev) (waitOn h 0x0303 (.program p.id) { s.dev with
      programs := s.dev.programs.map fun q => if q.id = p.id then { q with dead := true } else q }))))
  ∧ (∀ (s : State) (h : Cmd) (slot offset : Nat) (data : List Byte) (p : Program), Takes s 0x0304 h true → slot < 64 →
    findProg s.dev h.slice slot = some p → offset + data.length ≤ p.auxBytes →
    exec (.txeAuxWrite h slot offset data) s = after s (ok (cmdRow 0x0304) h { s.dev with
      programs := s.dev.programs.map fun q => if q.id = p.id then { q with aux := patchBytes q.aux offset data } else q }))
  ∧ (∀ (s : State) (h : Cmd) (mask : Nat) (seed : U64), Takes s 0x0305 h false → mask < 2 ^ 24 →
    ∃ t : Tbl Engine, exec (.txeSeed h mask seed) s = after s (ok (cmdRow 0x0305) h { s.dev with engines := t })
      ∧ (∀ e, e < 24 → mask.testBit e = true → tgetD t e Engine.reset = { tgetD s.dev.engines e Engine.reset with seed := seed })
      ∧ (∀ e, (24 ≤ e ∨ mask.testBit e = false) → tgetD t e Engine.reset = tgetD s.dev.engines e Engine.reset))

/-- ITEM_DISPATCH, RANGE_LOCK_GRANT, ITEM_END and ACCUMULATE_COMMIT complete (R154, R184, R192, R195, R212 to R216): an item takes its
program as it is dispatched, the one that its entry bound or the one in its slot now; the output of an item whose program reads no target is
written as its pages translate (R127). -/
def Obligations.EngineWorkCompletes : Prop :=
  (∀ (s : State) (id e : Nat) (i : Item) (p : Program), alive s.ao = true → findItem s.dev id = some i → i.stage = .queued →
    sliceLive s.dev i.slice = true →
    (i.slot = none ∨ ∃ k g, i.slot = some k ∧ findProg s.dev i.slice k = some g ∧ g.id = i.prog ∧ i.len % Nat.max 1 g.inGran = 0) →
    progOf s.dev i.prog = some p → bestEngine s.dev p.engines = some e →
    exec (.itemDispatch id) s = after s (settleAll (startTriggered (fillEngine e 4 (startWake (.engine e) { s.dev with
      items := s.dev.items.map fun x => if x.id = id then { x with stage := .waiting e } else x })))))
  ∧ (∀ (s : State) (id k e : Nat) (i i' : Item) (g p : Program), alive s.ao = true → findItem s.dev id = some i → i.stage = .queued →
    sliceLive s.dev i.slice = true → i.slot = some k → findProg s.dev i.slice k = some g → i.len % Nat.max 1 g.inGran = 0 →
    g.id ≠ i.prog →
    (let d := { s.dev with items := s.dev.items.map fun x => if x.id = i.id then underProgram s.dev g x else x }
     findItem d id = some i' → progOf d i'.prog = some p → bestEngine d p.engines = some e →
     exec (.itemDispatch id) s = after s (settleAll (startTriggered (fillEngine e 4 (startWake (.engine e) { d with
       items := d.items.map fun x => if x.id = id then { x with stage := .waiting e } else x }))))))
  ∧ (∀ (s : State) (id e : Nat) (i : Item), alive s.ao = true → findItem s.dev id = some i → i.stage = .waitLock e →
    lockFree (dropLocks s.dev) i = true →
    exec (.rangeLockGrant id) s = after s (
      let d := dropLocks s.dev
      { d with
        items := d.items.map fun x => if x.id = i.id then { x with stage := .resident e, snap := readTarget d i } else x
        lockQ := d.lockQ.filter fun x => !(x.2 == lockKey i)
        locks := d.locks ++ (itemLines i).map fun l => (l, lockKey i) }))
  ∧ (∀ (s : State) (id e : Nat) (x t : ReadData) (i : Item) (p : Program), alive s.ao = true → findItem s.dev id = some i →
    i.stage = .resident e → progOf s.dev i.prog = some p → readsClosed s.dev i p = false → sliceLive s.dev i.slice = true →
    (let input := itemInput s.dev i x
     let d := endHolder i.srcToken s.dev
     (writesLate i p = false ∨ input.refused = true →
       exec (.itemEnd id ⟨x, t⟩) s = after s (settleAll (startTriggered (leaveEngine e (dropLocks
         (deliverItem i p input (itemTarget s.dev i p t) (itemEntry s.dev i)
           { d with items := d.items.filter fun x => !(x.id == id) }))))))
     ∧ (writesLate i p = true → input.refused = false →
       exec (.itemEnd id ⟨x, t⟩) s = after s (settleAll (startTriggered (makeItem e i p input d))))))
  ∧ (∀ (s : State) (qpn : Nat) (psn : U32) (q : Qp), alive s.ao = true → getQp s.dev qpn = some q →
    (∃ a ∈ s.dev.accums, a.qpn = qpn ∧ a.psn = psn) →
    exec (.accumulateCommit qpn psn) s = after s (settleAll (startTriggered (dataPlaced qpn (commitPieces q.slice
      (s.dev.accums.filter fun a => a.qpn == qpn && a.psn == psn)
      { s.dev with accums := s.dev.accums.filter fun a => !(a.qpn == qpn && a.psn == psn) })))))

/-- R154: the engine that the packet core chooses is in service and in the program's engine set, and no engine of the set that is in service
has fewer queued cycles, nor as few and a lower number. -/
def Obligations.DispatchPicksLeastLoaded : Prop :=
  ∀ (d : Dev) (l : List Nat) (e : Nat), bestEngine d l = some e →
    e ∈ l ∧ (getEngine d e).mode = .service
    ∧ ∀ x ∈ l, (getEngine d x).mode = .service → engineLoad d e ≤ engineLoad d x ∧ (engineLoad d x = engineLoad d e → e ≤ x)

/-- Every encoding of a format of Table 5.2 or 5.3 that is no NaN comes back from its exact value: the engines' reading and writing of values
agree, subnormals and both zeros included (R160, R161). -/
def Obligations.FormatsRoundTrip : Prop :=
  ∀ (c : Nat) (f : FloatFmt) (x : Nat), floatFmt c = some f → x < 2 ^ (1 + f.ebits + f.mbits) → isNan (floatVal f x) = false →
    floatBits f (floatVal f x) = x

/-! ## Collectives, stage streams, triggered work (06) -/

/-- COLL_CREATE, COLL_DESTROY, COLL_RESET and MOE_BIND complete (R197 to R199, R210, R218, R219); COLL_STEP_START lets a group's work go on as
far as it can, or fails an entry whose input passes the end of the work window with the status of the model's choice (R200, log 175), and STEP_TIMEOUT_EXPIRY ends a collective that made no progress. -/
def Obligations.GroupCommandsComplete : Prop :=
  (∀ (s : State) (h : Cmd) (p : CollP), Takes s 0x0401 h true → firstBad (collRange p) = none →
    collRefusal s.dev h.slice p (newGroup s.dev h.slice p) = none → tget s.dev.groups p.group = none → quotaFull s.dev h.slice 9 = false →
    exec (.collCreate h p) s = after s (settleAll (ok (cmdRow 0x0401) h { s.dev with
      groups := tset s.dev.groups p.group {
        slice := h.slice
        p := p
        members := readEntries s.dev.mem p.members (p.n * p.channels)
        opSeq := 0, broken := false, run := none, moe := none, waiting := [] } })))
  ∧ (∀ (s : State) (h : Cmd) (gid : Nat) (g : Group), Takes s 0x0402 h true → tget s.dev.groups gid = some g → g.slice = h.slice →
    exec (.collDestroy h gid) s = after s (settleAll (waitOn h 0x0402 (.group gid) s.dev)))
  ∧ (∀ (s : State) (h : Cmd) (gid : Nat) (g : Group), Takes s 0x0403 h true → tget s.dev.groups gid = some g → g.slice = h.slice →
    g.run = none →
    exec (.collReset h gid) s = after s (ok (cmdRow 0x0403) h { s.dev with
      groups := tset s.dev.groups gid { g with opSeq := 0, broken := false } }))
  ∧ (∀ (s : State) (h : Cmd) (p : MoeP) (g : Group), Takes s 0x0404 h true → tget s.dev.groups p.group = some g → g.slice = h.slice →
    firstBad (moeRange p (groupMtu s.dev g)) = none → g.p.channels = 1 → g.p.algoMask.testBit 2 = true →
    inAllocation s.dev h.slice p.map (4 * p.experts) = true → poisonedAt s.dev p.map (4 * p.experts) = false →
    (readWords s.dev.mem p.map p.experts).all (mapOk g p) = true → reducerOk s.dev h.slice p.combSlot 8 = true → groupBusy g = false →
    exec (.moeBind h p) s = after s (ok (cmdRow 0x0404) h { s.dev with
      groups := tset s.dev.groups p.group { g with moe := some {
        p := p, map := readWords s.dev.mem p.map p.experts, seq := 0, combining := false, run := none
        landed := [], overflow := 0, dispatched := 0, tickets := [] } } }))
  ∧ (∀ (s : State) (gid : Nat), alive s.ao = true →
    (inputPasses s.dev gid = none →
      exec (.collStepStart gid) s = after s (settleAll (startTriggered (moeTurn gid (collTurn gid s.dev)))))
    ∧ ∀ o, inputPasses s.dev gid = some o →
      exec (.collStepStart gid) s = after s (settleAll (startTriggered
        (moeTurn gid (failOwner o.1 (some o) stLocalAccess stLocalAccess s.dev)))))
  ∧ (∀ (s : State) (gid : Nat) (g : Group) (r : CollRun), alive s.ao = true → tget s.dev.groups gid = some g → g.run = some r →
    r.phase ≠ 1 → sliceLive s.dev g.slice = true →
    exec (.stepTimeoutExpiry gid) s = after s (settleAll (startTriggered
      (abortColl gid 0 0xFF (advanceTo (r.lastProgress + g.p.stepTimeout * 1000) s.dev)))))

/-- STAGE_BIND, of a new stream and of one that is there, STAGE_REPLAY and STAGE_QUERY complete (R229, R235, R406, R407, R482): a replay sends the logged
micro-batches from FROM on again, and replies when the last of them has retired, or at once where nothing from FROM on is logged. -/
def Obligations.StageCommandsComplete : Prop :=
  (∀ (s : State) (h : Cmd) (p : StageP) (q : Qp), Takes s 0x0405 h true → firstBad (stageRange p) = none → getQp s.dev p.qpn = some q →
    q.slice = h.slice → q.stream = none → tget s.dev.streams p.stream = none →
    (p.role = 0 → p.k * p.slotBytes ≤ quotaLimit s.dev h.slice 3 * 0x200000 ∧ inAllocation s.dev h.slice p.log (p.k * p.slotBytes) = true) →
    quotaFull s.dev h.slice 10 = false →
    exec (.stageBind h p) s = after s (settleAll (ok (cmdRow 0x0405) h { s.dev with
      qps := tset s.dev.qps p.qpn { q with stream := some p.stream }
      streams := tset s.dev.streams p.stream {
        slice := h.slice, sender := p.role == 0, qpn := some p.qpn, p := p, nextSeq := p.firstSeq, logged := p.firstSeq
        oldest := p.firstSeq, sizes := [], unretired := 0, replay := none } })))
  ∧ (∀ (s : State) (h : Cmd) (p : StageP) (q : Qp) (x : Stream), Takes s 0x0405 h true → firstBad (stageRange p) = none →
    getQp s.dev p.qpn = some q → q.slice = h.slice → q.stream = none → tget s.dev.streams p.stream = some x → x.slice = h.slice →
    x.sender = (p.role == 0) →
    exec (.stageBind h p) s = after s (settleAll (reply (cmdRow 0x0405) h csOk 0 (if x.sender then x.logged.toNat else 0)
      (bindStream p.stream (reboundStream x p) x.qpn s.dev))))
  ∧ (∀ (s : State) (h : Cmd) (n qpn : Nat) (from_ : U32) (x : Stream), Takes s 0x0406 h true → tget s.dev.streams n = some x →
    x.slice = h.slice → x.sender = true → x.qpn = some qpn → (from_ - x.oldest).toNat ≤ (x.nextSeq - x.oldest).toNat →
    (seqLe x.logged from_ = true → exec (.stageReplay h n from_) s = after s (ok (cmdRow 0x0406) h s.dev))
    ∧ (seqLe x.logged from_ = false → exec (.stageReplay h n from_) s = after s
        ((List.range (x.logged - from_).toNat).foldl (fun d i => replayOne n qpn x (from_ + u32 i) d)
          (waitOn h 0x0406 (.replay n) { s.dev with streams := tset s.dev.streams n { x with replay := some (from_, x.logged) } }))))
  ∧ (∀ (s : State) (h : Cmd) (n : Nat) (x : Stream), Takes s 0x040A h true → tget s.dev.streams n = some x → x.slice = h.slice →
    exec (.stageQuery h n) s = after s (reply (cmdRow 0x040A) h csOk 0 (encStreamResult x) s.dev))

/-- TRIG_CREATE, TRIG_ARM and TRIG_DESTROY complete (R236, R238, R240): a counter trigger adds its credit at once, and disarms, where its
queue's counter has reached THRESHOLD. That TRIG_CREATE arms a counter trigger is the model's reading (log 71). -/
def Obligations.TriggerCommandsComplete : Prop :=
  (∀ (s : State) (h : Cmd) (p : TrigP) (src dst : Qp), Takes s 0x0407 h true → p.trig < 65536 → p.kind = 0 → 1 ≤ p.count →
    p.count ≤ 65535 → getQp s.dev p.source = some src → src.slice = h.slice → getQp s.dev p.target = some dst → dst.slice = h.slice →
    tget s.dev.triggers p.trig = none → quotaFull s.dev h.slice 11 = false →
    exec (.trigCreate h p) s = after s (settleAll (startTriggered (ok (cmdRow 0x0407) h { s.dev with
      triggers := tset s.dev.triggers p.trig ⟨h.slice, p, 0, false⟩ }))))
  ∧ (∀ (s : State) (h : Cmd) (p : TrigP) (src : Cq) (dst : Qp), Takes s 0x0407 h true → p.trig < 65536 → p.kind = 1 →
    tget s.dev.cqs p.source = some src → src.slice = h.slice → getQp s.dev p.target = some dst → dst.slice = h.slice →
    tget s.dev.triggers p.trig = none → quotaFull s.dev h.slice 11 = false →
    ((src.counter - p.threshold).toNat < 2 ^ 31 →
      exec (.trigCreate h p) s = after s (settleAll (startTriggered (ok (cmdRow 0x0407) h (addCredit p.target { s.dev with
        triggers := tset (tset s.dev.triggers p.trig ⟨h.slice, p, 0, true⟩) p.trig ⟨h.slice, p, 0, false⟩ })))))
    ∧ (2 ^ 31 ≤ (src.counter - p.threshold).toNat →
      exec (.trigCreate h p) s = after s (settleAll (startTriggered (ok (cmdRow 0x0407) h { s.dev with
        triggers := tset s.dev.triggers p.trig ⟨h.slice, p, 0, true⟩ })))))
  ∧ (∀ (s : State) (h : Cmd) (n : Nat) (threshold : U32) (t : Trigger) (c : Cq), Takes s 0x0408 h true → tget s.dev.triggers n = some t →
    t.slice = h.slice → t.p.kind = 1 → tget s.dev.cqs t.p.source = some c →
    (let t' : Trigger := { t with armed := true, p := { t.p with threshold := threshold } }
     ((c.counter - threshold).toNat < 2 ^ 31 →
       exec (.trigArm h n threshold) s = after s (settleAll (startTriggered (ok (cmdRow 0x0408) h (addCredit t.p.target { s.dev with
         triggers := tset (tset s.dev.triggers n t') n { t' with armed := false } })))))
     ∧ (2 ^ 31 ≤ (c.counter - threshold).toNat →
       exec (.trigArm h n threshold) s = after s (settleAll (startTriggered (ok (cmdRow 0x0408) h { s.dev with
         triggers := tset s.dev.triggers n t' }))))))
  ∧ (∀ (s : State) (h : Cmd) (n : Nat) (t : Trigger), Takes s 0x0409 h true → tget s.dev.triggers n = some t → t.slice = h.slice →
    exec (.trigDestroy h n) s = after s (settleAll (ok (cmdRow 0x0409) h { s.dev with triggers := tdel s.dev.triggers n })))

/-- R238 and R239: a credit reaches a queue pair that is not in ERROR once, up to 65,535; one past that is dropped and counted; in ERROR it is
discarded (R240). Nothing else of the queue pair, and no other queue pair, changes. -/
def Obligations.CreditsFollowR239 : Prop :=
  ∀ (d : Dev) (n : Nat) (q : Qp), getQp d n = some q →
    (q.st ≠ .error → q.rqr.credits < 65535 →
      addCredit n d = { d with qps := tset d.qps n { q with rqr := { q.rqr with credits := q.rqr.credits + 1 } } })
    ∧ (q.st ≠ .error → 65535 ≤ q.rqr.credits → addCredit n d = bump 0x14 q.slice d)
    ∧ (q.st = .error → addCredit n d = d)

/-- R205: with ALGO 0 the adapter takes the first algorithm of its list that ALGO_MASK permits and that supports the OP. -/
def Obligations.AlgorithmChoiceFollowsR205 : Prop :=
  ∀ (mask n op size : Nat),
    let ring : Prop := mask.testBit 0 = true ∧ op ≠ allToAll
    let tree : Prop := mask.testBit 1 = true ∧ (op = allReduce ∨ op = broadcast)
    let direct : Prop := mask.testBit 2 = true
    (direct ∧ n ≤ 64 → chooseAlgo mask n op size = 3)
    ∧ (¬(direct ∧ n ≤ 64) → tree ∧ size < 262144 → chooseAlgo mask n op size = 2)
    ∧ (¬(direct ∧ n ≤ 64) → ¬(tree ∧ size < 262144) → ring → chooseAlgo mask n op size = 1)
    ∧ (¬(direct ∧ n ≤ 64) → ¬(tree ∧ size < 262144) → ¬ring → direct → chooseAlgo mask n op size = 3)
    ∧ (¬direct → ¬(tree ∧ size < 262144) → ¬ring → tree → chooseAlgo mask n op size = 2)
    ∧ (¬direct → ¬tree → ¬ring → chooseAlgo mask n op size = 0)

/-! ## The fabric (07) -/

/-- RTG_WRITE, RTG_SWAP, EP_MAP and NEIGH_SET complete, as do the writes of FAB_VC_THRESH and RTG_SELF_EPID (R264, R265, R268, R277, R511, R536):
a write goes to the shadow bank, which a swap makes active while it clears the withdrawals that were learned. -/
def Obligations.RoutingCommandsComplete : Prop :=
  (∀ (s : State) (h : Cmd) (l : List RouteWrite), Takes s 0x0503 h false →
    (∀ w ∈ l, w.table < 2 ∧ w.index < (if w.table = 0 then 2 ^ s.dev.routing.g else 2 ^ (18 - s.dev.routing.g)) ∧ fld w.entry 255 135 = 0) →
    ∃ r : Routing, exec (.rtgWrite h l) s = after s (settleAll (ok (cmdRow 0x0503) h { s.dev with routing := r }))
      ∧ r.bank = s.dev.routing.bank ∧ (∀ k, routeEntry r k = routeEntry s.dev.routing k)
      ∧ r = l.foldl writeRoute s.dev.routing)
  ∧ (∀ (s : State) (h : Cmd), Takes s 0x0504 h false →
    exec (.rtgSwap h) s = after s (settleAll (ok (cmdRow 0x0504) h (pumpEscape { s.dev with
      routing := { s.dev.routing with bank := !s.dev.routing.bank, swaps := s.dev.routing.swaps + 1, gActive := s.dev.routing.g }
      ports := tmap s.dev.ports fun _ p => { p with withdrawn := [] } }))))
  ∧ (∀ (s : State) (h : Cmd) (l : Nat) (e : U32), Takes s 0x0505 h false → l < 2 ^ 18 → fld e 30 18 = 0 →
    exec (.epMap h l e) s = after s (settleAll (ok (cmdRow 0x0505) h { s.dev with
      routing := { s.dev.routing with epMap := tset s.dev.routing.epMap l e } })))
  ∧ (∀ (s : State) (h : Cmd) (p : NeighP), Takes s 0x0506 h false → p.epid < 2 ^ 18 → p.v < 2 → p.vlan < 4096 → p.port < 64 →
    (p.v = 0 ∨ (tget s.dev.routing.neigh p.epid).isSome = true ∨ s.dev.routing.neigh.length < 4096) →
    (let d := { s.dev with
        routing := { s.dev.routing with
          neigh := if p.v = 0 then tdel s.dev.routing.neigh p.epid else tset s.dev.routing.neigh p.epid p } }
     let moved := p.v = 0 ∨ ∃ x, tget s.dev.routing.neigh p.epid = some x ∧ x.port ≠ p.port
     (moved → exec (.neighSet h p) s = after s (settleAll (ok (cmdRow 0x0506) h (rerouteNeigh p.epid d))))
     ∧ (¬moved → exec (.neighSet h p) s = after s (settleAll (ok (cmdRow 0x0506) h d)))))
  ∧ (∀ (s : State) (port : Nat) (halfB : Bool) (v : U64), alive s.ao = true → port < 32 →
    exec (.fabVcThreshWrite port halfB v) s = after s (settleAll (updateOff (2 * port + (if halfB then 1 else 0)) { s.dev with
      fabRegs := tset s.dev.fabRegs port
        (if halfB then { getFab s.dev port with threshB := v } else { getFab s.dev port with threshA := v }) })))
  ∧ (∀ (s : State) (v : U64), alive s.ao = true →
    exec (.rtgSelfEpidWrite v) s = after s (settleAll { s.dev with routing := { s.dev.routing with selfEpid := v.toNat % 2 ^ 18 } }))

/-- R266: a packet in transit whose destination is no endpoint of this adapter and whose VC is adaptive takes a port that is a minimal candidate, is
up, is not withdrawn for the destination, is in the VC's mask and shows the VC as ON, and no such awake port has fewer bytes queued. -/
def Obligations.TransitRouteFollowsR266 : Prop :=
  ∀ (d : Dev) (v dst n w : Nat), routeTransit d v dst = .port n w → v ≠ 1 →
    let key := routeKey d.routing.gActive d.routing.selfEpid dst
    let can := fun (m : Nat) => m < 64 ∧ (rtMin (routeEntry d.routing key)).getLsbD m = true ∧ (getPort d m).up = true ∧ isZfl d m = true
      ∧ (getPort d m).withdrawn.contains key = false ∧ (tgetD d.routing.vcPorts v 0xFFFFFFFFFFFFFFFF).getLsbD m = true
      ∧ (getPort d m).peerOff.getLsbD v = false
    dst ≠ d.routing.selfEpid ∧ w = v ∧ can n
      ∧ (∀ m, can m → parked d m = false → portBytes d n ≤ portBytes d m)
      ∧ (parked d n = true → ∀ m, can m → parked d m = true)

/-- PORT_DOWN, LANE_FAILED and ROUTE_UPDATE complete (R254, R255, R269 to R271): a lane failure narrows a ZFL link and takes an Ethernet port
down; a withdrawal that arrives is learned for the port it came on; what a port's end costs the time it follows is R311's. -/
def Obligations.FabricHealingCompletes : Prop :=
  (∀ (s : State) (n cause : Nat), alive s.ao = true → n < 64 → (getPort s.dev n).up = true →
    let d := parentDown (devEvent 0x30 0 (n / 2) n cause 0 (loseLink n (endScan n s.dev)))
    (d.routeHa = true → exec (.portDown n cause) s = after s (settleAll d))
    ∧ (d.routeHa = false →
      exec (.portDown n cause) s = after s (settleAll (floodRoutes 0 d.routing.floodHops n (lostKeys (endScan n s.dev) d) d))))
  ∧ (∀ (s : State) (n lane : Nat), alive s.ao = true → n < 64 → lane < 16 → isEth s.dev n = false → (getPort s.dev n).up = true →
    exec (.laneFailed n lane) s = after s (settleAll (
      let d := layIdle n s.dev
      setPort n { getPort d n with
        failedLanes := (getPort d n).failedLanes ||| (1 <<< lane)
        narrowSince := some ((getPort d n).narrowSince.getD s.dev.now)
        laneErrors := [] } d)))
  ∧ (∀ (s : State) (n : Nat) (u : RouteUpdate), alive s.ao = true → n < 64 → acceptsFlit s.dev n = true → s.dev.routeHa = true →
    exec (.routeUpdate n u) s = after s (settleAll (bump 0x23 n (tookFlit n s.dev))))
  ∧ (∀ (s : State) (n : Nat) (u : RouteUpdate), alive s.ao = true → n < 64 → acceptsFlit s.dev n = true → s.dev.routeHa = false →
    u.kind ≤ 1 → u.level ≤ 1 → 1 ≤ u.indices.length → u.indices.length ≤ 120 →
    exec (.routeUpdate n u) s = after s (settleAll (
      let d := tookFlit n s.dev
      let keys := updateKeys d u
      let learn := fun (l : List (Nat × Nat)) =>
        if u.kind = 0 then l ++ keys.filter (fun k => !l.contains k) else l.filter (fun k => !keys.contains k)
      let d' := modPort n (fun p => { p with withdrawn := learn p.withdrawn }) d
      let changed := if u.kind = 0 then lostKeys d d' else lostKeys d' d
      pumpEscape (if u.hops = 0 ∨ changed = [] then d' else floodRoutes u.kind (u.hops - 1) n changed d'))))

/-- The exchange of flits completes (R249 to R252, R257): a REPLAY_REQ for a flit that is held sends it and every later one again, and one for a
flit that is not held, or was last sent more than 2.0 µs ago, is answered with REPLAY_MISS; a receiver that waits goes on at the number that a REPLAY_MISS names. -/
def Obligations.LinkReplayCompletes : Prop :=
  (∀ (s : State) (n : Nat) (seq : BitVec 16), alive s.ao = true → linkOn s.dev n = true →
    let d := layIdle n (tookFlit n s.dev)
    let here := (getPort d n).txSeq = seq ∨ ∃ f ∈ (getPort d n).replay,
      (seq - f.seq).toNat < f.n ∧ linkTime d < f.at_ + (seq - f.seq).toNat * f.gap + keepTicks
    (here → exec (.replayReq n seq) s = after s (settleAll (replayFrom n seq d)))
    ∧ (¬here → exec (.replayReq n seq) s = after s (settleAll (emit (.replayMiss n (getPort d n).txSeq) d))))
  ∧ (∀ (s : State) (n : Nat) (seq a : BitVec 16), alive s.ao = true → n < 64 → linkOn s.dev n = true →
    (getPort s.dev n).awaiting = some a →
    exec (.replayMiss n seq) s = after s (settleAll (
      let d := modPort n (fun p => { p with lastRx := s.dev.now }) s.dev
      devEvent 0x34 1 (n / 2) n (seq - a).toNat 0 (bumpBy 0x21 n (seq - a).toNat
        (dropPartials n (setPort n { getPort d n with awaiting := none, missed := 0, rxSeq := seq } d))))))
  ∧ (∀ (s : State) (n : Nat) (a : BitVec 16), alive s.ao = true → linkOn s.dev n = true → (getPort s.dev n).awaiting = some a →
    exec (.replayReqTimeout n) s = after s (settleAll (requestReplay n (advanceTo (getPort s.dev n).awaitDue s.dev))))
  ∧ (∀ (s : State) (n : Nat) (f : ReplayRun) (r : List ReplayRun), alive s.ao = true → linkOn s.dev n = true →
    (getPort s.dev n).replay = f :: r →
    exec (.replayBufferExpiry n) s = after s (settleAll (
      let d := advanceTo (ceilDiv (f.at_ + keepTicks) 1024) s.dev
      setPort n { getPort d n with replay := dropRuns 1 (getPort d n).replay } d)))
  ∧ (∀ (s : State) (n vc : Nat), alive s.ao = true → acceptsFlit s.dev n = true → vc < 7 → tget (getPort s.dev n).forwarding vc = none →
    exec (.abort n vc) s = after s (settleAll (
      let d := tookFlit n s.dev
      freeIngress n vc (tgetD (getPort s.dev n).partials vc []).length
        (setPort n { getPort d n with partials := tdel (getPort d n).partials vc } d))))
  ∧ (∀ (s : State) (n : Nat) (off : BitVec 7), alive s.ao = true → acceptsFlit s.dev n = true →
    exec (.flow n off) s = after s (settleAll (startTriggered (reopening (fun d =>
      let d := tookFlit n d
      let d := pumpEscape (setPort n { getPort d n with peerOff := off } d)
      if n < 64 then d else portGoes (n - 64) d) s.dev))))
  ∧ (∀ (s : State) (n : Nat), alive s.ao = true → linkOn s.dev n = true → offShown (getPort s.dev n) ≠ 0 →
    exec (.flowRefreshTimer n) s = after s (settleAll (sendFlow n (advanceTo ((getPort s.dev n).flowAt + 1000) s.dev))))

/-- FLIT_RECEIVE, ETH_FRAME_RECEIVE, TRANSIT_PACKET and ESC_WAIT_EXPIRY complete (R245 to R249, R254, R266, R267, R276, R280): a codeword or
block that cannot be corrected fails with all its flits; a frame that is neither addressed to this adapter's transport nor a Neighbor
Solicitation for the port is counted and dropped. How long a frame's bytes stay in the ingress allocation is the model's choice (log 157). -/
def Obligations.ArrivalsComplete : Prop :=
  (∀ (s : State) (n : Nat) (c : Codeword), alive s.ao = true → linkOn s.dev n = true →
    (∀ l fixed, decodeFlits (fullFec s.dev n) c.code = some (l, fixed) →
      exec (.flitReceive n c) s = after s (settleAll (startTriggered (l.foldl (takeFlit n) (if fixed then bump 0x1E n s.dev else s.dev)))))
    ∧ (decodeFlits (fullFec s.dev n) c.code = none →
      exec (.flitReceive n c) s = after s (settleAll (startTriggered (flitFails n (codeFlits (fullFec s.dev n)) (laneError n c.badLane (bump 0x1F n s.dev)))))))
  ∧ (∀ (d : Dev) (n : Nat) (f : Flit), linkOn d n = true → f.vc ≠ 7 →
    (fcrcOk d n f = true → f.vc < linkVcs d n →
      takeFlit n d f = takeData n f.vc (if f.padAt = 0 then f.bytes else f.bytes.take (8 * f.padAt))
        (tookFlit n (setPort n { getPort d n with awaiting := none } d)))
    ∧ (let d' := setPort n { getPort d n with missed := Nat.min ((getPort d n).missed + 1) (replaySize d n) } d
       (fcrcOk d n f = false → (getPort d n).awaiting = none → takeFlit n d f = requestReplay n d')
       ∧ (fcrcOk d n f = false → (getPort d n).awaiting ≠ none → takeFlit n d f = d')))
  ∧ (∀ (s : State) (n : Nat) (f : EthFrame) (p : Packet), alive s.ao = true → n < 64 → (getPort s.dev n).up = true →
    isEth s.dev n = true →
    (let d := modPort n (fun x => { x with lastRx := s.dev.now }) (pumpLeaving n s.dev)
     let v := f.priority % 8
     let d' := modPort n (fun x => { x with leaving := x.leaving ++ [(v, f.wireBytes, d.now + 2000)] })
       (updateOff n (addIngress n v f.wireBytes d))
     let p' := if f.ecn = 3 then setCe p else p
     (frameIsOurs d n f = true →
       exec (.ethFrameReceive n f p) s = after s (settleAll (startTriggered (if forUs d' p' then rxPacket n p' d' else bump 0x26 n d'))))
     ∧ (frameIsOurs d n f = false → frameSolicits d n f = true →
       exec (.ethFrameReceive n f p) s = after s (settleAll (startTriggered (emit (.neighAdvert n) d))))
     ∧ (frameIsOurs d n f = false → frameSolicits d n f = false →
       exec (.ethFrameReceive n f p) s = after s (settleAll (startTriggered (bump 0x26 n d))))))
  ∧ (∀ (s : State) (n vc m v : Nat) (p : Packet), alive s.ao = true → dataOn s.dev = true → n < 64 → (getPort s.dev n).up = true →
    isEth s.dev n = false → vc ≤ 6 → phDst p.hdr ≠ s.dev.routing.selfEpid → tget (getPort s.dev n).forwarding vc = none →
    p.flaw = false → routeTransit s.dev vc (phDst p.hdr) = .port m v →
    exec (.transitPacket n vc p false) s = after s (settleAll (freeIngress n vc (padLen p)
      (enqueue m { p := p, vc := v, tc := phTc p.hdr, slice := none, since := s.dev.now, qpn := 0, firstTx := false, ackAt := none }
        s.dev))))
  ∧ (∀ (s : State) (n vc : Nat) (p : Packet), alive s.ao = true → dataOn s.dev = true → n < 64 → (getPort s.dev n).up = true →
    isEth s.dev n = false → vc ≤ 6 → phDst p.hdr ≠ s.dev.routing.selfEpid → tget (getPort s.dev n).forwarding vc = none →
    (∀ bad, (bad || p.flaw) = true →
      exec (.transitPacket n vc p bad) s = after s (settleAll (freeIngress n vc (padLen p) (bump 0x29 0 s.dev))))
    ∧ (p.flaw = false → routeTransit s.dev vc (phDst p.hdr) = .none →
      exec (.transitPacket n vc p false) s = after s (settleAll (freeIngress n vc (padLen p) (bump 0x28 0 s.dev)))))
  ∧ (∀ (s : State) (id : Nat) (w : EscWaiting), alive s.ao = true → (s.dev.escWaiting.find? fun w => w.id == id) = some w →
    exec (.escWaitExpiry id) s = after s (settleAll (escapeNow w (advanceTo (w.since + s.dev.routing.escWait) s.dev))))

/-- PFC completes on an Ethernet port (R278): a pause of an enabled priority ends after its quanta, a later frame replaces it, and an XOFF is
sent again at half its time. -/
def Obligations.PfcCompletes : Prop :=
  (∀ (s : State) (n enable : Nat) (times : List Nat), alive s.ao = true → (getPort s.dev n).up = true → isEth s.dev n = true →
    ∃ t : Tbl Nat, exec (.pfcFrameReceive n enable times) s = after s (settleAll (gotPfc n enable times s.dev))
      ∧ (gotPfc n enable times s.dev).ports = (if enable % 256 = 0 then s.dev.ports else tset s.dev.ports n { getPort s.dev n with pfc := t })
      ∧ (enable % 256 ≠ 0 → ∀ i, i < 8 → tget t i = if enable.testBit i then some (s.dev.now + quantaNs s.dev n (times.getD i 0))
          else tget (getPort s.dev n).pfc i))
  ∧ (∀ (s : State) (n i t : Nat), alive s.ao = true → tget (getPort s.dev n).pfc i = some t →
    exec (.pfcPauseExpiry n i) s = after s (settleAll (
      let d := advanceTo t s.dev
      setPort n { getPort d n with pfc := tdel (getPort d n).pfc i } d)))
  ∧ (∀ (s : State) (n i t : Nat), alive s.ao = true → (getPort s.dev n).up = true → isEth s.dev n = true →
    (offShown (getPort s.dev n)).getLsbD i = true → tget (getPort s.dev n).xoffAt i = some t →
    (let d := pumpLeaving n (advanceTo (t + quantaNs s.dev n 0xFFFF / 2) s.dev)
     ((offShown (getPort d n)).getLsbD i = true →
       exec (.pfcXoffRefresh n i) s = after s (settleAll (sendPfc n (1 <<< i) (1 <<< i) d)))
     ∧ ((offShown (getPort d n)).getLsbD i = false → exec (.pfcXoffRefresh n i) s = after s (settleAll d))))

/-! ## Administration and the device (01, 14) -/

/-- AQ_CREATE, AQ_DESTROY, CMD_AQ_PROD, CMD_AQ_RCONS, the reading of commands, AQ0_ENABLE and AQ0_DISABLE complete (R40, R63, R456 to R458, R481):
a created queue has both indices at 0, and a destroyed one stops reading at once, discards what it has not started, and replies when what it has
started has replied. -/
def Obligations.AdminQueuesComplete : Prop :=
  (∀ (s : State) (h : Cmd) (n lg cbase rbase vector : Nat), Takes s 0x0001 h false → 1 ≤ n → n < 8 → 4 ≤ lg → lg ≤ 12 → vector < 2048 →
    ringAligned cbase lg 64 = true → ringAligned rbase lg 32 = true → (getAq s.dev n).en = false → (getAq s.dev n).closing = false →
    exec (.aqCreate h n lg 0 cbase rbase vector) s = after s (settleAll (ok (cmdRow 0x0001) h { s.dev with
      adminQ := tset s.dev.adminQ n { AdminQ.reset with
        en := true, lg := lg, space := 0, vector := vector, pasid := (getAq s.dev 0).pasid, pasidV := (getAq s.dev 0).pasidV
        cbase := cbase, rbase := rbase } })))
  ∧ (∀ (s : State) (h : Cmd) (n : Nat), Takes s 0x0002 h false → n < 8 → n ≠ h.aq → (getAq s.dev n).en = true →
    exec (.aqDestroy h n) s = after s (settleAll (startAll (closeQueues (waitOn h 0x0002 (.adminQueue n) { s.dev with
      adminQ := tset s.dev.adminQ n { getAq s.dev n with closing := true, waiting := [], rereadDue := none } })))))
  ∧ (∀ (s : State) (n : Nat) (v : U64), alive s.ao = true → n < 520 → (getAq s.dev n).en = true → (getAq s.dev n).closing = false →
    let a := getAq s.dev n
    let ahead := (u32 (fld v 31 0) - a.cprod).toNat
    let again : AdminQ := { a with stopped := false, rereads := if a.stopped then 0 else a.rereads }
    (0 < ahead → ahead < 2 ^ 31 → (u32 (fld v 31 0) - a.cnext).toNat ≤ 2 ^ a.lg →
      exec (.cmdAqProd n v) s = after s (settleAll (fetchCommands n { s.dev with
        adminQ := tset s.dev.adminQ n { again with cprod := u32 (fld v 31 0) } })))
    ∧ (ahead = 0 → exec (.cmdAqProd n v) s = after s (settleAll (fetchCommands n { s.dev with adminQ := tset s.dev.adminQ n again })))
    ∧ (2 ^ 31 ≤ ahead →
      exec (.cmdAqProd n v) s = after s (settleAll (fetchCommands n (bump 0x31 n { s.dev with adminQ := tset s.dev.adminQ n again }))))
    ∧ (0 < ahead → ahead < 2 ^ 31 → 2 ^ a.lg < (u32 (fld v 31 0) - a.cnext).toNat →
      exec (.cmdAqProd n v) s = after s (settleAll (bump 0x31 n s.dev))))
  ∧ (∀ (s : State) (n : Nat) (v : U64), alive s.ao = true → n < 520 → (getAq s.dev n).en = true →
    (u32 (fld v 31 0) - (getAq s.dev n).rcons).toNat < 2 ^ 31 →
    (u32 (fld v 31 0) - (getAq s.dev n).rcons).toNat ≤ ((getAq s.dev n).rprod - (getAq s.dev n).rcons).toNat →
    exec (.cmdAqRcons n v) s = after s (settleAll (startAll (
      let d := closeQueues (pumpReplies n { s.dev with adminQ := tset s.dev.adminQ n { getAq s.dev n with rcons := u32 (fld v 31 0) } })
      if bit v 63 then armReplies n d else d))))
  ∧ (∀ (s : State) (n : Nat) (l : List (BitVec 512)), alive s.ao = true → n < 520 → aqReads s.dev n = true →
    (getAq s.dev n).stopped = false → (getAq s.dev n).rereadDue = none → (getAq s.dev n).reading.isSome = true →
    exec (.commandFetchReturn n l) s = after s (settleAll (reopening (fun d => fetchCommands n (startAll (takePackets n l
      { d with adminQ := tset d.adminQ n { getAq d n with reading := none } }))) s.dev)))
  ∧ (∀ (s : State) (n t : Nat), alive s.ao = true → aqReads s.dev n = true → (getAq s.dev n).rereadDue = some t →
    canRead s.dev (getAq s.dev n).space = true → (getAq s.dev n).reading = none →
    exec (.commandReread n) s = after s (settleAll (
      let d := advanceTo t s.dev
      fetchCommands n { d with
        adminQ := tset d.adminQ n { getAq s.dev n with rereadDue := none, rereads := (getAq s.dev n).rereads + 1 } })))
  ∧ (∀ (s : State) (v : U64), alive s.ao = true → s.dev.ready = true → (getAq s.dev 0).en = false → (getAq s.dev 0).closing = false →
    4 ≤ fld v 59 56 → fld v 59 56 ≤ 12 → fld v 55 52 = 0 → ringAligned (getAq s.dev 0).cbase (fld v 59 56) 64 = true →
    ringAligned (getAq s.dev 0).rbase (fld v 59 56) 32 = true →
    exec (.aq0Enable v) s = after s (settleAll { s.dev with
      adminQ := tset s.dev.adminQ 0 { AdminQ.reset with
        en := true, lg := fld v 59 56, space := 0, vector := fld v 51 41, pasid := fld v 40 21, pasidV := bit v 20
        cbase := (getAq s.dev 0).cbase, rbase := (getAq s.dev 0).rbase } }))
  ∧ (∀ (s : State) (v : U64), alive s.ao = true → s.dev.ready = true → (getAq s.dev 0).en = true → (getAq s.dev 0).closing = false →
    exec (.aq0Disable v) s = after s (settleAll (startAll (closeQueues { s.dev with
      adminQ := tset s.dev.adminQ 0 { getAq s.dev 0 with closing := true, waiting := [], rereadDue := none } }))))

/-- COMMAND_TIMEOUT, CORE_HUNG and CORE_RESTARTED complete (R19, R20, R477): a core that hangs takes no more commands, its started commands end
with TIMEOUT, and the event names it and counts them. -/
def Obligations.ControlCoresComplete : Prop :=
  (∀ (s : State) (n : Nat) (i : U32) (c : Started), alive s.ao = true →
    (s.dev.started.find? fun c => c.queue == n && c.index == i) = some c → boundEnd s.dev c = none → exec (.commandTimeout n i) s = after s (settleAll s.dev))
  ∧ (∀ (s : State) (n t : Nat) (i : U32) (c : Started), alive s.ao = true →
    (s.dev.started.find? fun c => c.queue == n && c.index == i) = some c → boundEnd s.dev c = some t →
    exec (.commandTimeout n i) s = after s (settleAll (commandTimedOut c (advanceTo t s.dev))))
  ∧ (∀ (s : State) (k : Nat), alive s.ao = true → k < 6 → s.dev.cores.getLsbD k = true →
    exec (.coreHung k) s = after s (settleAll (
      let d := (s.dev.started.filter fun c => c.core == some k).foldl (fun d c => commandTimedOut c d)
        { s.dev with cores := s.dev.cores &&& ~~~((1 : BitVec 6) <<< k) }
      devEvent 0x72 2 0x7F k (tgetD d.coreTimeouts k 0) 0 ((tgetD d.triage k []).foldl (fun d e => placeEvent 0 { e with untriaged := true } d)
        { d with
          coreHungAt := tset d.coreHungAt k d.now
          coreTimeouts := tdel d.coreTimeouts k, triage := tdel d.triage k }))))
  ∧ (∀ (s : State) (k : Nat), alive s.ao = true → k < 6 → (tget s.dev.coreHungAt k).isSome = true →
    exec (.coreRestarted k) s = after s (settleAll (startAll { s.dev with
      cores := s.dev.cores ||| (1 <<< k), coreHungAt := tdel s.dev.coreHungAt k, coreTimeouts := tdel s.dev.coreTimeouts k })))

/-- DEV_MODE_SET, DEV_QUERY, SCH_TIME_NS_READ and the self-tests complete (R23, R306, R502 to R504, R514). -/
def Obligations.DeviceCommandsComplete : Prop :=
  (∀ (s : State) (h : Cmd) (r e : Nat), Takes s 0x0003 h false → r < 2 → e < 2 →
    exec (.devModeSet h r e) s = after s (settleAll (ok (cmdRow 0x0003) h { s.dev with routeHa := r == 1, evtHa := e == 1 })))
  ∧ (∀ (s : State) (h : Cmd) (code index : Nat), Takes s 0x0004 h false → h.aq < 8 →
    exec (.devQuery h 0 code index 0) s = after s (reply (cmdRow 0x0004) h csOk 0 (genIdent s.dev + genCap * 2 ^ 64) s.dev)
    ∧ exec (.devQuery h 1 code index 0) s = after s (reply (cmdRow 0x0004) h csOk 0 (counterRead s.dev code index) s.dev))
  ∧ (∀ (s : State) (h : Cmd) (code index off : Nat), Takes s 0x0004 h false → h.aq < 8 → off % 8 = 0 → off < 0x04000000 →
    off ≠ 0x02000000 → off ≠ 0x02000008 →
    exec (.devQuery h 2 code index off) s = after s (reply (cmdRow 0x0004) h csOk 0 (regRead s.dev off) s.dev))
  ∧ (∀ (s : State), alive s.ao = true →
    exec .schTimeNsRead s = after s { s.dev with
      time := { s.dev.time with latch := some s.dev.time.time, latchReads := 2 }
      out := s.dev.out ++ [.barRead (natLe (timeNs s.dev % 2 ^ 32) 4) false] })
  ∧ (∀ (s : State) (h : Cmd) (lane n base length : Nat), Takes s 0x0005 h false → scannable s.dev n = true → hasLane s.dev n lane = true →
    (getPort s.dev n).up = true → linkParked s.dev n = false → (getPort s.dev n).narrowSince = none →
    (getPort s.dev n).width = linkWidth s.dev n → pinned s.dev (.fab n) = false →
    exec (.selfTest h 0 lane n base length) s = after s (
      let d := layIdle n s.dev
      waitOn h 0x0005 (.scan n lane) { d with
        ports := tset d.ports n { getPort d n with scanLane := some lane, narrowSince := some s.dev.now } }))
  ∧ (∀ (s : State) (h : Cmd) (lane e base length : Nat), Takes s 0x0005 h false → e < 24 → (getEngine s.dev e).mode ≠ .quiescing →
    (getEngine s.dev e).mode ≠ .selfTest → (∀ p ∈ s.dev.programs, p.dead = false → p.engines ≠ [e]) → sharesFit s.dev e = true →
    pinned s.dev (.engine e) = false →
    exec (.selfTest h 1 lane e base length) s = after s (waitOn h 0x0005 (.engineTest e s.dev.now) (quiesce e s.dev)))
  ∧ (∀ (s : State) (h : Cmd) (lane target base length : Nat), Takes s 0x0005 h false → base % 0x200000 = 0 → length % 0x200000 = 0 →
    0 < length → length ≤ 0x4000000 → base + length ≤ smemBytes → unclaimed s.dev base length = true →
    exec (.selfTest h 2 lane target base length) s = after s
      (waitOn h 0x0005 (.stackTest base length) { s.dev with zeroing := s.dev.zeroing ++ [(base, length)] }))
  ∧ (∀ (s : State) (e code b : Nat), alive s.ao = true → (getEngine s.dev e).mode = .selfTest →
    exec (.selfTestDone 1 e code b true) s = after s (settleAll (engineReply e csOk code
      (blockError (46 + e) 0x0502 2 none (latch (46 + e) 0x0502 2 none code 0 0
        { s.dev with engines := tset s.dev.engines e { getEngine s.dev e with mode := .failed } }))))
    ∧ exec (.selfTestDone 1 e code b false) s = after s (settleAll (engineReply e csOk 0
        { s.dev with engines := tset s.dev.engines e { getEngine s.dev e with mode := .service } })))
  ∧ (∀ (s : State) (e : Nat), alive s.ao = true → (getEngine s.dev e).mode = .quiescing →
    exec (.selfTestQuiesceTimeout e) s = after s (settleAll (
      let d := advanceTo ((getEngine s.dev e).quiesceSince + 100000) s.dev
      engineReply e csBusy 0 { d with engines := tset d.engines e { getEngine s.dev e with mode := .service } })))

/-! ## Power states and route sets (08, 15) -/

/-- PWR_SET, ROUTESET_SET and the events of parking and of Soufflé complete (R263, R490 to R494): an idle object that no path pins enters its
lower state at its timer; a port parks when its transmitter is off and its peer silent, and a port that fails to stays ACTIVE and counts. -/
def Obligations.PowerCommandsComplete : Prop :=
  (∀ (s : State) (h : Cmd) (p : PwrSetP), Takes s 0x0006 h false → pwrBad p = none → pwrRefusal s.dev p = none →
    exec (.pwrSet h p) s = after s (ok (cmdRow 0x0006) h ((pwrObjs p).foldl (fun d o => pwrOne p o d) s.dev)))
  ∧ (∀ (s : State) (h : Cmd) (n : Nat) (e : BitVec 128), Takes s 0x0502 h false → n < 64 → fld e 127 72 = 0 → bit e 67 = false →
    rsV e = false → (∀ x ∈ s.dev.slices, x.2.st = .free ∨ x.2.routeSet ≠ n) →
    exec (.routesetSet h n e) s = after s (settleAll (ok (cmdRow 0x0502) h { s.dev with
      routing := { s.dev.routing with routeSets := tset s.dev.routing.routeSets n e } })))
  ∧ (∀ (s : State) (o : PowerObj) (st : PState) (w : Nat), alive s.ao = true → pinned s.dev o = false → hasWork s.dev o = false →
    (getPower s.dev o).wakeDue = none → nextLower o (getPower s.dev o) = some (st, w) →
    exec (.powerIdleTimer o) s = after s
      (settleAll (setPower o { getPower s.dev o with st := st } (advanceTo (idleFrom s.dev o + w) s.dev))))
  ∧ (∀ (s : State) (o : PowerObj), alive s.ao = true → exec (.souffle o) s = after s (settleAll (startWake o s.dev)))
  ∧ (∀ (s : State) (o : PowerObj) (t : Nat), alive s.ao = true → (getPower s.dev o).wakeDue = some t →
    exec (.souffleDone o) s = after s (settleAll (startTriggered (reopening (fun d => wokenUp o (advanceTo t d)) s.dev))))
  ∧ (∀ (s : State) (o : PowerObj) (t : Nat), alive s.ao = true → parkOf s.dev o = (some t, false) → laneUp s.dev o = true →
    exec (.parkStart o) s = after s (settleAll (
      let d := advanceTo (momentOf s.dev t) s.dev
      if laneQuiet d o then setPark o (some t) true d else d)))
  ∧ (∀ (s : State) (n t : Nat), alive s.ao = true → n < 64 → parkOf s.dev (.fab n) = (some t, true) →
    exec (.portParked (.fab n)) s = after s (settleAll (
      let d := layIdle n s.dev
      let d := { d with ports := tset d.ports n { getPort d n with parkAt := none, parkTxOff := true } }
      setPower (.fab n) { getPower s.dev (.fab n) with st := .meringue, wakeDue := none } d))
    ∧ exec (.parkTimeout (.fab n)) s = after s (settleAll (startTriggered (reopening (fun d =>
      let d := layIdle n (bump 0x25 n (advanceTo (momentOf d (t + 10000)) d))
      let d := { d with ports := tset d.ports n { getPort d n with parkAt := none, parkTxOff := false } }
      resumeTx n (setPower (.fab n) { getPower d (.fab n) with st := .active, idleSince := d.now, wakeDue := none } d)) s.dev))))
  ∧ (∀ (s : State) (n : Nat), alive s.ao = true → n < 64 → (getPower s.dev (.fab n)).st = .meringue →
    exec (.parkedPortSignal (.fab n)) s = after s (settleAll (startWake (.fab n) s.dev))
    ∧ ∀ t, (getPower s.dev (.fab n)).wakeDue = some t →
      exec (.unparkTimeout (.fab n)) s = after s (settleAll (startTriggered (awakeDone (portDown n 0 (
        let d := advanceTo (t + 1500) s.dev
        setPower (.fab n) { getPower d (.fab n) with st := .active, deepest := .standby, wakeDue := none, idleSince := d.now }
          (setPark (.fab n) none false d)))))))

/-! ## Time (08) -/

/-- TIME_SET, TIME_ADJ, the writes of SCH_TIME_CFG, the exchange of TIME flits, PPS and IEEE 1588 complete (R306 to R314): a root's time is set and
told by TIME_STEP, and an instant that has been sampled is not sampled again (R305); a TIME flit that is not the parent's is only kept for the
next exchange; PPS_OUT rises at the next whole second and falls 100 µs later. That PPS_OUT_PULSE is the pin's next edge, how the two Delay messages
of IEEE 1588 come as rows, and the default Sync interval are the model's choice (log 160). -/
def Obligations.TimeComplete : Prop :=
  (∀ (s : State) (h : Cmd) (ns : Nat), Takes s 0x0607 h false → isFollower s.dev = false → ns < 2 ^ 64 →
    exec (.timeSet h ns) s = after s (settleAll (ok (cmdRow 0x0607) h (
      devEvent 0x42 0 41 0 (BitVec.ofInt 64 ((Int.ofNat (ns * 65536) - Int.ofNat s.dev.time.time).tdiv 65536)).toNat 0
        { s.dev with
          time := { s.dev.time with time := ns * 65536 }
          lastSample := if s.dev.lastSample = some (timeNs s.dev) then some ns else none }))))
  ∧ (∀ (s : State) (h : Cmd) (o : Int), Takes s 0x0608 h false → isFollower s.dev = false → 0 ≤ Int.ofNat (timeNs s.dev) + o →
    Int.ofNat (timeNs s.dev) + o < 2 ^ 64 → exec (.timeAdj h o) s = after s (settleAll (ok (cmdRow 0x0608) h (stepTime (o * 65536) s.dev))))
  ∧ (∀ (s : State) (v : U32), alive s.ao = true → fld v 27 24 ≤ 3 →
    fld (v &&& 0x0F3FBF00) 27 16 = fld s.dev.time.cfg 27 16 →
    exec (.schTimeCfgWrite v) s = after s (settleAll { s.dev with time := { s.dev.time with cfg := v &&& 0x0F3FBF00 } }))
  ∧ (∀ (s : State) (n : Nat), alive s.ao = true → n < 64 → linkOn s.dev n = true → txOn s.dev n = true →
    exec (.timeFlitSend n) s = after s (settleAll (
      let d := advertise (advanceTo ((getPort s.dev n).lastTimeAt.elim s.dev.now (· + 2000)) s.dev)
      modPort n (fun p => { p with lastTimeAt := some d.now }) (sendFlits n 1 (emit (.timeFlit n (timeFlitOf d (getPort d n))) d)))))
  ∧ (∀ (s : State) (n : Nat) (t : TimeFlit) (rx : FracNs), alive s.ao = true → n < 64 → acceptsFlit s.dev n = true →
    exec (.timeFlitReceive n t rx true) s = after s (settleAll (tookFlit n s.dev))
    ∧ exec (.timeFlitReceive n t rx false) s = after s (settleAll (
      let d := modPort n (fun p => { p with
        lastTimeTx := t.txTime, lastTimeRx := rx, peerState := t.state, peerHops := t.hops, peerRoot := t.root }) (tookFlit n s.dev)
      if follows d n then exchange n t rx d else d)))
  ∧ (∀ (s : State), alive s.ao = true → isFollower s.dev = true → (s.dev.time.st = .acquiring ∨ s.dev.time.st = .locked) →
    ((getPort s.dev s.dev.time.following).up = false → exec .timeParentLost s = after s (parentLost s.dev))
    ∧ ((getPort s.dev s.dev.time.following).up = true →
        (isEth s.dev s.dev.time.following = true ∨ peerLost (getPort s.dev s.dev.time.following) = false) →
      exec .timeParentLost s = after s (parentLost (advanceTo (s.dev.time.lastSync
        + (if isEth s.dev s.dev.time.following then Nat.max 20000 (3 * s.dev.time.syncGap) else 20000)) s.dev))))
  ∧ (∀ (s : State) (ns : Nat), alive s.ao = true → timeSource s.dev = 1 →
    (∀ t, s.dev.time.ppsLast = some t → s.dev.now < t + 1100000000) →
    exec (.ppsInEdge ns) s = after s (settleAll (servo (ppsOffset ns) none
      { s.dev with time := { s.dev.time with ppsTs := ns, ppsLast := some s.dev.now } })))
  ∧ (∀ (s : State), alive s.ao = true → timeSource s.dev = 1 → s.dev.time.st ≠ .holdover →
    exec .ppsInMissing s = after s (holdover (advanceTo (s.dev.time.ppsLast.getD s.dev.time.lastSync + 1100000000) s.dev)))
  ∧ (∀ (s : State), alive s.ao = true →
    (s.dev.time.ppsFall = none →
      exec .ppsOutPulse s = after s (
        let d := advanceTo (momentOf s.dev (ceilDiv (timeNs s.dev) 1000000000 * 1000000000)) s.dev
        { d with time := { d.time with ppsFall := some (d.now + 100000) }, out := d.out ++ [.pin "PPS_OUT" true] }))
    ∧ ∀ t, s.dev.time.ppsFall = some t →
      exec .ppsOutPulse s = after s (
        let d := advanceTo t s.dev
        { d with time := { d.time with ppsFall := none }, out := d.out ++ [.pin "PPS_OUT" false] }))
  ∧ (∀ (s : State) (n kind : Nat) (o : FracNs), alive s.ao = true → n < 64 → (getPort s.dev n).up = true → isEth s.dev n = true →
    (3 ≤ kind → exec (.ptpMessage n kind o) s = after s (settleAll (bump 0x26 n s.dev)))
    ∧ (timeSource s.dev = 3 → n = s.dev.time.following → s.dev.cores ≠ 0x3F →
      exec (.ptpMessage n 0 o) s = after s (settleAll (holdStamp n s.dev)) ∧ exec (.ptpMessage n 1 o) s = after s (settleAll s.dev))
    ∧ (timeSource s.dev = 3 → n = s.dev.time.following → s.dev.cores = 0x3F →
      exec (.ptpMessage n 0 o) s = after s (settleAll (emit (.ptpDelayReq n) (holdStamp n (holdStamp n (readStamps { s.dev with
        time := { s.dev.time with
          syncAt := some s.dev.now
          syncGap := (s.dev.time.syncAt.map fun x => s.dev.now - x).getD s.dev.time.syncGap } })))))
      ∧ exec (.ptpMessage n 1 o) s = after s (settleAll (
        let d := readStamps s.dev
        if s.dev.time.ptpHeld.length = 2 then advertise (servo o (some n) { d with time := { d.time with following := n } }) else d))
      ∧ exec (.ptpMessage n 2 o) s = after s (settleAll s.dev)))

/-! ## The host port and the accelerator ports (07, 10) -/

/-- PORT_RETRAIN, PORT_TRAINED, NARROW_COMPLETE, HOST_RESUME and the movable window complete (R243, R255, R351 to R355, R368 to R370, R537). -/
def Obligations.PortCommandsComplete : Prop :=
  (∀ (s : State) (h : Cmd) (n : Nat), Takes s 0x0501 h false → n < 64 → portNamed s.dev n = true → s.dev.transitReset = false →
    exec (.portRetrain h n) s = after s (settleAll (startTriggered (waitOn h 0x0501 (.port n)
      (modPort n (fun p => { p with training := true })
        (if (getPort s.dev n).up then portDown n 3 s.dev else devEvent 0x30 0 (n / 2) n 3 0 s.dev))))))
  ∧ (∀ (s : State) (n width rtt : Nat) (full reset : Bool), alive s.ao = true → n < 64 → cannotTrain s.dev n = false →
    let d := modPort n (fun p => { p with training := false }) (loadCfg n s.dev)
    let e := emit (.peerFlit n (portMode d n) (fullFec d n) (cfgWidth d n) d.routing.selfEpid) d
    let out := fun (d : Dev) => after s (settleAll (startTriggered d))
    (portExists d n = true → isEth d n = true → exec (.portTrained n ⟨full, width, reset⟩ rtt) s = out (retrainDone n true (portComesUp n rtt d)))
    ∧ (portExists d n = true → isEth d n = false → rtt ≤ 1500 → full = fullFec d n → width = cfgWidth d n →
      exec (.portTrained n ⟨full, width, reset⟩ rtt) s = out (retrainDone n true (portComesUp n rtt e)))
    ∧ (portExists d n = true → isEth d n = false → rtt ≤ 1500 → (full ≠ fullFec d n ∨ width ≠ cfgWidth d n) →
      exec (.portTrained n ⟨full, width, reset⟩ rtt) s = out (retrainDone n false (devEvent 0x31 0 (n / 2) n 0 0 e)))
    ∧ (portExists d n = true → isEth d n = false → 1500 < rtt →
      exec (.portTrained n ⟨full, width, reset⟩ rtt) s = out (retrainDone n false (devEvent 0x32 0 (n / 2) n rtt 0 d)))
    ∧ (portExists d n = false → exec (.portTrained n ⟨full, width, reset⟩ rtt) s = out (retrainDone n false d)))
  ∧ (∀ (s : State) (n width rtt : Nat) (full reset : Bool), alive s.ao = true → n < 64 → cannotTrain s.dev n = true →
    exec (.portTrained n ⟨full, width, reset⟩ rtt) s = after s (settleAll (startTriggered (retrainDone n (getPort s.dev n).up
      (modPort n (fun p => { p with training := false }) s.dev)))))
  ∧ (∀ (s : State) (n lanes : Nat) (next : BitVec 16), alive s.ao = true → n < 64 →
    exec (.narrowComplete n lanes next) s = after s (settleAll (startTriggered (reopening (narrowDone n lanes next) s.dev))))
  ∧ (∀ (s : State) (h : Cmd) (k : Nat), Takes s 0x0801 h false → (k = 15 ∨ k < 8) → (getIo s.dev k).up = true →
    ((getIo s.dev k).fenced = false →
      exec (.hostResume h k 0 0) s = after s (settleAll (startTriggered (replayPort (cmdRow 0x0801) h k s.dev))))
    ∧ ∀ discard, discard < 2 →
      exec (.hostResume h k 1 discard) s = after s (settleAll (startTriggered (failPort (cmdRow 0x0801) h k (discard == 1) s.dev))))
  ∧ (∀ (s : State) (v : U64), alive s.ao = true →
    exec (.hifWinCtlWrite v) s = after s (if 10 ≤ fld v 63 60 then s.dev
      else { s.dev with winTarget := fld v 63 60, winBase := fld v 51 20 }))
  ∧ (∀ (s : State) (off : Nat) (data : List Byte) (ep : Bool), alive s.ao = true → off + data.length ≤ 2 ^ 28 → data ≠ [] →
    (s.dev.winTarget = 1 → exec (.bar4Write off data ep) s = after s (settleAll (startTriggered
      (winSmemWrite (s.dev.winBase * 2 ^ 20 + off) data ep s.dev))))
    ∧ (2 ≤ s.dev.winTarget → (getIo s.dev (s.dev.winTarget - 2)).up = true → s.dev.winBase * 2 ^ 20 + off + data.length ≤ 2 ^ 52 →
      exec (.bar4Write off data ep) s = after s (settleAll (startTriggered
        (store s.dev.winTarget (s.dev.winBase * 2 ^ 20 + off) data ep false deviceOwner none s.dev)))))
  ∧ (∀ (s : State) (off n : Nat), alive s.ao = true → off + n ≤ 2 ^ 28 →
    (s.dev.winTarget = 0 → exec (.bar4Read off n) s = after s { s.dev with out := s.dev.out ++ [.barRead (List.replicate n 0) false] })
    ∧ (s.dev.winTarget = 1 → 0x80000000 ≤ s.dev.winBase * 2 ^ 20 + off → s.dev.winBase * 2 ^ 20 + off + n ≤ smemBytes →
      s.dev.barReads = [] → windowWaits s.dev = false →
      exec (.bar4Read off n) s = after s { s.dev with
        out := s.dev.out ++ [.barRead (memRead s.dev.mem (s.dev.winBase * 2 ^ 20 + off) n)
          (poisonedAt s.dev (s.dev.winBase * 2 ^ 20 + off) n)] }))

/-- ZAL_TRANSACTION, ACC_UPSTREAM_REQUEST, the completions of reads, WRITE_LOG_ACK and the loss, return and reset of a link complete (R152, R362 to
R367, R373, R374, R380): a ZAL read of the doorbell aperture returns zeros (R39, R43), and what a read brings back for a slice in fault-stop is
discarded (R55). How a ZAL read outside the aperture is answered is the model's choice (log 63). -/
def Obligations.PortEventsComplete : Prop :=
  (∀ (s : State) (a : Nat) (h : BitVec 128) (data : List Byte), alive s.ao = true → a < 8 → (getIo s.dev a).up = true →
    linkIsZal s.dev (64 + a) = true →
    (zMalformed h data = true → exec (.zalTransaction a h data) s = after s (settleAll (startTriggered (reopening (bump 0x22 (64 + a)) s.dev))))
    ∧ (zMalformed h data = false → zOp h = 1 → ∀ off, apertureOff s.dev a (zAddr h) data.length = some off →
      exec (.zalTransaction a h data) s = after s (settleAll (startTriggered (reopening (apertureWrite a 3 off data) s.dev))))
    ∧ (zMalformed h data = false → zOp h = 2 →
      (∀ off, apertureOff s.dev a (zAddr h) (zLen h) = some off →
        exec (.zalTransaction a h data) s = after s (settleAll (startTriggered (reopening
          (answer a (.zalData a (zTag h) (zAddr h % 4096) (List.replicate (zLen h) 0))) s.dev))))
      ∧ (apertureOff s.dev a (zAddr h) (zLen h) = none →
        exec (.zalTransaction a h data) s = after s (settleAll (startTriggered (reopening (answer a (.zalCpl a (zTag h) 1)) s.dev)))))
    ∧ (zMalformed h data = false → zOp h = 0x10 ∨ zOp h = 0x11 → ∀ r, findRead s.dev a (zTag h) = some r → zStatus h ≠ 0 →
      exec (.zalTransaction a h data) s = after s (settleAll (startTriggered
        (reopening (readCompletion a (zTag h) (zStatus h) ⟨[], false, true⟩) s.dev)))))
  ∧ (∀ (s : State) (a addr : Nat) (data : List Byte), alive s.ao = true → a < 8 → (getIo s.dev a).up = true →
    fld (getIo s.dev a).live 27 24 = 2 →
    (∀ off, apertureOff s.dev a addr data.length = some off →
      exec (.accUpstreamRequest a true addr data) s = after s (settleAll (startTriggered (apertureWrite a 3 off data s.dev))))
    ∧ exec (.accUpstreamRequest a false addr data) s = after s (settleAll (startTriggered
        { s.dev with out := s.dev.out ++ [.unsupportedRequest a] })))
  ∧ (∀ (s : State) (k tag status : Nat) (x : ReadData) (r : PortRead), alive s.ao = true → findRead s.dev k tag = some r →
    ioOpen (getIo s.dev k) = true → (∀ q p, useQpn s.dev r.use = some q → getQp s.dev q = some p → p.heldBy.contains k = false) →
    (status = 0 → (∃ n, useSlice s.dev r.use = some n ∧ (getSlice s.dev n).st = .faultStop) →
      exec (.portReadCompletion k tag status x) s = after s (settleAll (startTriggered (reopening (fun d => endHolders r.tokens { d with
        portReads := d.portReads.filter fun y => !(y.port == r.port && y.tag == r.tag) }) s.dev))))
    ∧ (status = 0 → exec (.portReadCompletion k tag status x) s = after s (settleAll (startTriggered
      (reopening (endRead r { x with refused := false }) s.dev))))
    ∧ (status ≠ 0 → exec (.portReadCompletion k tag status x) s = after s (settleAll (startTriggered
      (reopening (fun d => endRead r ⟨[], false, true⟩ (refusedAt r status d)) s.dev)))))
  ∧ (∀ (s : State) (tag : Nat) (r : PortRead), alive s.ao = true → findRead s.dev 15 tag = some r →
    exec (.hostReadTimeout tag) s = after s (settleAll (startTriggered (reopening (fun d =>
      let d := latchEvent 40 0x0202 2 none r.addr tag 0 d
      endRead r ⟨natLe (Config.value d.freeCtr) r.length, true, false⟩ { d with freeCtr := d.freeCtr + 1 }) s.dev))))
  ∧ (∀ (s : State) (n : Nat), alive s.ao = true → s.dev.host.up = true →
    exec (.writeLogAck 15 n) s = after s (settleAll (startTriggered
      (reopening (fun d => portGoes 15 { d with host := { d.host with log := ackLog n d.host.log } }) s.dev))))
  ∧ (∀ (s : State), alive s.ao = true → s.dev.host.up = true → s.dev.host.fenced = false →
    exec (.hostLinkLoss 15) s = after s (settleAll (startTriggered (
      let d := loseRequests 15 (holdAll 15 { s.dev with host := { s.dev.host with
        up := false, closedAt := s.dev.now, parkAt := none, parkTxOff := false, answers := []
        log := (s.dev.host.log.filter fun w => !w.data.isEmpty).map fun w => { w with lost := true } } })
      let n := (heldAt d 15).length
      let d := dropAts d
      emit (.mctp "HOST_LINK_LOST" [15, n])
        { d with host := { d.host with held := d.host.held || anyWork d 15, lossPending := some n } }))))
  ∧ (∀ (s : State) (width : Nat) (pasid : Bool), alive s.ao = true → s.dev.host.up = false →
    exec (.hostLinkUp ⟨15, width, pasid⟩) s = after s (settleAll (startTriggered
      (retrainDone 79 true (ioUp 15 width 0 { s.dev with pasidEn := pasid })))))
  ∧ (∀ (s : State) (k : Nat), alive s.ao = true → (k = 15 ∨ k < 8) →
    exec (.hostHotReset k) s = after s (settleAll (startTriggered (portReset k s.dev))))

/-! ## Scheduling, telemetry (08, 16) -/

/-- The commands of shapers, profiles, meters, gates and feedback rings complete, as do the selection of a packet and the gates' own events
(R283 to R323): a shaper's and a meter's buckets, a profile, and a gate list take what the command gives. A packet that may not be sent now
keeps its place in its queue. -/
def Obligations.SchedulerCommandsComplete : Prop :=
  (∀ (s : State) (h : Cmd) (kind object tc rate burst reset : Nat), Takes s 0x0601 h false → kind < 2 → tc < 8 →
    object < (if kind = 0 then 64 else 512) → rate ≤ 128000 → 8248 ≤ burst → burst ≤ 16777216 → reset < 2 →
    exec (.shaperSet h kind object tc rate burst reset) s = after s (ok (cmdRow 0x0601) h { s.dev with
      shapers := tset s.dev.shapers (if kind = 0 then classShaper object tc else sliceShaper object tc)
        ⟨rate, burst, if reset = 0 then burst * 1000 else 0, s.dev.now⟩ }))
  ∧ (∀ (s : State) (h : Cmd) (n : Nat) (p : CcProfile), Takes s 0x0602 h false → profileBad n p = none →
    exec (.ccProfileSet h n p) s = after s (ok (cmdRow 0x0602) h { s.dev with profiles := tset s.dev.profiles n p }))
  ∧ (∀ (s : State) (h : Cmd) (cir pir cbs pbs : Nat), Takes s 0x0603 h true → cir ≤ pir → pir ≤ 128000 → 8248 ≤ cbs → cbs ≤ 67108864 →
    8248 ≤ pbs → pbs ≤ 67108864 →
    exec (.meterSet h cir pir cbs pbs) s = after s (ok (cmdRow 0x0603) h { s.dev with
      slices := tset s.dev.slices h.slice { getSlice s.dev h.slice with
        meter := ⟨cir, pir, cbs, pbs, cbs * 1000, pbs * 1000, s.dev.now⟩ } }))
  ∧ (∀ (s : State) (h : Cmd) (n cycle base : Nat) (l : List U64), Takes s 0x0609 h false → gateBad s.dev n cycle l = none →
    (let now := ceilDiv s.dev.time.time 65536
     let t := if now + 10000 ≤ base then base else base + ceilDiv (now + 10000 - base) cycle * cycle
     exec (.gateSet h n cycle base l) s = after s (reply (cmdRow 0x0609) h csOk 0 t { s.dev with
       ports := tset s.dev.ports n { getPort s.dev n with gatePending := some (l, base, cycle, t) } })))
  ∧ (∀ (s : State) (n base cycle t : Nat) (l : List U64), alive s.ao = true → (getPort s.dev n).gatePending = some (l, base, cycle, t) →
    exec (.gateListActivate n) s = after s (
      let d := advanceTo (momentOf s.dev t) s.dev
      { d with ports := tset d.ports n { getPort d n with gateActive := l, gateBase := base, gateCycle := cycle, gatePending := none } }))
  ∧ (∀ (s : State) (n : Nat), alive s.ao = true → (getPort s.dev n).gateActive ≠ [] →
    exec (.gateIntervalAdvance n) s = after s
      (advanceTo (momentOf s.dev (timeNs s.dev + intervalLeft s.dev (getPort s.dev n))) s.dev))
  ∧ (∀ (s : State) (n : Nat) (v : U64), alive s.ao = true → n < 64 →
    exec (.schGateCtlWrite n v) s = after s { s.dev with ports := tset s.dev.ports n { getPort s.dev n with gateEn := bit v 63 } })
  ∧ (∀ (s : State) (h : Cmd) (r : RingP), Takes s 0x060A h true → r.space < 2 → 6 ≤ r.lg → r.lg ≤ 16 →
    (getSlice s.dev h.slice).feedbackQ = none → ringStatus s.dev h.slice r.space r.base r.lg 32 = csOk →
    exec (.fbrCreate h r) s = after s (ok (cmdRow 0x060A) h (pumpFeedback h.slice { s.dev with
      slices := tset s.dev.slices h.slice { getSlice s.dev h.slice with
        feedbackQ := some ⟨r.space, r.base, r.lg, r.index, r.index⟩ } })))
  ∧ (∀ (s : State) (h : Cmd) (cons : U32) (r : Ring), Takes s 0x060B h true → (getSlice s.dev h.slice).feedbackQ = some r →
    cons ≠ r.cons → (cons - r.cons).toNat < 2 ^ 31 → (cons - r.cons).toNat ≤ (r.prod - r.cons).toNat →
    exec (.fbrAck h cons) s = after s (reply (cmdRow 0x060B) h csOk 0 0 (pumpFeedback h.slice { s.dev with
      slices := tset s.dev.slices h.slice { getSlice s.dev h.slice with feedbackQ := some { r with cons := cons } } })))
  ∧ (∀ (s : State) (n : Nat), alive s.ao = true → dataOn s.dev = true → n < 64 →
    (∀ tc q e, nextPacket s.dev n = some (tc, q, e) → exec (.egressPacketSelect n) s = after s (settleAll (sendPacket n tc q e s.dev)))
    ∧ (nextPacket s.dev n = none → exec (.egressPacketSelect n) s = after s (settleAll s.dev)))

/-- The commands of monitors, event queues, watermarks and error banks complete (R303 to R305, R420 to R428, R535). -/
def Obligations.TelemetryCommandsComplete : Prop :=
  (∀ (s : State) (h : Cmd) (mon kind object tc mode step k : Nat), Takes s 0x0604 h true → mon < 4096 → kind < 3 → tc < 8 → mode < 2 →
    1 ≤ step → step ≤ 1048576 → tget s.dev.monitors mon = none → monSlice s.dev kind object = some k → k = h.slice →
    quotaFull s.dev h.slice 12 = false →
    exec (.histAttach h mon kind object tc mode step) s = after s (settleAll (ok (cmdRow 0x0604) h { s.dev with
      monitors := tset s.dev.monitors mon
        ⟨some h.slice, kind, object, tc, mode == 1, step, List.replicate 32 0, List.replicate 32 0, 0, 0⟩ })))
  ∧ (∀ (s : State) (h : Cmd) (mon : Nat) (m : Monitor), Takes s 0x0605 h false → mon < 4096 → tget s.dev.monitors mon = some m →
    m.owner = some h.slice → sliceGoing s.dev h.slice = false →
    exec (.histDetach h mon) s = after s (settleAll (ok (cmdRow 0x0605) h { s.dev with monitors := tdel s.dev.monitors mon })))
  ∧ (∀ (s : State) (h : Cmd) (mon clear : Nat) (m : Monitor), Takes s 0x0606 h false → mon < 4096 → clear < 2 →
    tget s.dev.monitors mon = some m → m.owner = some h.slice →
    exec (.histRead h mon clear) s = after s (reply (cmdRow 0x0606) h csOk 0 (Config.value s.dev.freeCtr) { s.dev with
      out := s.dev.out ++ [.histogram mon m.depth m.delay m.peakDepth m.peakDelay]
      monitors := if clear = 1 then tset s.dev.monitors mon { m with
        depth := List.replicate 32 0, delay := List.replicate 32 0, peakDepth := 0, peakDelay := 0 } else s.dev.monitors
      freeCtr := s.dev.freeCtr + 1 }))
  ∧ (∀ (s : State), alive s.ao = true →
    exec .histSample s = after s (
      let d := advanceTo (nextSample s.dev) s.dev
      { d with monitors := tmap d.monitors fun _ m => takeSample d m, lastSample := some (timeNs d) }))
  ∧ (∀ (s : State) (h : Cmd) (r : RingP) (v : Nat), Takes s 0x0901 h false → h.aq < 8 → r.space = 0 → 6 ≤ r.lg → r.lg ≤ 16 → v < 2048 →
    (getEvq s.dev 0).en = false → ringAligned r.base r.lg 32 = true →
    exec (.evqCreate h 0 r v) s = after s (settleAll (ok (cmdRow 0x0901) h (pumpEvents 0 { s.dev with
      eventQ := tset s.dev.eventQ 0 { getEvq s.dev 0 with
        en := true, ring := ⟨0, r.base, r.lg, r.index, r.index⟩, vector := v, armed := false } }))))
  ∧ (∀ (s : State) (h : Cmd) (q : Nat) (cons : U32), Takes s 0x0902 h (decide (q ≠ 0)) → q ≤ 512 → evqAllowed h q = true →
    (getEvq s.dev q).en = true → cons ≠ (getEvq s.dev q).ring.cons → (cons - (getEvq s.dev q).ring.cons).toNat < 2 ^ 31 →
    (cons - (getEvq s.dev q).ring.cons).toNat ≤ ((getEvq s.dev q).ring.prod - (getEvq s.dev q).ring.cons).toNat →
    (let x := getEvq s.dev q
     let d := pumpEvents q (compareMarks { s.dev with eventQ := tset s.dev.eventQ q { x with ring := { x.ring with cons := cons } } })
     exec (.evqAck h q cons 0) s = after s (settleAll (reply (cmdRow 0x0902) h csOk 0 0 d))
     ∧ exec (.evqAck h q cons 1) s = after s (settleAll (reply (cmdRow 0x0902) h csOk 0 0 (armEvq q d)))))
  ∧ (∀ (s : State) (h : Cmd) (e kind object level : Nat), Takes s 0x0903 h true → e < 16384 → kind < 10 → object < 2 ^ 20 →
    level < 2 ^ 32 → e / 32 = h.slice → deviceKind kind = false → markObject s.dev kind object = some (some h.slice) →
    exec (.wmSet h e kind object level) s = after s (ok (cmdRow 0x0903) h { s.dev with
      watermarks := tset s.dev.watermarks e
        ⟨level, wmLevel s.dev kind object, 0, true, false, kind, object, wmLevel s.dev kind object⟩ }))
  ∧ (∀ (s : State) (h : Cmd) (e : Nat), Takes s 0x0904 h true → e < 16384 → e / 32 = h.slice →
    exec (.wmRead h e) s = after s (reply (cmdRow 0x0904) h csOk 0 (markStatus (markOf s.dev e)) s.dev))
  ∧ (∀ (s : State) (h : Cmd) (e : Nat) (w : Watermark), Takes s 0x0905 h true → e < 16384 → e / 32 = h.slice →
    tget s.dev.watermarks e = some w →
    (let l := wmLevel s.dev w.kind w.object
     (l < w.level → exec (.wmAck h e) s = after s (ok (cmdRow 0x0905) h { s.dev with
       watermarks := tset s.dev.watermarks e { w with latched := false, count := 0, peak := l, armed := true, last := l } }))
     ∧ (w.level ≤ l → exec (.wmAck h e) s = after s (ok (cmdRow 0x0905) h (raise ⟨0x70, 0, some (e / 32), 41, e, l, w.level, false⟩
       { s.dev with
         watermarks := tset s.dev.watermarks e { w with latched := true, count := 1, peak := l, armed := true, last := l } })))))
  ∧ (∀ (s : State) (h : Cmd) (e : Nat), Takes s 0x0906 h true → e < 16384 → e / 32 = h.slice →
    exec (.wmClear h e) s = after s (ok (cmdRow 0x0906) h { s.dev with watermarks := tdel s.dev.watermarks e }))
  ∧ (∀ (s : State) (k : Nat), alive s.ao = true → k < 82 →
    (let b := tgetD s.dev.errBanks k ErrBank.reset
     exec (.errFirstClear k) s = after s { s.dev with errBanks := tset s.dev.errBanks k { ErrBank.reset with
       nextV := b.nextV, nextSeverity := b.nextSeverity, nextCount := b.nextCount } }
     ∧ exec (.errNextClear k) s = after s { s.dev with errBanks := tset s.dev.errBanks k { b with
       nextV := false, nextSeverity := 0, nextCount := 0 } }))

/-! ## Slices, snapshots and triage (09, 12) -/

/-- The slice commands complete (R326 to R346): a created slice is LIVE with what the command names and keeps its RESET_COUNT; an extent counts in
SMEM from its addition until its removal has completed; a reset waits to begin. -/
def Obligations.SliceCommandsComplete : Prop :=
  (∀ (s : State) (h : Cmd) (p : SliceCreateP), Takes s 0x0701 h false → sliceCreateBad p = none → (getSlice s.dev h.slice).st = .free →
    setValid s.dev p.routeSet = true → (p.latCrit = 1 ∨ p.limits.getD 7 0 = 0) →
    (∀ q, q < 13 → totalHolds s.dev h.slice q (p.limits.getD q 0) = true) →
    exec (.sliceCreate h p) s = after s (settleAll (replyPinned (pinnedObjs s.dev) (cmdRow 0x0701) h 0 { s.dev with
      slices := tset s.dev.slices h.slice (newSlice p s.dev.now (getSlice s.dev h.slice)) }))
    ∧ (newSlice p s.dev.now (getSlice s.dev h.slice)).st = .live
    ∧ (newSlice p s.dev.now (getSlice s.dev h.slice)).resetCount = (getSlice s.dev h.slice).resetCount
    ∧ (newSlice p s.dev.now (getSlice s.dev h.slice)).limits = p.limits)
  ∧ (∀ (s : State) (h : Cmd) (p : SliceModifyP), Takes s 0x0702 h false → sliceModifyBad p = none →
    (getSlice s.dev h.slice).st ≠ .free → sliceGoing s.dev h.slice = false →
    (p.mask.getLsbD 9 = false ∨ p.xltHa = false ∨ s.dev.pasidEn = true) →
    exec (.sliceModify h p) s = after s (ok (cmdRow 0x0702) h (switchReduction h.slice { s.dev with
      slices := tset s.dev.slices h.slice (applySlice p s.dev.now (getSlice s.dev h.slice)) })))
  ∧ (∀ (s : State) (h : Cmd) (l : List (Option Nat)) (b : QuotaRead), Takes s 0x0703 h true → sliceQuotaBad l b = none →
    ((getSlice s.dev h.slice).latCrit = true ∨ ((l[7]?).getD none).getD 0 = 0) →
    (∀ q, q < 13 → quotaRefused s.dev h.slice q (newLimit s.dev h.slice l q) = false) →
    exec (.sliceQuota h l b) s = after s (settleAll (ok (cmdRow 0x0703) h { s.dev with
      slices := tset s.dev.slices h.slice { getSlice s.dev h.slice with
        limits := (List.range 13).map (newLimit s.dev h.slice l)
        pend := (List.range 13).map fun q =>
          decide (((List.range 13).map (newLimit s.dev h.slice l)).getD q 0 < quotaUsed s.dev h.slice q) } })))
  ∧ (∀ (s : State) (h : Cmd) (p : SliceBindP), Takes s 0x0704 h true → sliceBindBad p = none →
    (p.mask.getLsbD 2 = false ∨ setValid s.dev p.routeSet = true) →
    (p.mask.getLsbD 1 = false ∨ ∀ q ∈ s.dev.qps, q.2.slice = h.slice → p.classMask.testBit q.2.p.tc = true) →
    (∀ a ∈ portsLost p (getSlice s.dev h.slice), spaceUsed s.dev h.slice (2 + a) = false) →
    (p.mask.getLsbD 4 = false ∨ p.latCrit ≠ 0 ∨ ∀ q ∈ s.dev.qps, q.2.slice = h.slice → q.2.pinned = false) →
    exec (.sliceBind h p) s = after s (settleAll (replyPinned (pinnedObjs s.dev) (cmdRow 0x0704) h 0 { s.dev with
      slices := tset s.dev.slices h.slice (applyBind p (getSlice s.dev h.slice)) })))
  ∧ (∀ (s : State) (h : Cmd) (base length : Nat), Takes s 0x0705 h true → extentBad base length = none →
    extentTaken s.dev h.slice base length = false →
    (getSlice s.dev h.slice).extents.length + (getSlice s.dev h.slice).removing.length < 64 →
    quotaUsed s.dev h.slice 3 + length / 0x200000 ≤ quotaLimit s.dev h.slice 3 →
    exec (.sliceSmemAdd h base length) s = after s (settleAll (ok (cmdRow 0x0705) h { s.dev with
      slices := tset s.dev.slices h.slice { getSlice s.dev h.slice with
        extents := (getSlice s.dev h.slice).extents ++ [(base, length)] } })))
  ∧ (∀ (s : State) (h : Cmd) (base length : Nat), Takes s 0x0706 h true → extentBad base length = none →
    (getSlice s.dev h.slice).extents.contains (base, length) = true →
    (∀ x ∈ placedIn s.dev h.slice, meets base length x = false) → (closedEpochs s.dev h.slice).length < 4 →
    (let x := getSlice s.dev h.slice
     let d := (invalidate h.slice 1 0 allPages { s.dev with slices := tset s.dev.slices h.slice { x with
       extents := x.extents.erase (base, length), removing := x.removing ++ [(base, length)] } }).2
     (holdersOf d h.slice x.epoch = [] →
       exec (.sliceSmemRemove h base length) s = after s (settleAll (reply (cmdRow 0x0706) h csOk 0 (invalResult 0 x.epoch)
         (invalDone h.slice x.epoch (dropExtent h.slice base length d)))))
     ∧ (holdersOf d h.slice x.epoch ≠ [] →
       exec (.sliceSmemRemove h base length) s = after s (settleAll
         (waitOn h 0x0706 (.extent h.slice x.epoch s.dev.now base length) d)))))
  ∧ (∀ (s : State) (h : Cmd) (report : Nat), Takes s 0x0707 h true → report % 64 = 0 → resetOrdered s.dev h.slice = false →
    exec (.sliceReset h report) s = after s (settleAll (waitOn h 0x0707 (.sliceReset h.slice report none) (noteExecuting h s.dev))))
  ∧ (∀ (s : State) (h : Cmd) (report : Nat), Takes s 0x0708 h true → report % 64 = 0 → resetOrdered s.dev h.slice = false →
    exec (.sliceDestroy h report) s = after s (settleAll (waitOn h 0x0708 (.sliceDestroy h.slice report none) (noteExecuting h s.dev))))
  ∧ (∀ (s : State) (k report t : Nat) (h : Cmd) (op : Nat), alive s.ao = true →
    (s.dev.waits = [(h, op, .sliceReset k report (some t))] → exec (.sliceResetDrained k) s = after s (settleAll (startTriggered
      (finishReset (h, op, .sliceReset k report (some t)) k report t false s.dev))))
    ∧ (s.dev.waits = [(h, op, .sliceDestroy k report (some t))] → exec (.sliceResetDrained k) s = after s (settleAll (startTriggered
      (finishReset (h, op, .sliceDestroy k report (some t)) k report t true s.dev)))))
  ∧ (∀ (s : State) (a n : Nat), alive s.ao = true → (s.dev.zeroing.find? fun e => e.1 == a) = some (a, n) →
    exec (.extentZeroDone a) s = after s (settleAll (clearPoison a n { s.dev with
      mem := memZero s.dev.mem a n, zeroing := s.dev.zeroing.erase (a, n) })))

/-- SNAP_EXPORT, SNAP_IMPORT, SNAP_THAW, EVENT_TRIAGE and the timers of triage and of keys complete (R411 to R414, R425, R435, R436). -/
def Obligations.RecoveryComplete : Prop :=
  (∀ (s : State) (h : Cmd) (addr : Nat), Takes s 0x0802 h true → sliceGoing s.dev h.slice = false →
    exec (.snapExport h 1 addr) s = after s (settleAll (
      let r := snapImage (some h.slice) (freezeScope [h.slice] s.dev)
      reply (cmdRow 0x0802) h csOk 0 (packResult [(r.1.bytes.length, 8)])
        (store 0 addr r.1.bytes false true deviceOwner none (emit (.snapshot r.1) r.2)))))
  ∧ (∀ (s : State) (h : Cmd) (i : Snapshot), Takes s 0x0803 h false → importRefusal s.dev i = none →
    exec (.snapImport h i) s = after s (settleAll (ok (cmdRow 0x0803) h (i.records.foldl (importRecord i.taken) s.dev))))
  ∧ (∀ (s : State) (h : Cmd), Takes s 0x0804 h true → (∀ p ∈ s.dev.qps, p.2.slice = h.slice → keyMissing s.dev p.2 = false) →
    exec (.snapThaw h 1) s = after s (settleAll (startTriggered (ok (cmdRow 0x0804) h
      ((s.dev.qps.filter fun p => p.2.slice == h.slice).foldl (fun d p => thawQp p.1 d) s.dev)))))
  ∧ (∀ (s : State) (core : Nat) (e : EventRec) (r : List EventRec), alive s.ao = true → tgetD s.dev.triage core [] = e :: r →
    exec (.eventTriage core) s = after s (settleAll (placeEvent 0 { e with action := triageAction e, untriaged := false }
      (triageStep e { s.dev with triage := if r = [] then tdel s.dev.triage core else tset s.dev.triage core r }))))
  ∧ (∀ (s : State) (n t : Nat), alive s.ao = true → (getPort s.dev n).retrainDue = some t → s.dev.cores ≠ 0 →
    exec (.triageRetrainTimer n) s = after s (settleAll (retrainAgain n (advanceTo t s.dev))))
  ∧ (∀ (s : State) (k t : Nat) (x : KeySlot), alive s.ao = true → tget s.dev.keySlots k = some x → x.waitOver = false →
    sliceLive s.dev x.owner = true → x.stoppedSince = some t →
    exec (.keyWaitExpiry k) s = after s (settleAll (startTriggered (keyExhausted k (
      let d := advanceTo (t + (getSlice s.dev x.owner).keyWait) s.dev
      { d with keySlots := tset d.keySlots k { x with waitOver := true } })))))
  ∧ (∀ (s : State) (k t : Nat) (x : KeySlot) (key : FabKey), alive s.ao = true → tget s.dev.keySlots k = some x →
    x.prev = some (key, t) →
    exec (.prevGraceExpiry k) s = after s (
      let d := advanceTo t s.dev
      { d with keySlots := tset d.keySlots k { x with prev := none } }))

/-! ## Security (13, 17) -/

/-- The commands of keys, of the management plane, of SPDM and of debug complete (R431 to R436, R448 to R453, R480, R529): an install that is not
refused places its key, a free slot that no queue pair names goes, and zeroisation leaves no key. A command of the management plane with a reserved
field that is not zero is refused with BAD_PARAM and its offset (R7, R469). -/
def Obligations.SecurityCommandsComplete : Prop :=
  (∀ (s : State) (h : Cmd) (slot dir pos : Nat) (k : WrappedKey) (p : PlainKey), Takes s 0x0A01 h true → slot < 4096 → dir < 2 →
    pos < 2 → s.dev.sec.mgmtReset = false → unwraps s.dev h.slice k = some p → installRefusal s.dev h.slice slot dir pos p = none →
    exec (.keyInstall h slot dir pos k) s = after s (settleAll (startTriggered
      (ok (cmdRow 0x0A01) h (placeKey h.slice slot dir pos p s.dev)))))
  ∧ (∀ (s : State) (h : Cmd) (slot : Nat) (y : KeySlot), Takes s 0x0A02 h true → slot < 4096 → tget s.dev.keySlots slot = some y →
    y.owner = h.slice → slotNamed s.dev slot = false →
    exec (.keyFree h slot) s = after s (settleAll (ok (cmdRow 0x0A02) h { s.dev with keySlots := tdel s.dev.keySlots slot })))
  ∧ (∀ (s : State) (h : Cmd) (slot : Nat) (y : KeySlot), Takes s 0x0A03 h true → slot < 4096 → tget s.dev.keySlots slot = some y →
    y.owner = h.slice → exec (.keyQuery h slot) s = after s (reply (cmdRow 0x0A03) h csOk 0 (encKeySlot s.dev.now y) s.dev))
  ∧ (∀ (s : State) (i slice : Nat) (kek : BitVec 256), alive s.ao = true → inSession s.dev (some i) = true → s.dev.dataStopped = false →
    slice < 512 → (getSlice s.dev slice).st ≠ .free → sliceGoing s.dev slice = false →
    exec (.kekSet ⟨some i, slice, none⟩ slice kek) s = after s { s.dev with
      slices := tset s.dev.slices slice { getSlice s.dev slice with kek := some kek }
      out := s.dev.out ++ [.spdm i "KEK_SET" [csOk]] })
  ∧ (∀ (s : State) (i off n : Nat) (b : BankImage), alive s.ao = true → inSession s.dev (some i) = true → s.dev.dataStopped = false →
    n ≤ 65536 → off + n ≤ 31 * 2 ^ 20 → bankPasses s.ao.minSvn b = true →
    exec (.fwUpdate ⟨some i, 0, none⟩ off n (some b)) s = .next { s with
      ao := { s.ao with banks := s.ao.banks.set (1 - s.ao.bank % 2) b, pendingBank := some (1 - s.ao.bank % 2) }
      dev := { s.dev with out := s.dev.out ++ [.spdm i "FW_UPDATE" [csOk]] } })
  ∧ (∀ (s : State) (i : Nat), alive s.ao = true → inSession s.dev (some i) = true → s.dev.dataStopped = false →
    exec (.secZeroise ⟨some i, 0, none⟩) s = after s (settleAll { s.dev with
      keySlots := tmap s.dev.keySlots fun _ y => { y with cur := none, next := none, prev := none, pkts := 0, bytes := 0 }
      slices := tmap s.dev.slices fun _ x => { x with kek := none }
      sec := { s.dev.sec with serviceKeys := [], attestKey := false, zeroised := true }
      out := s.dev.out ++ [.spdm i "SEC_ZEROISE" [csOk]] }))
  ∧ (∀ (s : State) (i o slice off n : Nat) (kek : BitVec 256) (b : Option BankImage), alive s.ao = true → inSession s.dev (some i) = true →
    s.dev.dataStopped = false →
    exec (.kekSet ⟨some i, slice, some o⟩ slice kek) s = after s { s.dev with out := s.dev.out ++ [.spdm i "KEK_SET" [csBadParam, o]] }
    ∧ exec (.fwUpdate ⟨some i, 0, some o⟩ off n b) s = after s { s.dev with out := s.dev.out ++ [.spdm i "FW_UPDATE" [csBadParam, o]] }
    ∧ exec (.secZeroise ⟨some i, 0, some o⟩) s = after s (settleAll { s.dev with out := s.dev.out ++ [.spdm i "SEC_ZEROISE" [csBadParam, o]] }))
  ∧ (∀ (s : State) (i : Nat), alive s.ao = true → mgmtUp s.dev = true →
    exec (.spdmRequest 0x84 i) s = after s { s.dev with out := s.dev.out ++ [.spdm i "VERSION" [0x12, 0x13]] }
    ∧ (i ∈ s.dev.sec.handshakes → exec (.spdmRequest 0xE5 i) s = after s { s.dev with
        out := s.dev.out ++ [.spdm i "FINISH_RSP" []]
        sec := { s.dev.sec with
          handshakes := s.dev.sec.handshakes.filter fun j => j != i, sessions := s.dev.sec.sessions ++ [i] } })
    ∧ (s.dev.sec.attestKey = true → s.dev.sec.unlocked = false → exec (.getMeasurements (some i)) s = after s { s.dev with
        out := s.dev.out ++ [.spdm i "MEASUREMENTS" (s.dev.sec.measures ++ [0] ++ [Config.signature (s.dev.sec.measures ++ [0])])] }))
  ∧ (∀ (s : State) (i k off n : Nat) (b : Option BankImage), alive s.ao = true → inSession s.dev (some i) = true → 0 < k →
    exec (.fwUpdate ⟨some i, k, none⟩ off n b) s = after s { s.dev with out := s.dev.out ++ [.spdm i "FW_UPDATE" [csNotPermitted]] }
    ∧ exec (.secZeroise ⟨some i, k, none⟩) s = after s (settleAll { s.dev with out := s.dev.out ++ [.spdm i "SEC_ZEROISE" [csNotPermitted]] }))
  ∧ (∀ (s : State) (i : Nat), alive s.ao = true → inSession s.dev (some i) = true →
    exec (.spdmHeartbeatLost i) s = after s (settleAll (devEvent 0x104 0 0x7F i 1 0 { s.dev with
      sec := { s.dev.sec with sessions := s.dev.sec.sessions.filter fun j => j != i } })))
  ∧ (∀ (s : State) (enc : Bool) (n : Nat) (l : List (BitVec 128)) (k : BitVec 256), alive s.ao = true → mgmtUp s.dev = true →
    (s.dev.sec.serviceKeys.find? fun p => p.1 == n) = some (n, k) → 1 ≤ l.length → l.length ≤ 256 →
    exec (.rawBlockRequest enc n l) s = after s { s.dev with
      out := s.dev.out ++ [.blocks (l.map fun b => if enc then aesEncrypt k b else aesDecrypt k b)] })
  ∧ (∀ (s : State), alive s.ao = true → mgmtUp s.dev = true →
    exec (.debugUnlock true) s = after s (settleAll { s.dev with sec := { s.dev.sec with unlocked := true } }))
  ∧ (∀ (s : State) (ir : Nat), ∃ (i : Nat) (c : Option Nat), exec (.jtagInstruction ir) s = .next { s with
      ao := { s.ao with jtagIr := ir, trst := false }
      dev := { s.dev with out := s.dev.out ++ [.jtag i c] } }
    ∧ (ir < 3 → i = ir) ∧ (3 ≤ ir → ir < 6 → i = if s.ao.perst then ir else 0)
    ∧ (6 ≤ ir → i = if s.dev.sec.unlocked then ir else 0) ∧ (i = 1 → c = some 0xB40960B5))
  ∧ (∀ (s : State), exec .trstAssert s = .next { s with ao := { s.ao with trst := true, jtagIr := 1 } })

/-! ## Power, resets and the registers (11, 15, 16, 17) -/

/-- Power-on, boot, PERST#, the resets, the losses of power and clock, and temperature complete (R21, R273, R449, R450, R496 to R500, R522, R523, R525,
R530 to R532). The clauses that name a value of the model's own choice are those of log 90. -/
def Obligations.ResetsComplete : Prop :=
  (∀ (s : State) (high : Bool) (a b : BankImage), s.ao.phase = .held →
    exec (.powerOn high true a b) s = .next (boot { s with
      ao := { s.ao with perst := !high, banks := if s.ao.banks.isEmpty then [a, b] else s.ao.banks }
      dev := { s.dev with sec := { s.dev.sec with selftestOk := true } } }))
  ∧ (∀ (s : State), s.ao.phase = .booting → ∃ d : Dev, exec .resetSequenceDone s = .next { s with
      ao := { s.ao with phase := .running, minSvn := raiseSvn s.ao.minSvn (bankAt s.ao s.ao.bank) }, dev := d }
    ∧ d.ready = true ∧ d.cores = 0x3F
    ∧ { d with ready := s.dev.ready, cores := s.dev.cores, sec := s.dev.sec } = s.dev)
  ∧ (∀ (s : State), alive s.ao = true → exec .perstAssert s = .next { s with
      ao := { s.ao with phase := .perstHeld, perst := true, booted := false }, dev := warmReset s.dev })
  ∧ (∀ (s : State), s.ao.phase = .perstHeld →
    (s.ao.booted = false → exec .perstDeassert s = .next (boot { s with ao := { s.ao with perst := false } }))
    ∧ (s.ao.booted = true → exec .perstDeassert s = .next { s with
        ao := { s.ao with perst := false, phase := .booting }
        dev := startTraining (applyImage (bankAt s.ao s.ao.bank).cfg s.dev) }))
  ∧ (∀ (s : State) (n : Nat) (image : BankImage), s.ao.phase = .recovery → s.dev.sec.selftestOk = true → n < 2 →
    bankPasses s.ao.minSvn image = true →
    exec (.recoveryBankWrite n image) s = .next (boot { s with
      ao := { s.ao with banks := s.ao.banks.set n image }
      dev := { s.dev with out := s.dev.out ++ [.mctp "RECOVERY_BANK accepted" [n]] } }))
  ∧ (∀ (s : State), alive s.ao = true → s.dev.sec.mgmtReset = false →
    exec .mgmtPlaneReset s = after s (startMgmtReset s.dev) ∧ exec .mgmtWatchdogExpiry s = after s (settleAll (startMgmtReset s.dev)))
  ∧ (∀ (s : State), alive s.ao = true → s.dev.sec.mgmtReset = true →
    exec .mgmtPlaneReset s = after s (bump 0x35 0 s.dev)
    ∧ exec .mgmtPlaneResetDone s = after s (settleAll (startTriggered (resumeKeys
        { s.dev with sec := { s.dev.sec with mgmtReset := false } }))))
  ∧ (∀ (s : State), alive s.ao = true → s.dev.transitReset = false → (∀ p ∈ s.dev.slices, p.2.st = .free) →
    exec .transitOnlyReset s = after s (settleAll (startAll (dropFabric (supersedeRetrains { s.dev with transitReset := true })))))
  ∧ (∀ (s : State), alive s.ao = true → s.dev.transitReset = true →
    exec .transitOnlyReset s = after s (settleAll (bump 0x35 0 s.dev))
    ∧ exec .transitOnlyResetDone s = after s (startTraining { s.dev with transitReset := false }))
  ∧ (∀ (s : State), s.ao.thermTrip = false → s.ao.thermAlert = false →
    exec .porFall s = .next { s with ao := flashOnly s.ao, dev := powerLost s.dev })
  ∧ (∀ (s : State) (rail : Nat), s.ao.phase ≠ .held → s.ao.phase ≠ .powerLoss →
    exec (.railFault rail) s = .next { s with
      ao := { s.ao with phase := .powerLoss, booted := false, causes := s.ao.causes ++ ["RAIL_FAULT"] }
      dev := emit (.mctp "RAIL_FAULT" [rail]) { powerLost s.dev with grade := s.dev.grade } }
    ∧ exec .sysclkLoss s = .next { s with
      ao := { s.ao with phase := .powerLoss, booted := false, causes := s.ao.causes ++ ["SYSCLK_LOSS"] }
      dev := emit (.mctp "SYSCLK_LOSS" []) { powerLost s.dev with grade := s.dev.grade } })
  ∧ (∀ (s : State) (acc : Bool) (g : Nat), alive s.ao = true → refclkNamed acc g = true →
    (s.dev.refLost.contains (acc, g) = false →
      exec (.refclkLoss acc g) s = after s (settleAll (startTriggered (refclkLoss acc g s.dev))))
    ∧ (s.dev.refLost.contains (acc, g) = true → ∃ d, exec (.refclkRestored acc g) s = after s d
        ∧ d.refLost = s.dev.refLost.filter fun x => !(x == (acc, g))))
  ∧ (∀ (s : State) (t : Nat), s.ao.phase ≠ .held → s.ao.thermAlert = false → alertPoint s.dev ≤ t →
    exec (.thermAlert t) s = .next { s with
      ao := { s.ao with thermAlert := true }
      dev := emit (.mctp "THERM_ALERT" [t]) (emit (.pin "THERM_ALERT#" false) s.dev) })
  ∧ (∀ (s : State) (t : Nat) (dram : List Nat), s.ao.phase ≠ .held → s.ao.phase ≠ .powerLoss → s.ao.thermTrip = false →
    (tripPoint s.dev ≤ t ∨ ∃ x ∈ dram, 105 < x) →
    exec (.thermTrip t dram) s = .next { s with
      ao := { s.ao with phase := .powerLoss, booted := false, thermTrip := true, causes := s.ao.causes ++ ["THERM_TRIP"] }
      dev := emit (.mctp "THERM_TRIP" (t :: dram))
        { powerLost (emit (.pin "THERM_TRIP#" false) s.dev) with grade := s.dev.grade } })
  ∧ (∀ (s : State) (r : Sensors), s.ao.phase ≠ .held →
    exec (.sensorReport r) s = after s { s.dev with out := s.dev.out ++ [.mctp "SENSORS" (r.tj :: (r.dram ++ r.rails))] })

/-- REGISTER_WRITE, and the reads, scrubs and refresh of the stacks complete (R348, R384 to R389, R505 to R508): a register write of 4 or 8 bytes at a
multiple of its size reaches its block; another one from the host is counted; the host's writes to the security block are discarded. -/
def Obligations.RegistersAndStacksComplete : Prop :=
  (∀ (s : State) (off size : Nat) (v : U64) (host : Bool), alive s.ao = true → s.dev.ready = true → (size = 4 ∨ size = 8) →
    off % size = 0 → off < 0x04000000 →
    exec (.registerWrite off size v host) s = after s (settleAll (startTriggered
      (blockWrite (off / 0x400000) (off % 0x400000) size v host s.dev))))
  ∧ (∀ (s : State) (off size : Nat) (v : U64), alive s.ao = true → s.dev.ready = true → ¬(size = 4 ∨ size = 8) ∨ off % size ≠ 0 →
    exec (.registerWrite off size v true) s = after s (settleAll (startTriggered (bump 0x2B 0 s.dev))))
  ∧ (∀ (s : State) (off : Nat) (v : U64), alive s.ao = true → s.dev.ready = true → off % 8 = 0 → off / 0x400000 = 0xC →
    exec (.registerWrite off 8 v true) s = after s (settleAll (startTriggered (bump 0x2E 0 s.dev))))
  ∧ (∀ (s : State) (v : U64), alive s.ao = true → s.dev.ready = true → 8000 ≤ v.toNat % 2 ^ 32 → v.toNat % 2 ^ 32 ≤ 4000000 →
    exec (.registerWrite 0x01C00000 8 v true) s = after s (settleAll (startTriggered
      { s.dev with rtoBase := v.toNat % 2 ^ 32 })))
  ∧ (∀ (s : State) (line : Nat), alive s.ao = true → line * 32 < smemBytes → poisonedLine s.dev line = false →
    exec (.stackReadReturn line 0) s = after s (settleAll s.dev)
    ∧ exec (.stackReadReturn line 1) s = after s (settleAll (corrected (line * 32) s.dev))
    ∧ (∀ k, k = 2 ∨ k = 3 → exec (.stackReadReturn line k) s = after s
        (settleAll (smemUe (line * 32) (objectAt s.dev (line * 32)) (markPoison [line] s.dev))))
    ∧ (s.dev.scrubHours ≠ 0 → (getPower s.dev (.stack (smemMap (line * 32)).1)).st ≠ .meringue →
      exec (.patrolScrub line 1) s = after s (settleAll (corrected (line * 32) s.dev))))
  ∧ (∀ (s : State) (k t : Nat), alive s.ao = true → k < 4 →
    exec (.smemRefresh k t none) s = after s (settleAll { s.dev with
      dies := tset s.dev.dies k { getDie s.dev k with temp := t, refresh := if t ≤ 85 then 0 else if t ≤ 95 then 1 else 2 } }))

/-! ## The machine -/

/-- A step takes the command at the front of the queue: it is exec of that command on the state with the queue's rest. -/
def Obligations.StepRunsFront : Prop :=
  ∀ (s : State) (c : Instr), step { s with pending := c :: s.pending } = exec c s

/-- With no command waiting a step lets 1 ns of local time pass, and fabric time with it at the servo's trim (R306, R310; the model's choice, log 2);
nothing else changes where no frame's bytes are due to leave a port's ingress (log 157). -/
def Obligations.IdleStepTicks : Prop :=
  ∀ (s : State), s.pending = [] →
    let d : Dev := { s.dev with now := s.dev.now + 1, time := { s.dev.time with time := timeAfter s.dev.time 1 } }
    step s = .next { s with dev := pumpIngress d }
    ∧ ((∀ p ∈ s.dev.ports, ∀ x ∈ p.2.leaving, s.dev.now + 1 < x.2.2) →
      step s = .next { s with dev := d })

/-- Every command answers a next state and leaves the queue alone. Only the rows that act on the always-on domain, the flash and the pins change that
domain; while every other domain is held in reset, any other row has no effect. -/
def Obligations.EveryCommandAnswers : Prop :=
  ∀ (i : Instr) (s : State), ∃ t, exec i s = .next t ∧ t.pending = s.pending
    ∧ (aoRow i = false → t.ao = s.ao ∧ (alive s.ao = false → t = s))

/-- What reset leaves: no command waits, POR# has not risen, no queue pair, slice, link or queue is there, every counter is 0, the stacks read as zero, and the
registers named here stand at the reset values of Chapters 8 and 16 (R497). -/
def Obligations.ResetLeaves : Prop :=
  State.reset.pending = [] ∧ State.reset.ao.phase = .held ∧ State.reset.dev.ready = false ∧ State.reset.dev.mem = []
  ∧ (∀ a, memGet State.reset.dev.mem a = 0) ∧ Memory.wf State.reset.dev.mem = true
  ∧ (∀ n, getQp State.reset.dev n = none) ∧ (∀ k, (getSlice State.reset.dev k).st = .free)
  ∧ (∀ n, (getPort State.reset.dev n).up = false) ∧ (∀ k, (getIo State.reset.dev k).up = false)
  ∧ (∀ n, (getAq State.reset.dev n).en = false) ∧ (∀ q, (getEvq State.reset.dev q).en = false)
  ∧ (∀ code index, counter State.reset.dev code index = 0)
  ∧ State.reset.dev.rtoBase = 16000 ∧ State.reset.dev.ceThresh = 65536 ∧ State.reset.dev.scrubHours = 24
  ∧ State.reset.dev.rowThresh = 8 ∧ State.reset.dev.routing.g = 9 ∧ State.reset.dev.routing.escWait = 1000
  ∧ State.reset.dev.routing.nmBias = 16384 ∧ State.reset.dev.time.hops = 0xFF
  ∧ (∀ n, getProfile State.reset.dev n = ⟨5000, 8192, 819, 512, 256, 65536, 4194304, 16384⟩)
  ∧ (∀ p, getFab State.reset.dev p = ⟨0, 0, 0x1818181818181818, 0x1818181818181818, 0, 0x0706050403020100, 0, 0xB7E5⟩)

/-- The boot rule holds at reset. -/
def Obligations.BootRuleHoldsAtReset : Prop := bootRule State.reset.ao

/-- Every step keeps the boot rule: the images of the running bank have passed R450's check against the minimum SVN, whatever is written to flash,
whatever resets or loses power, and however the minimum rises. -/
def Obligations.BootRuleKept : Prop :=
  ∀ (s t : State), bootRule s.ao → step s = .next t → bootRule t.ao

/-- The state of a power loss is left only by POR_FALL, which leads to the held state, and the held state only by POWER_ON; THERM_TRIP# once asserted stays so
until POR_FALL; and the minimum SVN of no image falls, and they rise only where the reset sequence ends. -/
def Obligations.PowerLossEndsWithPor : Prop :=
  ∀ (i : Instr) (s t : State), exec i s = .next t →
    (s.ao.phase = .powerLoss → i ≠ .porFall → t.ao.phase = .powerLoss)
    ∧ (i = .porFall → t.ao.phase = .held ∧ t.ao.thermTrip = false)
    ∧ (s.ao.phase = .held → t.ao.phase ≠ .held → ∃ hi ok a b, i = .powerOn hi ok a b)
    ∧ (s.ao.thermTrip = true → i ≠ .porFall → t.ao.thermTrip = true)
    ∧ (∀ j, j < 4 → s.ao.minSvn.getD j 0 ≤ t.ao.minSvn.getD j 0)
    ∧ (s.ao.minSvn ≠ t.ao.minSvn → i = .resetSequenceDone ∧ s.ao.phase = .booting)

/-- The memory of the stacks: what is written is read back, every other byte reads as before, a zeroed range reads as zero, the canonical form is
kept, and memories in that form that read alike are equal. -/
def Obligations.StackMemoryReadsBack : Prop :=
  (∀ (m : List Host.Cell) (a : Nat) (bs : List Byte), memRead (memWrite m a bs) a bs.length = bs)
  ∧ (∀ (m : List Host.Cell) (a x : Nat) (bs : List Byte), x < a ∨ a + bs.length ≤ x → memGet (memWrite m a bs) x = memGet m x)
  ∧ (∀ (m : List Host.Cell) (a n x : Nat),
    memGet (memZero m a n) x = if a ≤ x ∧ x < a + n then 0 else memGet m x)
  ∧ (∀ (m : List Host.Cell) (a n : Nat) (bs : List Byte), Memory.wf m = true →
    Memory.wf (memWrite m a bs) = true ∧ Memory.wf (memZero m a n) = true)
  ∧ (∀ (m l : List Host.Cell), Memory.wf m = true → Memory.wf l = true → (∀ x, memGet m x = memGet l x) → m = l)

/-- The mapping of Millefeuille addresses (R381): as the rule's code computes it, one address to each place of each of the 64 channels, a block of 2 KiB
in one stack, a granule of 128 bytes in one channel, and an extent of 2 MiB over all channels of all stacks. -/
def Obligations.AddressMapFollowsR381 : Prop :=
  smemBytes = 144 * 10 ^ 9
  ∧ (∀ (a : Nat),
    let b := a / 2048
    let l := b / 4 * 2048 + a % 2048
    let c := l / 128
    smemMap a = ((b ^^^ (b / 4) ^^^ (b / 16) ^^^ (b / 64)) % 4, (c ^^^ (c / 16) ^^^ (c / 256)) % 16, c / 16 * 128 + l % 128))
  ∧ (∀ (a b : Nat), smemMap a = smemMap b → a = b)
  ∧ (∀ (k c off : Nat), k < 4 → c < 16 → ∃ a, smemMap a = (k, c, off))
  ∧ (∀ (a b : Nat), a / 2048 = b / 2048 → (smemMap a).1 = (smemMap b).1)
  ∧ (∀ (a b : Nat), a / 128 = b / 128 → (smemMap a).2.1 = (smemMap b).2.1)
  ∧ (∀ (e k c : Nat), k < 4 → c < 16 → ∃ a off, a / 0x200000 = e ∧ smemMap a = (k, c, off))

/-- Two laps of a ring (R28, R29, R30): the same slot is written again one ring size later, with the other phase, across the wrap of the index too; within a
lap the phase stays. -/
def Obligations.LapsCarryTheOtherPhase : Prop :=
  (∀ (i : U32) (lg : Nat), lg < 32 → phaseOf (i + u32 (2 ^ lg)) lg = !phaseOf i lg)
  ∧ (∀ (i : U32) (lg : Nat), lg < 32 → (i + u32 (2 ^ lg)).toNat % 2 ^ lg = i.toNat % 2 ^ lg)
  ∧ (∀ (i : U32) (lg k : Nat), lg < 32 → i.toNat % 2 ^ lg + k < 2 ^ lg → phaseOf (i + u32 k) lg = phaseOf i lg)

/-- What the common operations leave alone. A reply, whatever the command, changes only the admin queues with their started and waiting commands, a
counter, and what a record's write needs, the host and accelerator ports with their links among it; an event changes only the event queues, the
lists for triage, a counter, and the same. Where no queue that is written lies in the stacks the stacks keep every byte. -/
def Obligations.CommonOperationsFrame : Prop :=
  (∀ (c : CmdInfo) (h : Cmd) (st dt r : Nat) (d : Dev),
    let t := reply c h st dt r d
    { t with
      started := d.started, timedOut := d.timedOut, adminQ := d.adminQ, waits := d.waits, counters := d.counters, out := d.out
      freeCtr := d.freeCtr, mem := d.mem, poison := d.poison, dies := d.dies, host := d.host, accs := d.accs, xlt := d.xlt
      ports := d.ports } = d
    ∧ { t.xlt with holders := d.xlt.holders } = d.xlt
    ∧ (∀ n, n < 64 → getPort t n = getPort d n)
    ∧ ((∀ n, (getAq d n).space ≠ 1) → t.mem = d.mem ∧ t.poison = d.poison ∧ t.dies = d.dies))
  ∧ (∀ (e : Ev) (d : Dev),
    let t := raise e d
    { t with
      eventQ := d.eventQ, triage := d.triage, counters := d.counters, out := d.out
      freeCtr := d.freeCtr, mem := d.mem, poison := d.poison, dies := d.dies, host := d.host, accs := d.accs, xlt := d.xlt
      ports := d.ports } = d
    ∧ { t.xlt with holders := d.xlt.holders } = d.xlt
    ∧ (∀ n, n < 64 → getPort t n = getPort d n)
    ∧ ((∀ q, (getEvq d q).ring.space ≠ 1) → t.mem = d.mem ∧ t.poison = d.poison ∧ t.dies = d.dies))
end

