-- ==== Sys2Proof/Laws/Bits.lean ====
section
/-!
SUPPORT. Sys2Proof/Laws/Bits.lean: fields of a word depend on their own bits only.
-/
namespace Sys2Proof.Machine

/-- Two words that agree on the bits of a field have the same field. -/
theorem fld_congr {n m : Nat} {x : BitVec n} {y : BitVec m} {hi lo : Nat}
    (h : ∀ i, lo ≤ i → i ≤ hi → x.getLsbD i = y.getLsbD i) : fld x hi lo = fld y hi lo := by
  refine Nat.eq_of_testBit_eq fun i => ?_
  simp only [fld, bitsN, Nat.testBit_mod_two_pow, Nat.testBit_shiftRight]
  by_cases hi' : i < hi + 1 - lo
  · have := h (lo + i) (by omega) (by omega)
    simpa [hi', BitVec.getLsbD] using this
  · simp [hi']

/-- Setting bit 63 leaves every lower bit. -/
theorem getLsbD_or_top {v : BitVec 64} {i : Nat} (h : i < 63) : (v ||| ((1 : BitVec 64) <<< 63)).getLsbD i = v.getLsbD i := by
  have : decide (i < 63) = true := by simpa using h
  rw [BitVec.getLsbD_or, BitVec.getLsbD_shiftLeft, this]
  simp

/-- A field below bit 63 does not see that bit set. -/
theorem fld_or_top {v : BitVec 64} {hi lo : Nat} (h : hi < 63) : fld (v ||| ((1 : BitVec 64) <<< 63)) hi lo = fld v hi lo := by
  exact fld_congr fun i _ hi' => getLsbD_or_top (by omega)

/-- A bit below 63 does not see that bit set. -/
theorem bit_or_top {v : BitVec 64} {i : Nat} (h : i < 63) : bit (v ||| ((1 : BitVec 64) <<< 63)) i = bit v i := by
  exact getLsbD_or_top h

/-- A field is less than its width allows. -/
theorem fld_lt {n : Nat} (x : BitVec n) (hi lo : Nat) : fld x hi lo < 2 ^ (hi + 1 - lo) :=
  Nat.mod_lt _ (Nat.two_pow_pos _)

end Sys2Proof.Machine
end

