-- ==== Sys2Proof/Laws/Command.lean ====
section
/-!
SUPPORT. Sys2Proof/Laws/Command.lean: what the common frame of the commands does: when a command reaches its own rule, and what a
command leaves alone whatever its effect.
-/
namespace Sys2Proof.Machine

/-- A command that the common checks accept, with every field in range, acts by its own rule. -/
theorem command_of_accepts {op : Nat} {h : Cmd} {sl : Bool} {d : Dev} (body : CmdInfo → Dev → Dev)
    (ha : accepts d op h sl = true) : command op h sl none body d = body (cmdRow op) d := by
  simp only [accepts, Bool.and_eq_true, Bool.not_eq_true'] at ha
  obtain ⟨⟨⟨⟨⟨⟨⟨⟨h1, h2⟩, h3⟩, h4⟩, h5⟩, h6⟩, h7⟩, h8⟩, h9⟩ := ha
  have h7' : h.rsvd = none := by simpa using h7
  simp only [command, h1, h2, h3, h4, h5, h6, h7', minOff, h8, h9]
  simp

/-- The same, where the list of fields in range is given as such. -/
theorem command_of_good {op : Nat} {h : Cmd} {sl : Bool} {d : Dev} {bad : Option Nat} (body : CmdInfo → Dev → Dev)
    (ha : accepts d op h sl = true) (hb : bad = none) : command op h sl bad body d = body (cmdRow op) d := by
  rw [hb, command_of_accepts body ha]

/-- Before the reset sequence has ended a command changes nothing. -/
theorem command_of_not_ready {op : Nat} {h : Cmd} {sl : Bool} {bad : Option Nat} {d : Dev} (body : CmdInfo → Dev → Dev)
    (hr : d.ready = false) : command op h sl bad body d = d := by
  simp [command, hr]

/-- A command of the running adapter answers with its effect. -/
theorem run_of_alive {f : Dev → Dev} {s : State} (ha : alive s.ao = true) : run f s = after s (f s.dev) := by
  simp [run, after, ha]

/-- While every domain but AO is held a command changes nothing. -/
theorem run_of_held {f : Dev → Dev} {s : State} (ha : alive s.ao = false) : run f s = .next s := by
  simp [run, ha]

theorem runLevels_of_alive {f : Dev → Dev} {s : State} (ha : alive s.ao = true) :
    runLevels f s = after s (settleAll (f s.dev)) := run_of_alive ha

theorem runRetire_of_alive {f : Dev → Dev} {s : State} (ha : alive s.ao = true) :
    runRetire f s = after s (settleAll (startTriggered (f s.dev))) :=
  run_of_alive (f := fun d => settleAll (startTriggered (f d))) ha

/-- Whatever its effect on the adapter, a command answers a next state with the same queue and always-on domain. -/
theorem run_next (f : Dev → Dev) (s : State) : ∃ d, run f s = .next { s with dev := d } := ⟨_, rfl⟩

/-- The same of a command that may retire messages. -/
theorem runRetire_eq_run (f : Dev → Dev) (s : State) : runRetire f s = run (fun d => settleAll (startTriggered (f d))) s := rfl

/-- A command on a queue pair of its own slice reaches the pair. -/
theorem onQp_of_own {c : CmdInfo} {h : Cmd} {qpn : Nat} {q : Qp} {d : Dev} (body : Qp → Dev → Dev)
    (hq : getQp d qpn = some q) (hs : q.slice = h.slice) : onQp c h qpn body d = body q d := by
  simp [onQp, hq, hs]

/-- A command on a completion queue of its own slice reaches the queue. -/
theorem onCq_of_own {c : CmdInfo} {h : Cmd} {cqn : Nat} {x : Cq} {d : Dev} (body : Cq → Dev → Dev)
    (hq : tget d.cqs cqn = some x) (hs : x.slice = h.slice) : onCq c h cqn body d = body x d := by
  simp [onCq, hq, hs]

/-- A timer that runs acts at its moment. -/
theorem atExpiry_some (t : Nat) (f : Dev → Dev) (d : Dev) : atExpiry (some t) f d = f (advanceTo t d) := rfl

/-- A timer that does not run does not act. -/
theorem atExpiry_none (f : Dev → Dev) (d : Dev) : atExpiry none f d = d := rfl

end Sys2Proof.Machine
end

