-- ==== Sys2Proof/Laws/Tables.lean ====
section
/-!
SUPPORT. Sys2Proof/Laws/Tables.lean: reads after writes in tables and in the memory of the stacks, and that every operation on them keeps
the canonical form.
-/
namespace Sys2Proof.Machine

variable {α : Type}

/-! ## Reads after writes in a table -/

@[simp] theorem tget_tset_self (t : Tbl α) (k : Nat) (v : α) : tget (tset t k v) k = some v := by
  induction t with
  | nil => simp [tset, tget]
  | cons p r ih =>
    obtain ⟨i, w⟩ := p
    simp only [tset]
    split
    · simp [tget]
    · split
      · simp [tget]
      · rename_i h1 h2
        have : i ≠ k := fun h => h2 h.symm
        simp [tget, this, ih]

theorem tget_tset_ne (t : Tbl α) {k j : Nat} (v : α) (h : j ≠ k) : tget (tset t k v) j = tget t j := by
  induction t with
  | nil => simp [tset, tget, Ne.symm h]
  | cons p r ih =>
    obtain ⟨i, w⟩ := p
    simp only [tset]
    split
    · simp [tget, Ne.symm h]
    · split
      · rename_i h1 h2
        simp [tget, Ne.symm h, show i ≠ j from fun hh => h (hh.symm.trans h2.symm)]
      · simp [tget, ih]

@[simp] theorem tget_tdel_self (t : Tbl α) (k : Nat) : tget (tdel t k) k = none := by
  induction t with
  | nil => rfl
  | cons p r ih =>
    obtain ⟨i, w⟩ := p
    simp only [tdel]
    split
    · exact ih
    · rename_i h; simp [tget, h, ih]

theorem tget_tdel_ne (t : Tbl α) {k j : Nat} (h : j ≠ k) : tget (tdel t k) j = tget t j := by
  induction t with
  | nil => rfl
  | cons p r ih =>
    obtain ⟨i, w⟩ := p
    simp only [tdel]
    split
    · rename_i hi
      simp [tget, ih, show i ≠ j from fun hh => h (hh.symm.trans hi)]
    · simp [tget, ih]

@[simp] theorem tdel_tset (t : Tbl α) (k : Nat) (v : α) : tdel (tset t k v) k = tdel t k := by
  induction t with
  | nil => simp [tset, tdel]
  | cons p r ih =>
    obtain ⟨i, w⟩ := p
    simp only [tset]
    split
    · simp [tdel]
    · split
      · rename_i h1 h2; simp [tdel, h2]
      · rename_i h1 h2; simp [tdel, ih]

@[simp] theorem tgetD_tset_self (t : Tbl α) (k : Nat) (v d : α) : tgetD (tset t k v) k d = v := by simp [tgetD]

theorem tgetD_tset_ne (t : Tbl α) {k j : Nat} (v d : α) (h : j ≠ k) : tgetD (tset t k v) j d = tgetD t j d := by
  simp [tgetD, tget_tset_ne t v h]

@[simp] theorem tgetD_tdel_self (t : Tbl α) (k : Nat) (d : α) : tgetD (tdel t k) k d = d := by simp [tgetD]

theorem tgetD_tdel_ne (t : Tbl α) {k j : Nat} (d : α) (h : j ≠ k) : tgetD (tdel t k) j d = tgetD t j d := by
  simp [tgetD, tget_tdel_ne t h]

/-! ## The canonical form of a table -/

/-- Every key of a table is above a bound. -/
def above (k : Nat) (t : Tbl α) : Prop := ∀ p ∈ t, k < p.1

theorem twf_cons (i : Nat) (v : α) (r : Tbl α) : twf ((i, v) :: r) = true ↔ above i r ∧ twf r = true := by
  induction r generalizing i v with
  | nil => simp [twf, above]
  | cons p r ih =>
    obtain ⟨j, w⟩ := p
    simp only [twf, Bool.and_eq_true, decide_eq_true_eq]
    constructor
    · rintro ⟨hij, hr⟩
      refine ⟨?_, hr⟩
      rintro q (_ | ⟨_, hq⟩)
      · exact hij
      · exact Nat.lt_trans hij ((ih j w).mp hr |>.1 q hq)
    · rintro ⟨ha, hr⟩
      exact ⟨ha (j, w) (by simp), hr⟩

theorem above_tset {k i : Nat} {v : α} {t : Tbl α} (h : above i t) (hk : i < k) : above i (tset t k v) := by
  induction t with
  | nil => rintro q (_ | ⟨_, hq⟩); exact hk; cases hq
  | cons p r ih =>
    obtain ⟨j, w⟩ := p
    have hr : above i r := fun q hq => h q (by simp [hq])
    have hj : i < j := h (j, w) (by simp)
    simp only [tset]
    split
    · rintro q (_ | ⟨_, hq⟩); exact hk; exact h q hq
    · split
      · rintro q (_ | ⟨_, hq⟩); exact hk; exact hr q hq
      · rintro q (_ | ⟨_, hq⟩); exact hj; exact ih hr q hq

theorem twf_tset {k : Nat} {v : α} {t : Tbl α} (h : twf t = true) : twf (tset t k v) = true := by
  induction t with
  | nil => rfl
  | cons p r ih =>
    obtain ⟨j, w⟩ := p
    obtain ⟨ha, hr⟩ := (twf_cons j w r).mp h
    simp only [tset]
    split
    · rename_i hk
      refine (twf_cons _ _ _).mpr ⟨?_, h⟩
      rintro q (_ | ⟨_, hq⟩); exact hk; exact Nat.lt_trans hk (ha q hq)
    · split
      · rename_i h1 h2; subst h2; exact (twf_cons _ _ _).mpr ⟨ha, hr⟩
      · rename_i h1 h2
        exact (twf_cons _ _ _).mpr ⟨above_tset ha (by omega), ih hr⟩

theorem twf_filter {t : Tbl α} (f : Nat × α → Bool) (h : twf t = true) : twf (t.filter f) = true := by
  induction t with
  | nil => rfl
  | cons p r ih =>
    obtain ⟨j, w⟩ := p
    obtain ⟨ha, hr⟩ := (twf_cons j w r).mp h
    simp only [List.filter_cons]
    split
    · exact (twf_cons _ _ _).mpr ⟨fun q hq => ha q (List.mem_filter.mp hq).1, ih hr⟩
    · exact ih hr

theorem tdel_eq_filter (t : Tbl α) (k : Nat) : tdel t k = t.filter fun p => p.1 != k := by
  induction t with
  | nil => rfl
  | cons p r ih =>
    obtain ⟨j, w⟩ := p
    by_cases h : j = k <;> simp [tdel, h, ih]

theorem twf_tdel {k : Nat} {t : Tbl α} (h : twf t = true) : twf (tdel t k) = true := by
  rw [tdel_eq_filter]; exact twf_filter _ h

theorem twf_tmap {t : Tbl α} (f : Nat → α → α) (h : twf t = true) : twf (tmap t f) = true := by
  induction t with
  | nil => rfl
  | cons p r ih =>
    obtain ⟨j, w⟩ := p
    obtain ⟨ha, hr⟩ := (twf_cons j w r).mp h
    simp only [tmap, List.map_cons]
    refine (twf_cons _ _ _).mpr ⟨?_, ih hr⟩
    intro q hq
    obtain ⟨x, hx, rfl⟩ := List.mem_map.mp hq
    exact ha x hx

theorem twf_tfilter {t : Tbl α} (f : Nat → α → Bool) (h : twf t = true) : twf (tfilter t f) = true := twf_filter _ h

/-! ## The memory of the stacks -/

@[simp] theorem memGet_memSet_self (m : List Host.Cell) (a : Nat) (b : Byte) : memGet (memSet m a b) a = b := by
  unfold memGet memSet
  split
  · rename_i h; subst h; exact tgetD_tdel_self (α := Byte) m a 0
  · exact tgetD_tset_self (α := Byte) m a b 0

theorem memGet_memSet_ne (m : List Host.Cell) {a x : Nat} (b : Byte) (h : x ≠ a) : memGet (memSet m a b) x = memGet m x := by
  unfold memGet memSet
  split
  · exact tgetD_tdel_ne (α := Byte) m 0 h
  · exact tgetD_tset_ne (α := Byte) m b 0 h

theorem memWf_iff (m : List Host.Cell) : Memory.wf m = true ↔ twf (α := Byte) m = true ∧ ∀ c ∈ m, c.2 ≠ 0 := by
  simp [Memory.wf]

theorem mem_tset {k : Nat} {v : α} {t : Tbl α} {p : Nat × α} (h : p ∈ tset t k v) : p = (k, v) ∨ p ∈ t := by
  induction t with
  | nil => simpa [tset] using h
  | cons q r ih =>
    obtain ⟨j, w⟩ := q
    simp only [tset] at h
    split at h
    · simpa using h
    · split at h
      · rcases List.mem_cons.mp h with h | h
        · exact .inl h
        · exact .inr (by simp [h])
      · rcases List.mem_cons.mp h with h | h
        · exact .inr (by simp [h])
        · rcases ih h with h | h
          · exact .inl h
          · exact .inr (by simp [h])

/-- A write of one byte keeps the canonical form. -/
theorem memSet_wf {m : List Host.Cell} (a : Nat) (b : Byte) (h : Memory.wf m = true) : Memory.wf (memSet m a b) = true := by
  obtain ⟨h1, h2⟩ := (memWf_iff m).mp h
  unfold memSet
  split
  · refine (memWf_iff _).mpr ⟨twf_tdel (α := Byte) h1, fun c hc => ?_⟩
    rw [tdel_eq_filter (α := Byte)] at hc
    exact h2 c (List.mem_filter.mp hc).1
  · rename_i hb
    refine (memWf_iff _).mpr ⟨twf_tset (α := Byte) h1, fun c hc => ?_⟩
    rcases mem_tset (α := Byte) hc with rfl | hc
    · exact hb
    · exact h2 c hc

/-- A write of bytes keeps the canonical form. -/
theorem memWrite_wf {m : List Host.Cell} (a : Nat) (bs : List Byte) (h : Memory.wf m = true) : Memory.wf (memWrite m a bs) = true := by
  induction bs generalizing m a with
  | nil => exact h
  | cons b r ih => exact ih (a + 1) (memSet_wf a b h)

/-- Zeroing a range keeps the canonical form. -/
theorem memZero_wf {m : List Host.Cell} (a n : Nat) (h : Memory.wf m = true) : Memory.wf (memZero m a n) = true := by
  obtain ⟨h1, h2⟩ := (memWf_iff m).mp h
  exact (memWf_iff _).mpr ⟨twf_filter (α := Byte) _ h1, fun c hc => h2 c (List.mem_filter.mp hc).1⟩

theorem memWf_nil : Memory.wf [] = true := rfl

end Sys2Proof.Machine
end

