-- ==== Sys2Proof/Laws/Frames.lean ====
section
/-!
SUPPORT. Sys2Proof/Laws/Frames.lean: what the shared operations behind a reply leave alone.
-/
namespace Sys2Proof.Machine

/-- The adapter with what a record's write and a reply may change set aside: the admin queues and their commands, counters, outputs, free values, the stacks'
bytes, the host and accelerator ports with the links of these (R372), and the holders of translations. -/
def frameOf (d : Dev) : Dev := { d with
  ports := d.ports.filter fun p => p.1 < 64
  started := [], timedOut := [], adminQ := [], waits := [], counters := [], out := []
  freeCtr := 0, mem := [], poison := [], dies := [], host := IoPort.reset, accs := [], xlt := { d.xlt with holders := [] } }

theorem frame_fold {α : Type} (f : Dev → α → Dev) (hf : ∀ d a, frameOf (f d a) = frameOf d) (l : List α) (d : Dev) : frameOf (l.foldl f d) = frameOf d := by
  induction l generalizing d with
  | nil => rfl
  | cons a r ih => rw [List.foldl_cons, ih, hf]

theorem frame_times (n : Nat) (f : Dev → Dev) (hf : ∀ d, frameOf (f d) = frameOf d) (d : Dev) : frameOf (times n f d) = frameOf d := by
  induction n generalizing d with
  | zero => rfl
  | succ n ih => rw [times, ih, hf]

/-- The end of a holder changes the holders alone. -/
theorem endHolder_frame (t : Option Nat) (d : Dev) : frameOf (endHolder t d) = frameOf d := by
  unfold endHolder; split <;> rfl

theorem setIo_frame (k : Nat) (x : IoPort) (d : Dev) : frameOf (setIo k x d) = frameOf d := by unfold setIo; split <;> rfl

theorem emit_frame (o : Out) (d : Dev) : frameOf (emit o d) = frameOf d := rfl

theorem setAq_frame (n : Nat) (x : AdminQ) (d : Dev) : frameOf (setAq n x d) = frameOf d := rfl

theorem filter_tset_above {α : Type} {k : Nat} (t : Tbl α) (v : α) (h : 64 ≤ k) :
    (tset t k v).filter (fun p => p.1 < 64) = t.filter fun p => p.1 < 64 := by
  induction t with
  | nil => simp [tset, h]
  | cons a r ih =>
    obtain ⟨i, w⟩ := a
    unfold tset
    have hk : ¬ k < 64 := by omega
    split
    · simp [hk]
    · split
      · subst i; simp [List.filter_cons, hk]
      · simp [List.filter_cons, ih]

/-- The link of an accelerator port. -/
theorem modPort_frame (n : Nat) (f : FPort → FPort) (d : Dev) (h : 64 ≤ n) : frameOf (modPort n f d) = frameOf d := by
  simp only [frameOf, modPort, setPort, filter_tset_above _ _ h]

theorem layFlits_frame (n k : Nat) (d : Dev) (h : 64 ≤ n) : frameOf (layFlits n k d) = frameOf d := by
  unfold layFlits; split
  · rfl
  · exact modPort_frame _ _ _ h

theorem layIdle_frame (n : Nat) (d : Dev) (h : 64 ≤ n) : frameOf (layIdle n d) = frameOf d := by
  unfold layIdle; simp only; split
  · rfl
  · rw [modPort_frame _ _ _ h, layFlits_frame _ _ _ h]

theorem sendStream_frame (n vc k : Nat) (d : Dev) (h : 64 ≤ n) : frameOf (sendStream n vc k d) = frameOf d := by
  unfold sendStream; simp only
  rw [modPort_frame _ _ _ h, layFlits_frame _ _ _ h, layIdle_frame _ _ h]

theorem issueWrite_frame (k : Nat) (w : LoggedWrite) (d : Dev) : frameOf (issueWrite k w d) = frameOf d := by
  unfold issueWrite zalLay; rw [emit_frame]; split
  · exact sendStream_frame _ _ _ _ (by omega)
  · rfl

theorem signal_frame (v : Nat) (d : Dev) : frameOf (signal v d) = frameOf d := by
  unfold signal; repeat' split
  all_goals rfl

/-- Writes that leave a port. -/
theorem pumpWrites_frame (k : Nat) (d : Dev) : frameOf (pumpWrites k d) = frameOf d := by
  unfold pumpWrites; apply frame_fold; intro d a; simp only; split
  · rw [endHolder_frame, issueWrite_frame, setIo_frame]
  · rfl

theorem markPoison_frame (l : List Nat) (d : Dev) : frameOf (markPoison l d) = frameOf d := by
  unfold markPoison; apply frame_fold; intro d a; split <;> rfl

/-- A write into the stacks. -/
theorem smemWrite_frame (a : Nat) (b : List Byte) (p : Bool) (d : Dev) : frameOf (smemWrite a b p d) = frameOf d := by
  unfold smemWrite; simp only; split
  · rw [markPoison_frame]; rfl
  · rfl

/-- A write of the adapter's changes the stacks' bytes or a port, and the holders. -/
theorem storeFor_frame (t) (sp a : Nat) (b) (p r) (sl) (q) (ps) (o) (d : Dev) : frameOf (storeFor t sp a b p r sl q ps o d) = frameOf d := by
  unfold storeFor; split
  · rw [endHolder_frame]
  · split
    · rw [endHolder_frame, smemWrite_frame]
    · simp only [portWrite, pumpWrites_frame, modIo, setIo_frame]

theorem bump_frame (c i : Nat) (d : Dev) : frameOf (bump c i d) = frameOf d := by unfold bump bumpBy; split <;> rfl

/-- A reply's write to its ring. -/
theorem writeReply_frame (n : Nat) (r : Reply) (d : Dev) : frameOf (writeReply n r d) = frameOf d := by
  unfold writeReply; simp only; split
  all_goals simp only [signal_frame, emit_frame, setAq_frame, storeRecord, store, storeFor_frame]

/-- A reply's record, wherever it ends up. -/
theorem putReply_frame (n : Nat) (r : Reply) (d : Dev) : frameOf (putReply n r d) = frameOf d := by
  unfold putReply; simp only; repeat' split
  · rfl
  · rw [bump_frame]; rfl
  · rw [writeReply_frame]; rfl
  · rfl

theorem closeQueue_frame (n : Nat) (d : Dev) : frameOf (closeQueue n d) = frameOf d := by unfold closeQueue; simp only; split <;> rfl

theorem endClosing_frame (w) (d : Dev) : frameOf (endClosing w d) = frameOf d := by
  unfold endClosing; split
  · split
    · rfl
    · rw [putReply_frame]; rfl
  · rfl

/-- Closing queues and the replies of their AQ_DESTROYs. -/
theorem closeQueues_frame (d : Dev) : frameOf (closeQueues d) = frameOf d := by
  unfold closeQueues; apply frame_times; intro d; simp only
  rw [frame_fold _ (fun d a => endClosing_frame a d), frame_fold _ (fun d a => closeQueue_frame _ d)]

theorem startOne_frame (n : Nat) (acc) (p) : frameOf (startOne n acc p).2 = frameOf acc.2 := by
  obtain ⟨⟨k, b⟩, d⟩ := acc
  unfold startOne; simp only; repeat' split
  all_goals first | rfl | (simp only [refuseRaw]; rw [putReply_frame])

theorem startFold_frame (n : Nat) (l : List (BitVec 512 × U32)) (acc : (List (BitVec 512 × U32) × Bool) × Dev) : frameOf (l.foldl (startOne n) acc).2 = frameOf acc.2 := by
  induction l generalizing acc with
  | nil => rfl
  | cons a r ih => rw [List.foldl_cons, ih, startOne_frame]

theorem startQueue_frame (n : Nat) (d : Dev) : frameOf (startQueue n d) = frameOf d := by
  unfold startQueue; simp only; split
  · rfl
  · exact startFold_frame _ _ _

/-- The start of waiting commands, and their refusals at the start. -/
theorem startAll_frame (d : Dev) : frameOf (startAll d) = frameOf d := by
  unfold startAll; apply frame_fold; intro d a; exact startQueue_frame _ _

end Sys2Proof.Machine
end

