-- ==== Sys2Proof/Laws/Lists.lean ====
section
/-!
SUPPORT. Sys2Proof/Laws/Lists.lean: reads of the stacks as lists, free choices, and lists that a filter or a fold leaves alike.
-/
namespace Sys2Proof.Machine

/-- A free choice among numbers one of which is allowed is an allowed number, and uses one free value. -/
theorem choose_some {bound : Nat} {ok : Nat → Bool} {d : Dev} (h : ∃ i, i < bound ∧ ok i = true) :
    ∃ i, i < bound ∧ ok i = true ∧ choose bound ok d = (some i, { d with freeCtr := d.freeCtr + 1 }) := by
  obtain ⟨i, hi, hok⟩ := h
  unfold choose
  by_cases hc : Config.choice d.freeCtr < bound ∧ ok (Config.choice d.freeCtr) = true
  · exact ⟨_, hc.1, hc.2, by simp [hc]⟩
  · cases hf : (List.range bound).find? ok with
    | none => exact absurd hok (by simpa using List.find?_eq_none.mp hf i (List.mem_range.mpr hi))
    | some j =>
      refine ⟨j, List.mem_range.mp (List.mem_of_find?_eq_some hf), List.find?_some hf, ?_⟩
      have : (decide (Config.choice d.freeCtr < bound) && ok (Config.choice d.freeCtr)) = false := by
        simpa [Bool.and_eq_false_iff] using fun h => Bool.eq_false_iff.mpr fun h2 => hc ⟨h, h2⟩
      simp [this]

/-- A read gives as many bytes as it asks for. -/
theorem memRead_length (m : List Host.Cell) (a n : Nat) : (memRead m a n).length = n := by
  induction n generalizing a with
  | zero => rfl
  | succ k ih => simp [memRead, ih]

/-- A read gives the byte at each address. -/
theorem memRead_eq_map (m : List Host.Cell) (a n : Nat) : memRead m a n = (List.range n).map fun i => memGet m (a + i) := by
  induction n generalizing a with
  | zero => rfl
  | succ k ih =>
    rw [memRead, ih, List.range_succ_eq_map]
    simp [Nat.add_assoc, Nat.add_comm 1]

theorem padTo_self (l : List Byte) : padTo l l.length = l := by simp [padTo]

theorem cmdRow_op (op : Nat) (h : (cmdInfo op).isSome = true) : (cmdRow op).op = op := by
  unfold cmdRow cmdInfo at *
  cases hf : (List.find? (fun c => c.op == op) (cmdTable1 ++ cmdTable2 ++ cmdTable3 ++ cmdTable4)) with
  | none => rw [hf] at h; simp at h
  | some c => have := List.find?_some hf; simpa using this

/-- A filter that keeps every element the search accepts leaves its result. -/
theorem find_filter_keep {α : Type} (p q : α → Bool) (l : List α) (h : ∀ x, p x = true → q x = true) :
    (l.filter q).find? p = l.find? p := by
  induction l with
  | nil => rfl
  | cons a r ih =>
    by_cases ha : q a = true
    · simp [ha, List.find?_cons, ih]
    · have : p a = false := by
        cases hp : p a with
        | false => rfl
        | true => exact absurd (h a hp) ha
      simp [ha, this, ih]

theorem any_filter_keep {α : Type} (p q : α → Bool) (l : List α) (h : ∀ x, p x = true → q x = true) :
    (l.filter q).any p = l.any p := by
  induction l with
  | nil => rfl
  | cons a r ih =>
    by_cases ha : q a = true
    · simp [ha, ih]
    · have : p a = false := by
        cases hp : p a with
        | false => rfl
        | true => exact absurd (h a hp) ha
      simp [ha, this, ih]

/-- What one step keeps a fold keeps. -/
theorem foldl_keep {α β : Type} {P : β → β → Prop} (hr : ∀ x, P x x) (ht : ∀ x y z, P x y → P y z → P x z)
    (f : β → α → β) (hf : ∀ x a, P x (f x a)) (l : List α) : ∀ x, P x (l.foldl f x) := by
  induction l with
  | nil => exact hr
  | cons a r ih => intro x; exact ht _ _ _ (hf x a) (ih _)

end Sys2Proof.Machine
end

