-- ==== Sys2Proof/Laws/Rings.lean ====
section
/-!
SUPPORT. Sys2Proof/Laws/Rings.lean: indices of rings: R40's reading of an index, and the order of sequence numbers; and a
write of one byte to a push page.
-/
namespace Sys2Proof.Machine

theorem checkIndex_same {t old base : U32} {room : Nat} (h : (t - old).toNat = 0) : checkIndex t old base room = .same := by
  have h' : Machine.dist t old = 0 := h
  simp only [checkIndex, h', if_true]

theorem checkIndex_stale {t old base : U32} {room : Nat} (h : 2 ^ 31 ≤ (t - old).toNat) : checkIndex t old base room = .stale := by
  have h' : 2 ^ 31 ≤ Machine.dist t old := h
  have h0 : Machine.dist t old ≠ 0 := by omega
  simp only [checkIndex, if_neg h0, if_pos h']

theorem checkIndex_tooFar {t old base : U32} {room : Nat} (h0 : (t - old).toNat ≠ 0) (h1 : (t - old).toNat < 2 ^ 31)
    (h2 : room < (t - base).toNat) : checkIndex t old base room = .tooFar := by
  have h0' : Machine.dist t old ≠ 0 := h0
  have h1' : ¬ 2 ^ 31 ≤ Machine.dist t old := Nat.not_le.mpr h1
  have h2' : room < Machine.dist t base := h2
  simp only [checkIndex, if_neg h0', if_neg h1', if_pos h2']

theorem checkIndex_forward {t old base : U32} {room : Nat} (h0 : (t - old).toNat ≠ 0) (h1 : (t - old).toNat < 2 ^ 31)
    (h2 : (t - base).toNat ≤ room) : checkIndex t old base room = .forward := by
  have h0' : Machine.dist t old ≠ 0 := h0
  have h1' : ¬ 2 ^ 31 ≤ Machine.dist t old := Nat.not_le.mpr h1
  have h2' : ¬ room < Machine.dist t base := Nat.not_lt.mpr h2
  simp only [checkIndex, if_neg h0', if_neg h1', if_neg h2']

/-- `a` lies before `b` in sequence where they differ and the way forward from `a` to `b` is shorter than half the circle. -/
theorem seqLt_iff (a b : U32) : seqLt a b = true ↔ a ≠ b ∧ (b - a).toNat < 2 ^ 31 := by
  have hd : Machine.dist b a = (b - a).toNat := rfl
  simp only [seqLt, seqLe, Bool.and_eq_true, decide_eq_true_eq, hd]

theorem seqLt_false_iff (a b : U32) : seqLt a b = false ↔ ¬(a ≠ b ∧ (b - a).toNat < 2 ^ 31) := by
  rw [← seqLt_iff, Bool.not_eq_true]

/-- One byte written to a push page by its place in the aperture is a write of that page. -/
theorem apertureWrite_byte {port slice page off : Nat} (b : Byte) (d : Dev) (hs : slice < 512) (h1 : 1 ≤ page) (h2 : page ≤ 15)
    (h3 : off < 4096) : apertureWrite port 3 (pageOffset slice page off) [b] d = pushWrite port slice page off [b] d := by
  have e1 : (pageOffset slice page off) / 0x10000 = slice := by simp only [pageOffset]; omega
  have e2 : (pageOffset slice page off) / 0x1000 % 16 = page := by simp only [pageOffset]; omega
  have e3 : (pageOffset slice page off) % 0x1000 = off := by simp only [pageOffset]; omega
  obtain ⟨n, hn⟩ : ∃ n, 0x1000 - off = n + 1 := ⟨0xFFF - off, by omega⟩
  simp only [apertureWrite, apertureWrite1, e1, e2, e3, hn, List.isEmpty_cons, Bool.false_eq_true, if_false, List.take_succ_cons,
    List.drop_succ_cons, List.take_nil, List.drop_nil, List.isEmpty_nil, if_true]
  rw [if_neg (by omega), if_neg (by omega)]

end Sys2Proof.Machine
end

