-- ==== Sys2Proof/Laws/State.lean ====
section
/-!
SUPPORT. Sys2Proof/Laws/State.lean: one lemma for each update of the adapter and each field: the field that it writes, and every
other one as before.
-/
namespace Sys2Proof.Machine

/-! ## emit -/

@[simp] theorem emit_now (o : Out) (s : Dev) : (emit o s).now = s.now := rfl
@[simp] theorem emit_ready (o : Out) (s : Dev) : (emit o s).ready = s.ready := rfl
@[simp] theorem emit_dataStopped (o : Out) (s : Dev) : (emit o s).dataStopped = s.dataStopped := rfl
@[simp] theorem emit_routeHa (o : Out) (s : Dev) : (emit o s).routeHa = s.routeHa := rfl
@[simp] theorem emit_evtHa (o : Out) (s : Dev) : (emit o s).evtHa = s.evtHa := rfl
@[simp] theorem emit_grade (o : Out) (s : Dev) : (emit o s).grade = s.grade := rfl
@[simp] theorem emit_cfgVer (o : Out) (s : Dev) : (emit o s).cfgVer = s.cfgVer := rfl
@[simp] theorem emit_cores (o : Out) (s : Dev) : (emit o s).cores = s.cores := rfl
@[simp] theorem emit_coreHungAt (o : Out) (s : Dev) : (emit o s).coreHungAt = s.coreHungAt := rfl
@[simp] theorem emit_coreTimeouts (o : Out) (s : Dev) : (emit o s).coreTimeouts = s.coreTimeouts := rfl
@[simp] theorem emit_triage (o : Out) (s : Dev) : (emit o s).triage = s.triage := rfl
@[simp] theorem emit_mem (o : Out) (s : Dev) : (emit o s).mem = s.mem := rfl
@[simp] theorem emit_poison (o : Out) (s : Dev) : (emit o s).poison = s.poison := rfl
@[simp] theorem emit_out (o : Out) (s : Dev) : (emit o s).out = s.out ++ [o] := rfl
@[simp] theorem emit_freeCtr (o : Out) (s : Dev) : (emit o s).freeCtr = s.freeCtr := rfl
@[simp] theorem emit_timedOut (o : Out) (s : Dev) : (emit o s).timedOut = s.timedOut := rfl
@[simp] theorem emit_counters (o : Out) (s : Dev) : (emit o s).counters = s.counters := rfl
@[simp] theorem emit_slices (o : Out) (s : Dev) : (emit o s).slices = s.slices := rfl
@[simp] theorem emit_pushPages (o : Out) (s : Dev) : (emit o s).pushPages = s.pushPages := rfl
@[simp] theorem emit_qps (o : Out) (s : Dev) : (emit o s).qps = s.qps := rfl
@[simp] theorem emit_gens (o : Out) (s : Dev) : (emit o s).gens = s.gens := rfl
@[simp] theorem emit_qpFreed (o : Out) (s : Dev) : (emit o s).qpFreed = s.qpFreed := rfl
@[simp] theorem emit_cqs (o : Out) (s : Dev) : (emit o s).cqs = s.cqs := rfl
@[simp] theorem emit_windows (o : Out) (s : Dev) : (emit o s).windows = s.windows := rfl
@[simp] theorem emit_xlt (o : Out) (s : Dev) : (emit o s).xlt = s.xlt := rfl
@[simp] theorem emit_miss (o : Out) (s : Dev) : (emit o s).miss = s.miss := rfl
@[simp] theorem emit_programs (o : Out) (s : Dev) : (emit o s).programs = s.programs := rfl
@[simp] theorem emit_items (o : Out) (s : Dev) : (emit o s).items = s.items := rfl
@[simp] theorem emit_locks (o : Out) (s : Dev) : (emit o s).locks = s.locks := rfl
@[simp] theorem emit_lockQ (o : Out) (s : Dev) : (emit o s).lockQ = s.lockQ := rfl
@[simp] theorem emit_accums (o : Out) (s : Dev) : (emit o s).accums = s.accums := rfl
@[simp] theorem emit_engines (o : Out) (s : Dev) : (emit o s).engines = s.engines := rfl
@[simp] theorem emit_groups (o : Out) (s : Dev) : (emit o s).groups = s.groups := rfl
@[simp] theorem emit_streams (o : Out) (s : Dev) : (emit o s).streams = s.streams := rfl
@[simp] theorem emit_seqMsgs (o : Out) (s : Dev) : (emit o s).seqMsgs = s.seqMsgs := rfl
@[simp] theorem emit_triggers (o : Out) (s : Dev) : (emit o s).triggers = s.triggers := rfl
@[simp] theorem emit_fabRegs (o : Out) (s : Dev) : (emit o s).fabRegs = s.fabRegs := rfl
@[simp] theorem emit_ports (o : Out) (s : Dev) : (emit o s).ports = s.ports := rfl
@[simp] theorem emit_routing (o : Out) (s : Dev) : (emit o s).routing = s.routing := rfl
@[simp] theorem emit_escWaiting (o : Out) (s : Dev) : (emit o s).escWaiting = s.escWaiting := rfl
@[simp] theorem emit_shapers (o : Out) (s : Dev) : (emit o s).shapers = s.shapers := rfl
@[simp] theorem emit_profiles (o : Out) (s : Dev) : (emit o s).profiles = s.profiles := rfl
@[simp] theorem emit_ceThresh (o : Out) (s : Dev) : (emit o s).ceThresh = s.ceThresh := rfl
@[simp] theorem emit_rtoBase (o : Out) (s : Dev) : (emit o s).rtoBase = s.rtoBase := rfl
@[simp] theorem emit_stamps (o : Out) (s : Dev) : (emit o s).stamps = s.stamps := rfl
@[simp] theorem emit_monitors (o : Out) (s : Dev) : (emit o s).monitors = s.monitors := rfl
@[simp] theorem emit_lastSample (o : Out) (s : Dev) : (emit o s).lastSample = s.lastSample := rfl
@[simp] theorem emit_watermarks (o : Out) (s : Dev) : (emit o s).watermarks = s.watermarks := rfl
@[simp] theorem emit_time (o : Out) (s : Dev) : (emit o s).time = s.time := rfl
@[simp] theorem emit_host (o : Out) (s : Dev) : (emit o s).host = s.host := rfl
@[simp] theorem emit_pasidEn (o : Out) (s : Dev) : (emit o s).pasidEn = s.pasidEn := rfl
@[simp] theorem emit_winTarget (o : Out) (s : Dev) : (emit o s).winTarget = s.winTarget := rfl
@[simp] theorem emit_winBase (o : Out) (s : Dev) : (emit o s).winBase = s.winBase := rfl
@[simp] theorem emit_accs (o : Out) (s : Dev) : (emit o s).accs = s.accs := rfl
@[simp] theorem emit_portReads (o : Out) (s : Dev) : (emit o s).portReads = s.portReads := rfl
@[simp] theorem emit_readNo (o : Out) (s : Dev) : (emit o s).readNo = s.readNo := rfl
@[simp] theorem emit_postNo (o : Out) (s : Dev) : (emit o s).postNo = s.postNo := rfl
@[simp] theorem emit_staleReads (o : Out) (s : Dev) : (emit o s).staleReads = s.staleReads := rfl
@[simp] theorem emit_barReads (o : Out) (s : Dev) : (emit o s).barReads = s.barReads := rfl
@[simp] theorem emit_adminQ (o : Out) (s : Dev) : (emit o s).adminQ = s.adminQ := rfl
@[simp] theorem emit_started (o : Out) (s : Dev) : (emit o s).started = s.started := rfl
@[simp] theorem emit_waits (o : Out) (s : Dev) : (emit o s).waits = s.waits := rfl
@[simp] theorem emit_eventQ (o : Out) (s : Dev) : (emit o s).eventQ = s.eventQ := rfl
@[simp] theorem emit_keySlots (o : Out) (s : Dev) : (emit o s).keySlots = s.keySlots := rfl
@[simp] theorem emit_keySerials (o : Out) (s : Dev) : (emit o s).keySerials = s.keySerials := rfl
@[simp] theorem emit_sec (o : Out) (s : Dev) : (emit o s).sec = s.sec := rfl
@[simp] theorem emit_errBanks (o : Out) (s : Dev) : (emit o s).errBanks = s.errBanks := rfl
@[simp] theorem emit_dies (o : Out) (s : Dev) : (emit o s).dies = s.dies := rfl
@[simp] theorem emit_zeroing (o : Out) (s : Dev) : (emit o s).zeroing = s.zeroing := rfl
@[simp] theorem emit_scrubHours (o : Out) (s : Dev) : (emit o s).scrubHours = s.scrubHours := rfl
@[simp] theorem emit_rowThresh (o : Out) (s : Dev) : (emit o s).rowThresh = s.rowThresh := rfl
@[simp] theorem emit_rowCounts (o : Out) (s : Dev) : (emit o s).rowCounts = s.rowCounts := rfl
@[simp] theorem emit_scrubSince (o : Out) (s : Dev) : (emit o s).scrubSince = s.scrubSince := rfl
@[simp] theorem emit_power (o : Out) (s : Dev) : (emit o s).power = s.power := rfl
@[simp] theorem emit_wakes (o : Out) (s : Dev) : (emit o s).wakes = s.wakes := rfl
@[simp] theorem emit_transitReset (o : Out) (s : Dev) : (emit o s).transitReset = s.transitReset := rfl
@[simp] theorem emit_refLost (o : Out) (s : Dev) : (emit o s).refLost = s.refLost := rfl

/-! ## setSlice -/

@[simp] theorem setSlice_now (k : Nat) (x : Slice) (s : Dev) : (setSlice k x s).now = s.now := rfl
@[simp] theorem setSlice_ready (k : Nat) (x : Slice) (s : Dev) : (setSlice k x s).ready = s.ready := rfl
@[simp] theorem setSlice_dataStopped (k : Nat) (x : Slice) (s : Dev) : (setSlice k x s).dataStopped = s.dataStopped := rfl
@[simp] theorem setSlice_routeHa (k : Nat) (x : Slice) (s : Dev) : (setSlice k x s).routeHa = s.routeHa := rfl
@[simp] theorem setSlice_evtHa (k : Nat) (x : Slice) (s : Dev) : (setSlice k x s).evtHa = s.evtHa := rfl
@[simp] theorem setSlice_grade (k : Nat) (x : Slice) (s : Dev) : (setSlice k x s).grade = s.grade := rfl
@[simp] theorem setSlice_cfgVer (k : Nat) (x : Slice) (s : Dev) : (setSlice k x s).cfgVer = s.cfgVer := rfl
@[simp] theorem setSlice_cores (k : Nat) (x : Slice) (s : Dev) : (setSlice k x s).cores = s.cores := rfl
@[simp] theorem setSlice_coreHungAt (k : Nat) (x : Slice) (s : Dev) : (setSlice k x s).coreHungAt = s.coreHungAt := rfl
@[simp] theorem setSlice_coreTimeouts (k : Nat) (x : Slice) (s : Dev) : (setSlice k x s).coreTimeouts = s.coreTimeouts := rfl
@[simp] theorem setSlice_triage (k : Nat) (x : Slice) (s : Dev) : (setSlice k x s).triage = s.triage := rfl
@[simp] theorem setSlice_mem (k : Nat) (x : Slice) (s : Dev) : (setSlice k x s).mem = s.mem := rfl
@[simp] theorem setSlice_poison (k : Nat) (x : Slice) (s : Dev) : (setSlice k x s).poison = s.poison := rfl
@[simp] theorem setSlice_out (k : Nat) (x : Slice) (s : Dev) : (setSlice k x s).out = s.out := rfl
@[simp] theorem setSlice_freeCtr (k : Nat) (x : Slice) (s : Dev) : (setSlice k x s).freeCtr = s.freeCtr := rfl
@[simp] theorem setSlice_timedOut (k : Nat) (x : Slice) (s : Dev) : (setSlice k x s).timedOut = s.timedOut := rfl
@[simp] theorem setSlice_counters (k : Nat) (x : Slice) (s : Dev) : (setSlice k x s).counters = s.counters := rfl
@[simp] theorem setSlice_slices (k : Nat) (x : Slice) (s : Dev) : (setSlice k x s).slices = tset s.slices k x := rfl
@[simp] theorem setSlice_pushPages (k : Nat) (x : Slice) (s : Dev) : (setSlice k x s).pushPages = s.pushPages := rfl
@[simp] theorem setSlice_qps (k : Nat) (x : Slice) (s : Dev) : (setSlice k x s).qps = s.qps := rfl
@[simp] theorem setSlice_gens (k : Nat) (x : Slice) (s : Dev) : (setSlice k x s).gens = s.gens := rfl
@[simp] theorem setSlice_qpFreed (k : Nat) (x : Slice) (s : Dev) : (setSlice k x s).qpFreed = s.qpFreed := rfl
@[simp] theorem setSlice_cqs (k : Nat) (x : Slice) (s : Dev) : (setSlice k x s).cqs = s.cqs := rfl
@[simp] theorem setSlice_windows (k : Nat) (x : Slice) (s : Dev) : (setSlice k x s).windows = s.windows := rfl
@[simp] theorem setSlice_xlt (k : Nat) (x : Slice) (s : Dev) : (setSlice k x s).xlt = s.xlt := rfl
@[simp] theorem setSlice_miss (k : Nat) (x : Slice) (s : Dev) : (setSlice k x s).miss = s.miss := rfl
@[simp] theorem setSlice_programs (k : Nat) (x : Slice) (s : Dev) : (setSlice k x s).programs = s.programs := rfl
@[simp] theorem setSlice_items (k : Nat) (x : Slice) (s : Dev) : (setSlice k x s).items = s.items := rfl
@[simp] theorem setSlice_locks (k : Nat) (x : Slice) (s : Dev) : (setSlice k x s).locks = s.locks := rfl
@[simp] theorem setSlice_lockQ (k : Nat) (x : Slice) (s : Dev) : (setSlice k x s).lockQ = s.lockQ := rfl
@[simp] theorem setSlice_accums (k : Nat) (x : Slice) (s : Dev) : (setSlice k x s).accums = s.accums := rfl
@[simp] theorem setSlice_engines (k : Nat) (x : Slice) (s : Dev) : (setSlice k x s).engines = s.engines := rfl
@[simp] theorem setSlice_groups (k : Nat) (x : Slice) (s : Dev) : (setSlice k x s).groups = s.groups := rfl
@[simp] theorem setSlice_streams (k : Nat) (x : Slice) (s : Dev) : (setSlice k x s).streams = s.streams := rfl
@[simp] theorem setSlice_seqMsgs (k : Nat) (x : Slice) (s : Dev) : (setSlice k x s).seqMsgs = s.seqMsgs := rfl
@[simp] theorem setSlice_triggers (k : Nat) (x : Slice) (s : Dev) : (setSlice k x s).triggers = s.triggers := rfl
@[simp] theorem setSlice_fabRegs (k : Nat) (x : Slice) (s : Dev) : (setSlice k x s).fabRegs = s.fabRegs := rfl
@[simp] theorem setSlice_ports (k : Nat) (x : Slice) (s : Dev) : (setSlice k x s).ports = s.ports := rfl
@[simp] theorem setSlice_routing (k : Nat) (x : Slice) (s : Dev) : (setSlice k x s).routing = s.routing := rfl
@[simp] theorem setSlice_escWaiting (k : Nat) (x : Slice) (s : Dev) : (setSlice k x s).escWaiting = s.escWaiting := rfl
@[simp] theorem setSlice_shapers (k : Nat) (x : Slice) (s : Dev) : (setSlice k x s).shapers = s.shapers := rfl
@[simp] theorem setSlice_profiles (k : Nat) (x : Slice) (s : Dev) : (setSlice k x s).profiles = s.profiles := rfl
@[simp] theorem setSlice_ceThresh (k : Nat) (x : Slice) (s : Dev) : (setSlice k x s).ceThresh = s.ceThresh := rfl
@[simp] theorem setSlice_rtoBase (k : Nat) (x : Slice) (s : Dev) : (setSlice k x s).rtoBase = s.rtoBase := rfl
@[simp] theorem setSlice_stamps (k : Nat) (x : Slice) (s : Dev) : (setSlice k x s).stamps = s.stamps := rfl
@[simp] theorem setSlice_monitors (k : Nat) (x : Slice) (s : Dev) : (setSlice k x s).monitors = s.monitors := rfl
@[simp] theorem setSlice_lastSample (k : Nat) (x : Slice) (s : Dev) : (setSlice k x s).lastSample = s.lastSample := rfl
@[simp] theorem setSlice_watermarks (k : Nat) (x : Slice) (s : Dev) : (setSlice k x s).watermarks = s.watermarks := rfl
@[simp] theorem setSlice_time (k : Nat) (x : Slice) (s : Dev) : (setSlice k x s).time = s.time := rfl
@[simp] theorem setSlice_host (k : Nat) (x : Slice) (s : Dev) : (setSlice k x s).host = s.host := rfl
@[simp] theorem setSlice_pasidEn (k : Nat) (x : Slice) (s : Dev) : (setSlice k x s).pasidEn = s.pasidEn := rfl
@[simp] theorem setSlice_winTarget (k : Nat) (x : Slice) (s : Dev) : (setSlice k x s).winTarget = s.winTarget := rfl
@[simp] theorem setSlice_winBase (k : Nat) (x : Slice) (s : Dev) : (setSlice k x s).winBase = s.winBase := rfl
@[simp] theorem setSlice_accs (k : Nat) (x : Slice) (s : Dev) : (setSlice k x s).accs = s.accs := rfl
@[simp] theorem setSlice_portReads (k : Nat) (x : Slice) (s : Dev) : (setSlice k x s).portReads = s.portReads := rfl
@[simp] theorem setSlice_readNo (k : Nat) (x : Slice) (s : Dev) : (setSlice k x s).readNo = s.readNo := rfl
@[simp] theorem setSlice_postNo (k : Nat) (x : Slice) (s : Dev) : (setSlice k x s).postNo = s.postNo := rfl
@[simp] theorem setSlice_staleReads (k : Nat) (x : Slice) (s : Dev) : (setSlice k x s).staleReads = s.staleReads := rfl
@[simp] theorem setSlice_barReads (k : Nat) (x : Slice) (s : Dev) : (setSlice k x s).barReads = s.barReads := rfl
@[simp] theorem setSlice_adminQ (k : Nat) (x : Slice) (s : Dev) : (setSlice k x s).adminQ = s.adminQ := rfl
@[simp] theorem setSlice_started (k : Nat) (x : Slice) (s : Dev) : (setSlice k x s).started = s.started := rfl
@[simp] theorem setSlice_waits (k : Nat) (x : Slice) (s : Dev) : (setSlice k x s).waits = s.waits := rfl
@[simp] theorem setSlice_eventQ (k : Nat) (x : Slice) (s : Dev) : (setSlice k x s).eventQ = s.eventQ := rfl
@[simp] theorem setSlice_keySlots (k : Nat) (x : Slice) (s : Dev) : (setSlice k x s).keySlots = s.keySlots := rfl
@[simp] theorem setSlice_keySerials (k : Nat) (x : Slice) (s : Dev) : (setSlice k x s).keySerials = s.keySerials := rfl
@[simp] theorem setSlice_sec (k : Nat) (x : Slice) (s : Dev) : (setSlice k x s).sec = s.sec := rfl
@[simp] theorem setSlice_errBanks (k : Nat) (x : Slice) (s : Dev) : (setSlice k x s).errBanks = s.errBanks := rfl
@[simp] theorem setSlice_dies (k : Nat) (x : Slice) (s : Dev) : (setSlice k x s).dies = s.dies := rfl
@[simp] theorem setSlice_zeroing (k : Nat) (x : Slice) (s : Dev) : (setSlice k x s).zeroing = s.zeroing := rfl
@[simp] theorem setSlice_scrubHours (k : Nat) (x : Slice) (s : Dev) : (setSlice k x s).scrubHours = s.scrubHours := rfl
@[simp] theorem setSlice_rowThresh (k : Nat) (x : Slice) (s : Dev) : (setSlice k x s).rowThresh = s.rowThresh := rfl
@[simp] theorem setSlice_rowCounts (k : Nat) (x : Slice) (s : Dev) : (setSlice k x s).rowCounts = s.rowCounts := rfl
@[simp] theorem setSlice_scrubSince (k : Nat) (x : Slice) (s : Dev) : (setSlice k x s).scrubSince = s.scrubSince := rfl
@[simp] theorem setSlice_power (k : Nat) (x : Slice) (s : Dev) : (setSlice k x s).power = s.power := rfl
@[simp] theorem setSlice_wakes (k : Nat) (x : Slice) (s : Dev) : (setSlice k x s).wakes = s.wakes := rfl
@[simp] theorem setSlice_transitReset (k : Nat) (x : Slice) (s : Dev) : (setSlice k x s).transitReset = s.transitReset := rfl
@[simp] theorem setSlice_refLost (k : Nat) (x : Slice) (s : Dev) : (setSlice k x s).refLost = s.refLost := rfl

/-! ## setQp -/

@[simp] theorem setQp_now (k : Nat) (x : Qp) (s : Dev) : (setQp k x s).now = s.now := rfl
@[simp] theorem setQp_ready (k : Nat) (x : Qp) (s : Dev) : (setQp k x s).ready = s.ready := rfl
@[simp] theorem setQp_dataStopped (k : Nat) (x : Qp) (s : Dev) : (setQp k x s).dataStopped = s.dataStopped := rfl
@[simp] theorem setQp_routeHa (k : Nat) (x : Qp) (s : Dev) : (setQp k x s).routeHa = s.routeHa := rfl
@[simp] theorem setQp_evtHa (k : Nat) (x : Qp) (s : Dev) : (setQp k x s).evtHa = s.evtHa := rfl
@[simp] theorem setQp_grade (k : Nat) (x : Qp) (s : Dev) : (setQp k x s).grade = s.grade := rfl
@[simp] theorem setQp_cfgVer (k : Nat) (x : Qp) (s : Dev) : (setQp k x s).cfgVer = s.cfgVer := rfl
@[simp] theorem setQp_cores (k : Nat) (x : Qp) (s : Dev) : (setQp k x s).cores = s.cores := rfl
@[simp] theorem setQp_coreHungAt (k : Nat) (x : Qp) (s : Dev) : (setQp k x s).coreHungAt = s.coreHungAt := rfl
@[simp] theorem setQp_coreTimeouts (k : Nat) (x : Qp) (s : Dev) : (setQp k x s).coreTimeouts = s.coreTimeouts := rfl
@[simp] theorem setQp_triage (k : Nat) (x : Qp) (s : Dev) : (setQp k x s).triage = s.triage := rfl
@[simp] theorem setQp_mem (k : Nat) (x : Qp) (s : Dev) : (setQp k x s).mem = s.mem := rfl
@[simp] theorem setQp_poison (k : Nat) (x : Qp) (s : Dev) : (setQp k x s).poison = s.poison := rfl
@[simp] theorem setQp_out (k : Nat) (x : Qp) (s : Dev) : (setQp k x s).out = s.out := rfl
@[simp] theorem setQp_freeCtr (k : Nat) (x : Qp) (s : Dev) : (setQp k x s).freeCtr = s.freeCtr := rfl
@[simp] theorem setQp_timedOut (k : Nat) (x : Qp) (s : Dev) : (setQp k x s).timedOut = s.timedOut := rfl
@[simp] theorem setQp_counters (k : Nat) (x : Qp) (s : Dev) : (setQp k x s).counters = s.counters := rfl
@[simp] theorem setQp_slices (k : Nat) (x : Qp) (s : Dev) : (setQp k x s).slices = s.slices := rfl
@[simp] theorem setQp_pushPages (k : Nat) (x : Qp) (s : Dev) : (setQp k x s).pushPages = s.pushPages := rfl
@[simp] theorem setQp_qps (k : Nat) (x : Qp) (s : Dev) : (setQp k x s).qps = tset s.qps k x := rfl
@[simp] theorem setQp_gens (k : Nat) (x : Qp) (s : Dev) : (setQp k x s).gens = s.gens := rfl
@[simp] theorem setQp_qpFreed (k : Nat) (x : Qp) (s : Dev) : (setQp k x s).qpFreed = s.qpFreed := rfl
@[simp] theorem setQp_cqs (k : Nat) (x : Qp) (s : Dev) : (setQp k x s).cqs = s.cqs := rfl
@[simp] theorem setQp_windows (k : Nat) (x : Qp) (s : Dev) : (setQp k x s).windows = s.windows := rfl
@[simp] theorem setQp_xlt (k : Nat) (x : Qp) (s : Dev) : (setQp k x s).xlt = s.xlt := rfl
@[simp] theorem setQp_miss (k : Nat) (x : Qp) (s : Dev) : (setQp k x s).miss = s.miss := rfl
@[simp] theorem setQp_programs (k : Nat) (x : Qp) (s : Dev) : (setQp k x s).programs = s.programs := rfl
@[simp] theorem setQp_items (k : Nat) (x : Qp) (s : Dev) : (setQp k x s).items = s.items := rfl
@[simp] theorem setQp_locks (k : Nat) (x : Qp) (s : Dev) : (setQp k x s).locks = s.locks := rfl
@[simp] theorem setQp_lockQ (k : Nat) (x : Qp) (s : Dev) : (setQp k x s).lockQ = s.lockQ := rfl
@[simp] theorem setQp_accums (k : Nat) (x : Qp) (s : Dev) : (setQp k x s).accums = s.accums := rfl
@[simp] theorem setQp_engines (k : Nat) (x : Qp) (s : Dev) : (setQp k x s).engines = s.engines := rfl
@[simp] theorem setQp_groups (k : Nat) (x : Qp) (s : Dev) : (setQp k x s).groups = s.groups := rfl
@[simp] theorem setQp_streams (k : Nat) (x : Qp) (s : Dev) : (setQp k x s).streams = s.streams := rfl
@[simp] theorem setQp_seqMsgs (k : Nat) (x : Qp) (s : Dev) : (setQp k x s).seqMsgs = s.seqMsgs := rfl
@[simp] theorem setQp_triggers (k : Nat) (x : Qp) (s : Dev) : (setQp k x s).triggers = s.triggers := rfl
@[simp] theorem setQp_fabRegs (k : Nat) (x : Qp) (s : Dev) : (setQp k x s).fabRegs = s.fabRegs := rfl
@[simp] theorem setQp_ports (k : Nat) (x : Qp) (s : Dev) : (setQp k x s).ports = s.ports := rfl
@[simp] theorem setQp_routing (k : Nat) (x : Qp) (s : Dev) : (setQp k x s).routing = s.routing := rfl
@[simp] theorem setQp_escWaiting (k : Nat) (x : Qp) (s : Dev) : (setQp k x s).escWaiting = s.escWaiting := rfl
@[simp] theorem setQp_shapers (k : Nat) (x : Qp) (s : Dev) : (setQp k x s).shapers = s.shapers := rfl
@[simp] theorem setQp_profiles (k : Nat) (x : Qp) (s : Dev) : (setQp k x s).profiles = s.profiles := rfl
@[simp] theorem setQp_ceThresh (k : Nat) (x : Qp) (s : Dev) : (setQp k x s).ceThresh = s.ceThresh := rfl
@[simp] theorem setQp_rtoBase (k : Nat) (x : Qp) (s : Dev) : (setQp k x s).rtoBase = s.rtoBase := rfl
@[simp] theorem setQp_stamps (k : Nat) (x : Qp) (s : Dev) : (setQp k x s).stamps = s.stamps := rfl
@[simp] theorem setQp_monitors (k : Nat) (x : Qp) (s : Dev) : (setQp k x s).monitors = s.monitors := rfl
@[simp] theorem setQp_lastSample (k : Nat) (x : Qp) (s : Dev) : (setQp k x s).lastSample = s.lastSample := rfl
@[simp] theorem setQp_watermarks (k : Nat) (x : Qp) (s : Dev) : (setQp k x s).watermarks = s.watermarks := rfl
@[simp] theorem setQp_time (k : Nat) (x : Qp) (s : Dev) : (setQp k x s).time = s.time := rfl
@[simp] theorem setQp_host (k : Nat) (x : Qp) (s : Dev) : (setQp k x s).host = s.host := rfl
@[simp] theorem setQp_pasidEn (k : Nat) (x : Qp) (s : Dev) : (setQp k x s).pasidEn = s.pasidEn := rfl
@[simp] theorem setQp_winTarget (k : Nat) (x : Qp) (s : Dev) : (setQp k x s).winTarget = s.winTarget := rfl
@[simp] theorem setQp_winBase (k : Nat) (x : Qp) (s : Dev) : (setQp k x s).winBase = s.winBase := rfl
@[simp] theorem setQp_accs (k : Nat) (x : Qp) (s : Dev) : (setQp k x s).accs = s.accs := rfl
@[simp] theorem setQp_portReads (k : Nat) (x : Qp) (s : Dev) : (setQp k x s).portReads = s.portReads := rfl
@[simp] theorem setQp_readNo (k : Nat) (x : Qp) (s : Dev) : (setQp k x s).readNo = s.readNo := rfl
@[simp] theorem setQp_postNo (k : Nat) (x : Qp) (s : Dev) : (setQp k x s).postNo = s.postNo := rfl
@[simp] theorem setQp_staleReads (k : Nat) (x : Qp) (s : Dev) : (setQp k x s).staleReads = s.staleReads := rfl
@[simp] theorem setQp_barReads (k : Nat) (x : Qp) (s : Dev) : (setQp k x s).barReads = s.barReads := rfl
@[simp] theorem setQp_adminQ (k : Nat) (x : Qp) (s : Dev) : (setQp k x s).adminQ = s.adminQ := rfl
@[simp] theorem setQp_started (k : Nat) (x : Qp) (s : Dev) : (setQp k x s).started = s.started := rfl
@[simp] theorem setQp_waits (k : Nat) (x : Qp) (s : Dev) : (setQp k x s).waits = s.waits := rfl
@[simp] theorem setQp_eventQ (k : Nat) (x : Qp) (s : Dev) : (setQp k x s).eventQ = s.eventQ := rfl
@[simp] theorem setQp_keySlots (k : Nat) (x : Qp) (s : Dev) : (setQp k x s).keySlots = s.keySlots := rfl
@[simp] theorem setQp_keySerials (k : Nat) (x : Qp) (s : Dev) : (setQp k x s).keySerials = s.keySerials := rfl
@[simp] theorem setQp_sec (k : Nat) (x : Qp) (s : Dev) : (setQp k x s).sec = s.sec := rfl
@[simp] theorem setQp_errBanks (k : Nat) (x : Qp) (s : Dev) : (setQp k x s).errBanks = s.errBanks := rfl
@[simp] theorem setQp_dies (k : Nat) (x : Qp) (s : Dev) : (setQp k x s).dies = s.dies := rfl
@[simp] theorem setQp_zeroing (k : Nat) (x : Qp) (s : Dev) : (setQp k x s).zeroing = s.zeroing := rfl
@[simp] theorem setQp_scrubHours (k : Nat) (x : Qp) (s : Dev) : (setQp k x s).scrubHours = s.scrubHours := rfl
@[simp] theorem setQp_rowThresh (k : Nat) (x : Qp) (s : Dev) : (setQp k x s).rowThresh = s.rowThresh := rfl
@[simp] theorem setQp_rowCounts (k : Nat) (x : Qp) (s : Dev) : (setQp k x s).rowCounts = s.rowCounts := rfl
@[simp] theorem setQp_scrubSince (k : Nat) (x : Qp) (s : Dev) : (setQp k x s).scrubSince = s.scrubSince := rfl
@[simp] theorem setQp_power (k : Nat) (x : Qp) (s : Dev) : (setQp k x s).power = s.power := rfl
@[simp] theorem setQp_wakes (k : Nat) (x : Qp) (s : Dev) : (setQp k x s).wakes = s.wakes := rfl
@[simp] theorem setQp_transitReset (k : Nat) (x : Qp) (s : Dev) : (setQp k x s).transitReset = s.transitReset := rfl
@[simp] theorem setQp_refLost (k : Nat) (x : Qp) (s : Dev) : (setQp k x s).refLost = s.refLost := rfl

/-! ## setCq -/

@[simp] theorem setCq_now (k : Nat) (x : Cq) (s : Dev) : (setCq k x s).now = s.now := rfl
@[simp] theorem setCq_ready (k : Nat) (x : Cq) (s : Dev) : (setCq k x s).ready = s.ready := rfl
@[simp] theorem setCq_dataStopped (k : Nat) (x : Cq) (s : Dev) : (setCq k x s).dataStopped = s.dataStopped := rfl
@[simp] theorem setCq_routeHa (k : Nat) (x : Cq) (s : Dev) : (setCq k x s).routeHa = s.routeHa := rfl
@[simp] theorem setCq_evtHa (k : Nat) (x : Cq) (s : Dev) : (setCq k x s).evtHa = s.evtHa := rfl
@[simp] theorem setCq_grade (k : Nat) (x : Cq) (s : Dev) : (setCq k x s).grade = s.grade := rfl
@[simp] theorem setCq_cfgVer (k : Nat) (x : Cq) (s : Dev) : (setCq k x s).cfgVer = s.cfgVer := rfl
@[simp] theorem setCq_cores (k : Nat) (x : Cq) (s : Dev) : (setCq k x s).cores = s.cores := rfl
@[simp] theorem setCq_coreHungAt (k : Nat) (x : Cq) (s : Dev) : (setCq k x s).coreHungAt = s.coreHungAt := rfl
@[simp] theorem setCq_coreTimeouts (k : Nat) (x : Cq) (s : Dev) : (setCq k x s).coreTimeouts = s.coreTimeouts := rfl
@[simp] theorem setCq_triage (k : Nat) (x : Cq) (s : Dev) : (setCq k x s).triage = s.triage := rfl
@[simp] theorem setCq_mem (k : Nat) (x : Cq) (s : Dev) : (setCq k x s).mem = s.mem := rfl
@[simp] theorem setCq_poison (k : Nat) (x : Cq) (s : Dev) : (setCq k x s).poison = s.poison := rfl
@[simp] theorem setCq_out (k : Nat) (x : Cq) (s : Dev) : (setCq k x s).out = s.out := rfl
@[simp] theorem setCq_freeCtr (k : Nat) (x : Cq) (s : Dev) : (setCq k x s).freeCtr = s.freeCtr := rfl
@[simp] theorem setCq_timedOut (k : Nat) (x : Cq) (s : Dev) : (setCq k x s).timedOut = s.timedOut := rfl
@[simp] theorem setCq_counters (k : Nat) (x : Cq) (s : Dev) : (setCq k x s).counters = s.counters := rfl
@[simp] theorem setCq_slices (k : Nat) (x : Cq) (s : Dev) : (setCq k x s).slices = s.slices := rfl
@[simp] theorem setCq_pushPages (k : Nat) (x : Cq) (s : Dev) : (setCq k x s).pushPages = s.pushPages := rfl
@[simp] theorem setCq_qps (k : Nat) (x : Cq) (s : Dev) : (setCq k x s).qps = s.qps := rfl
@[simp] theorem setCq_gens (k : Nat) (x : Cq) (s : Dev) : (setCq k x s).gens = s.gens := rfl
@[simp] theorem setCq_qpFreed (k : Nat) (x : Cq) (s : Dev) : (setCq k x s).qpFreed = s.qpFreed := rfl
@[simp] theorem setCq_cqs (k : Nat) (x : Cq) (s : Dev) : (setCq k x s).cqs = tset s.cqs k x := rfl
@[simp] theorem setCq_windows (k : Nat) (x : Cq) (s : Dev) : (setCq k x s).windows = s.windows := rfl
@[simp] theorem setCq_xlt (k : Nat) (x : Cq) (s : Dev) : (setCq k x s).xlt = s.xlt := rfl
@[simp] theorem setCq_miss (k : Nat) (x : Cq) (s : Dev) : (setCq k x s).miss = s.miss := rfl
@[simp] theorem setCq_programs (k : Nat) (x : Cq) (s : Dev) : (setCq k x s).programs = s.programs := rfl
@[simp] theorem setCq_items (k : Nat) (x : Cq) (s : Dev) : (setCq k x s).items = s.items := rfl
@[simp] theorem setCq_locks (k : Nat) (x : Cq) (s : Dev) : (setCq k x s).locks = s.locks := rfl
@[simp] theorem setCq_lockQ (k : Nat) (x : Cq) (s : Dev) : (setCq k x s).lockQ = s.lockQ := rfl
@[simp] theorem setCq_accums (k : Nat) (x : Cq) (s : Dev) : (setCq k x s).accums = s.accums := rfl
@[simp] theorem setCq_engines (k : Nat) (x : Cq) (s : Dev) : (setCq k x s).engines = s.engines := rfl
@[simp] theorem setCq_groups (k : Nat) (x : Cq) (s : Dev) : (setCq k x s).groups = s.groups := rfl
@[simp] theorem setCq_streams (k : Nat) (x : Cq) (s : Dev) : (setCq k x s).streams = s.streams := rfl
@[simp] theorem setCq_seqMsgs (k : Nat) (x : Cq) (s : Dev) : (setCq k x s).seqMsgs = s.seqMsgs := rfl
@[simp] theorem setCq_triggers (k : Nat) (x : Cq) (s : Dev) : (setCq k x s).triggers = s.triggers := rfl
@[simp] theorem setCq_fabRegs (k : Nat) (x : Cq) (s : Dev) : (setCq k x s).fabRegs = s.fabRegs := rfl
@[simp] theorem setCq_ports (k : Nat) (x : Cq) (s : Dev) : (setCq k x s).ports = s.ports := rfl
@[simp] theorem setCq_routing (k : Nat) (x : Cq) (s : Dev) : (setCq k x s).routing = s.routing := rfl
@[simp] theorem setCq_escWaiting (k : Nat) (x : Cq) (s : Dev) : (setCq k x s).escWaiting = s.escWaiting := rfl
@[simp] theorem setCq_shapers (k : Nat) (x : Cq) (s : Dev) : (setCq k x s).shapers = s.shapers := rfl
@[simp] theorem setCq_profiles (k : Nat) (x : Cq) (s : Dev) : (setCq k x s).profiles = s.profiles := rfl
@[simp] theorem setCq_ceThresh (k : Nat) (x : Cq) (s : Dev) : (setCq k x s).ceThresh = s.ceThresh := rfl
@[simp] theorem setCq_rtoBase (k : Nat) (x : Cq) (s : Dev) : (setCq k x s).rtoBase = s.rtoBase := rfl
@[simp] theorem setCq_stamps (k : Nat) (x : Cq) (s : Dev) : (setCq k x s).stamps = s.stamps := rfl
@[simp] theorem setCq_monitors (k : Nat) (x : Cq) (s : Dev) : (setCq k x s).monitors = s.monitors := rfl
@[simp] theorem setCq_lastSample (k : Nat) (x : Cq) (s : Dev) : (setCq k x s).lastSample = s.lastSample := rfl
@[simp] theorem setCq_watermarks (k : Nat) (x : Cq) (s : Dev) : (setCq k x s).watermarks = s.watermarks := rfl
@[simp] theorem setCq_time (k : Nat) (x : Cq) (s : Dev) : (setCq k x s).time = s.time := rfl
@[simp] theorem setCq_host (k : Nat) (x : Cq) (s : Dev) : (setCq k x s).host = s.host := rfl
@[simp] theorem setCq_pasidEn (k : Nat) (x : Cq) (s : Dev) : (setCq k x s).pasidEn = s.pasidEn := rfl
@[simp] theorem setCq_winTarget (k : Nat) (x : Cq) (s : Dev) : (setCq k x s).winTarget = s.winTarget := rfl
@[simp] theorem setCq_winBase (k : Nat) (x : Cq) (s : Dev) : (setCq k x s).winBase = s.winBase := rfl
@[simp] theorem setCq_accs (k : Nat) (x : Cq) (s : Dev) : (setCq k x s).accs = s.accs := rfl
@[simp] theorem setCq_portReads (k : Nat) (x : Cq) (s : Dev) : (setCq k x s).portReads = s.portReads := rfl
@[simp] theorem setCq_readNo (k : Nat) (x : Cq) (s : Dev) : (setCq k x s).readNo = s.readNo := rfl
@[simp] theorem setCq_postNo (k : Nat) (x : Cq) (s : Dev) : (setCq k x s).postNo = s.postNo := rfl
@[simp] theorem setCq_staleReads (k : Nat) (x : Cq) (s : Dev) : (setCq k x s).staleReads = s.staleReads := rfl
@[simp] theorem setCq_barReads (k : Nat) (x : Cq) (s : Dev) : (setCq k x s).barReads = s.barReads := rfl
@[simp] theorem setCq_adminQ (k : Nat) (x : Cq) (s : Dev) : (setCq k x s).adminQ = s.adminQ := rfl
@[simp] theorem setCq_started (k : Nat) (x : Cq) (s : Dev) : (setCq k x s).started = s.started := rfl
@[simp] theorem setCq_waits (k : Nat) (x : Cq) (s : Dev) : (setCq k x s).waits = s.waits := rfl
@[simp] theorem setCq_eventQ (k : Nat) (x : Cq) (s : Dev) : (setCq k x s).eventQ = s.eventQ := rfl
@[simp] theorem setCq_keySlots (k : Nat) (x : Cq) (s : Dev) : (setCq k x s).keySlots = s.keySlots := rfl
@[simp] theorem setCq_keySerials (k : Nat) (x : Cq) (s : Dev) : (setCq k x s).keySerials = s.keySerials := rfl
@[simp] theorem setCq_sec (k : Nat) (x : Cq) (s : Dev) : (setCq k x s).sec = s.sec := rfl
@[simp] theorem setCq_errBanks (k : Nat) (x : Cq) (s : Dev) : (setCq k x s).errBanks = s.errBanks := rfl
@[simp] theorem setCq_dies (k : Nat) (x : Cq) (s : Dev) : (setCq k x s).dies = s.dies := rfl
@[simp] theorem setCq_zeroing (k : Nat) (x : Cq) (s : Dev) : (setCq k x s).zeroing = s.zeroing := rfl
@[simp] theorem setCq_scrubHours (k : Nat) (x : Cq) (s : Dev) : (setCq k x s).scrubHours = s.scrubHours := rfl
@[simp] theorem setCq_rowThresh (k : Nat) (x : Cq) (s : Dev) : (setCq k x s).rowThresh = s.rowThresh := rfl
@[simp] theorem setCq_rowCounts (k : Nat) (x : Cq) (s : Dev) : (setCq k x s).rowCounts = s.rowCounts := rfl
@[simp] theorem setCq_scrubSince (k : Nat) (x : Cq) (s : Dev) : (setCq k x s).scrubSince = s.scrubSince := rfl
@[simp] theorem setCq_power (k : Nat) (x : Cq) (s : Dev) : (setCq k x s).power = s.power := rfl
@[simp] theorem setCq_wakes (k : Nat) (x : Cq) (s : Dev) : (setCq k x s).wakes = s.wakes := rfl
@[simp] theorem setCq_transitReset (k : Nat) (x : Cq) (s : Dev) : (setCq k x s).transitReset = s.transitReset := rfl
@[simp] theorem setCq_refLost (k : Nat) (x : Cq) (s : Dev) : (setCq k x s).refLost = s.refLost := rfl

/-! ## setPort -/

@[simp] theorem setPort_now (k : Nat) (x : FPort) (s : Dev) : (setPort k x s).now = s.now := rfl
@[simp] theorem setPort_ready (k : Nat) (x : FPort) (s : Dev) : (setPort k x s).ready = s.ready := rfl
@[simp] theorem setPort_dataStopped (k : Nat) (x : FPort) (s : Dev) : (setPort k x s).dataStopped = s.dataStopped := rfl
@[simp] theorem setPort_routeHa (k : Nat) (x : FPort) (s : Dev) : (setPort k x s).routeHa = s.routeHa := rfl
@[simp] theorem setPort_evtHa (k : Nat) (x : FPort) (s : Dev) : (setPort k x s).evtHa = s.evtHa := rfl
@[simp] theorem setPort_grade (k : Nat) (x : FPort) (s : Dev) : (setPort k x s).grade = s.grade := rfl
@[simp] theorem setPort_cfgVer (k : Nat) (x : FPort) (s : Dev) : (setPort k x s).cfgVer = s.cfgVer := rfl
@[simp] theorem setPort_cores (k : Nat) (x : FPort) (s : Dev) : (setPort k x s).cores = s.cores := rfl
@[simp] theorem setPort_coreHungAt (k : Nat) (x : FPort) (s : Dev) : (setPort k x s).coreHungAt = s.coreHungAt := rfl
@[simp] theorem setPort_coreTimeouts (k : Nat) (x : FPort) (s : Dev) : (setPort k x s).coreTimeouts = s.coreTimeouts := rfl
@[simp] theorem setPort_triage (k : Nat) (x : FPort) (s : Dev) : (setPort k x s).triage = s.triage := rfl
@[simp] theorem setPort_mem (k : Nat) (x : FPort) (s : Dev) : (setPort k x s).mem = s.mem := rfl
@[simp] theorem setPort_poison (k : Nat) (x : FPort) (s : Dev) : (setPort k x s).poison = s.poison := rfl
@[simp] theorem setPort_out (k : Nat) (x : FPort) (s : Dev) : (setPort k x s).out = s.out := rfl
@[simp] theorem setPort_freeCtr (k : Nat) (x : FPort) (s : Dev) : (setPort k x s).freeCtr = s.freeCtr := rfl
@[simp] theorem setPort_timedOut (k : Nat) (x : FPort) (s : Dev) : (setPort k x s).timedOut = s.timedOut := rfl
@[simp] theorem setPort_counters (k : Nat) (x : FPort) (s : Dev) : (setPort k x s).counters = s.counters := rfl
@[simp] theorem setPort_slices (k : Nat) (x : FPort) (s : Dev) : (setPort k x s).slices = s.slices := rfl
@[simp] theorem setPort_pushPages (k : Nat) (x : FPort) (s : Dev) : (setPort k x s).pushPages = s.pushPages := rfl
@[simp] theorem setPort_qps (k : Nat) (x : FPort) (s : Dev) : (setPort k x s).qps = s.qps := rfl
@[simp] theorem setPort_gens (k : Nat) (x : FPort) (s : Dev) : (setPort k x s).gens = s.gens := rfl
@[simp] theorem setPort_qpFreed (k : Nat) (x : FPort) (s : Dev) : (setPort k x s).qpFreed = s.qpFreed := rfl
@[simp] theorem setPort_cqs (k : Nat) (x : FPort) (s : Dev) : (setPort k x s).cqs = s.cqs := rfl
@[simp] theorem setPort_windows (k : Nat) (x : FPort) (s : Dev) : (setPort k x s).windows = s.windows := rfl
@[simp] theorem setPort_xlt (k : Nat) (x : FPort) (s : Dev) : (setPort k x s).xlt = s.xlt := rfl
@[simp] theorem setPort_miss (k : Nat) (x : FPort) (s : Dev) : (setPort k x s).miss = s.miss := rfl
@[simp] theorem setPort_programs (k : Nat) (x : FPort) (s : Dev) : (setPort k x s).programs = s.programs := rfl
@[simp] theorem setPort_items (k : Nat) (x : FPort) (s : Dev) : (setPort k x s).items = s.items := rfl
@[simp] theorem setPort_locks (k : Nat) (x : FPort) (s : Dev) : (setPort k x s).locks = s.locks := rfl
@[simp] theorem setPort_lockQ (k : Nat) (x : FPort) (s : Dev) : (setPort k x s).lockQ = s.lockQ := rfl
@[simp] theorem setPort_accums (k : Nat) (x : FPort) (s : Dev) : (setPort k x s).accums = s.accums := rfl
@[simp] theorem setPort_engines (k : Nat) (x : FPort) (s : Dev) : (setPort k x s).engines = s.engines := rfl
@[simp] theorem setPort_groups (k : Nat) (x : FPort) (s : Dev) : (setPort k x s).groups = s.groups := rfl
@[simp] theorem setPort_streams (k : Nat) (x : FPort) (s : Dev) : (setPort k x s).streams = s.streams := rfl
@[simp] theorem setPort_seqMsgs (k : Nat) (x : FPort) (s : Dev) : (setPort k x s).seqMsgs = s.seqMsgs := rfl
@[simp] theorem setPort_triggers (k : Nat) (x : FPort) (s : Dev) : (setPort k x s).triggers = s.triggers := rfl
@[simp] theorem setPort_fabRegs (k : Nat) (x : FPort) (s : Dev) : (setPort k x s).fabRegs = s.fabRegs := rfl
@[simp] theorem setPort_ports (k : Nat) (x : FPort) (s : Dev) : (setPort k x s).ports = tset s.ports k x := rfl
@[simp] theorem setPort_routing (k : Nat) (x : FPort) (s : Dev) : (setPort k x s).routing = s.routing := rfl
@[simp] theorem setPort_escWaiting (k : Nat) (x : FPort) (s : Dev) : (setPort k x s).escWaiting = s.escWaiting := rfl
@[simp] theorem setPort_shapers (k : Nat) (x : FPort) (s : Dev) : (setPort k x s).shapers = s.shapers := rfl
@[simp] theorem setPort_profiles (k : Nat) (x : FPort) (s : Dev) : (setPort k x s).profiles = s.profiles := rfl
@[simp] theorem setPort_ceThresh (k : Nat) (x : FPort) (s : Dev) : (setPort k x s).ceThresh = s.ceThresh := rfl
@[simp] theorem setPort_rtoBase (k : Nat) (x : FPort) (s : Dev) : (setPort k x s).rtoBase = s.rtoBase := rfl
@[simp] theorem setPort_stamps (k : Nat) (x : FPort) (s : Dev) : (setPort k x s).stamps = s.stamps := rfl
@[simp] theorem setPort_monitors (k : Nat) (x : FPort) (s : Dev) : (setPort k x s).monitors = s.monitors := rfl
@[simp] theorem setPort_lastSample (k : Nat) (x : FPort) (s : Dev) : (setPort k x s).lastSample = s.lastSample := rfl
@[simp] theorem setPort_watermarks (k : Nat) (x : FPort) (s : Dev) : (setPort k x s).watermarks = s.watermarks := rfl
@[simp] theorem setPort_time (k : Nat) (x : FPort) (s : Dev) : (setPort k x s).time = s.time := rfl
@[simp] theorem setPort_host (k : Nat) (x : FPort) (s : Dev) : (setPort k x s).host = s.host := rfl
@[simp] theorem setPort_pasidEn (k : Nat) (x : FPort) (s : Dev) : (setPort k x s).pasidEn = s.pasidEn := rfl
@[simp] theorem setPort_winTarget (k : Nat) (x : FPort) (s : Dev) : (setPort k x s).winTarget = s.winTarget := rfl
@[simp] theorem setPort_winBase (k : Nat) (x : FPort) (s : Dev) : (setPort k x s).winBase = s.winBase := rfl
@[simp] theorem setPort_accs (k : Nat) (x : FPort) (s : Dev) : (setPort k x s).accs = s.accs := rfl
@[simp] theorem setPort_portReads (k : Nat) (x : FPort) (s : Dev) : (setPort k x s).portReads = s.portReads := rfl
@[simp] theorem setPort_readNo (k : Nat) (x : FPort) (s : Dev) : (setPort k x s).readNo = s.readNo := rfl
@[simp] theorem setPort_postNo (k : Nat) (x : FPort) (s : Dev) : (setPort k x s).postNo = s.postNo := rfl
@[simp] theorem setPort_staleReads (k : Nat) (x : FPort) (s : Dev) : (setPort k x s).staleReads = s.staleReads := rfl
@[simp] theorem setPort_barReads (k : Nat) (x : FPort) (s : Dev) : (setPort k x s).barReads = s.barReads := rfl
@[simp] theorem setPort_adminQ (k : Nat) (x : FPort) (s : Dev) : (setPort k x s).adminQ = s.adminQ := rfl
@[simp] theorem setPort_started (k : Nat) (x : FPort) (s : Dev) : (setPort k x s).started = s.started := rfl
@[simp] theorem setPort_waits (k : Nat) (x : FPort) (s : Dev) : (setPort k x s).waits = s.waits := rfl
@[simp] theorem setPort_eventQ (k : Nat) (x : FPort) (s : Dev) : (setPort k x s).eventQ = s.eventQ := rfl
@[simp] theorem setPort_keySlots (k : Nat) (x : FPort) (s : Dev) : (setPort k x s).keySlots = s.keySlots := rfl
@[simp] theorem setPort_keySerials (k : Nat) (x : FPort) (s : Dev) : (setPort k x s).keySerials = s.keySerials := rfl
@[simp] theorem setPort_sec (k : Nat) (x : FPort) (s : Dev) : (setPort k x s).sec = s.sec := rfl
@[simp] theorem setPort_errBanks (k : Nat) (x : FPort) (s : Dev) : (setPort k x s).errBanks = s.errBanks := rfl
@[simp] theorem setPort_dies (k : Nat) (x : FPort) (s : Dev) : (setPort k x s).dies = s.dies := rfl
@[simp] theorem setPort_zeroing (k : Nat) (x : FPort) (s : Dev) : (setPort k x s).zeroing = s.zeroing := rfl
@[simp] theorem setPort_scrubHours (k : Nat) (x : FPort) (s : Dev) : (setPort k x s).scrubHours = s.scrubHours := rfl
@[simp] theorem setPort_rowThresh (k : Nat) (x : FPort) (s : Dev) : (setPort k x s).rowThresh = s.rowThresh := rfl
@[simp] theorem setPort_rowCounts (k : Nat) (x : FPort) (s : Dev) : (setPort k x s).rowCounts = s.rowCounts := rfl
@[simp] theorem setPort_scrubSince (k : Nat) (x : FPort) (s : Dev) : (setPort k x s).scrubSince = s.scrubSince := rfl
@[simp] theorem setPort_power (k : Nat) (x : FPort) (s : Dev) : (setPort k x s).power = s.power := rfl
@[simp] theorem setPort_wakes (k : Nat) (x : FPort) (s : Dev) : (setPort k x s).wakes = s.wakes := rfl
@[simp] theorem setPort_transitReset (k : Nat) (x : FPort) (s : Dev) : (setPort k x s).transitReset = s.transitReset := rfl
@[simp] theorem setPort_refLost (k : Nat) (x : FPort) (s : Dev) : (setPort k x s).refLost = s.refLost := rfl

/-! ## setAq -/

@[simp] theorem setAq_now (k : Nat) (x : AdminQ) (s : Dev) : (setAq k x s).now = s.now := rfl
@[simp] theorem setAq_ready (k : Nat) (x : AdminQ) (s : Dev) : (setAq k x s).ready = s.ready := rfl
@[simp] theorem setAq_dataStopped (k : Nat) (x : AdminQ) (s : Dev) : (setAq k x s).dataStopped = s.dataStopped := rfl
@[simp] theorem setAq_routeHa (k : Nat) (x : AdminQ) (s : Dev) : (setAq k x s).routeHa = s.routeHa := rfl
@[simp] theorem setAq_evtHa (k : Nat) (x : AdminQ) (s : Dev) : (setAq k x s).evtHa = s.evtHa := rfl
@[simp] theorem setAq_grade (k : Nat) (x : AdminQ) (s : Dev) : (setAq k x s).grade = s.grade := rfl
@[simp] theorem setAq_cfgVer (k : Nat) (x : AdminQ) (s : Dev) : (setAq k x s).cfgVer = s.cfgVer := rfl
@[simp] theorem setAq_cores (k : Nat) (x : AdminQ) (s : Dev) : (setAq k x s).cores = s.cores := rfl
@[simp] theorem setAq_coreHungAt (k : Nat) (x : AdminQ) (s : Dev) : (setAq k x s).coreHungAt = s.coreHungAt := rfl
@[simp] theorem setAq_coreTimeouts (k : Nat) (x : AdminQ) (s : Dev) : (setAq k x s).coreTimeouts = s.coreTimeouts := rfl
@[simp] theorem setAq_triage (k : Nat) (x : AdminQ) (s : Dev) : (setAq k x s).triage = s.triage := rfl
@[simp] theorem setAq_mem (k : Nat) (x : AdminQ) (s : Dev) : (setAq k x s).mem = s.mem := rfl
@[simp] theorem setAq_poison (k : Nat) (x : AdminQ) (s : Dev) : (setAq k x s).poison = s.poison := rfl
@[simp] theorem setAq_out (k : Nat) (x : AdminQ) (s : Dev) : (setAq k x s).out = s.out := rfl
@[simp] theorem setAq_freeCtr (k : Nat) (x : AdminQ) (s : Dev) : (setAq k x s).freeCtr = s.freeCtr := rfl
@[simp] theorem setAq_timedOut (k : Nat) (x : AdminQ) (s : Dev) : (setAq k x s).timedOut = s.timedOut := rfl
@[simp] theorem setAq_counters (k : Nat) (x : AdminQ) (s : Dev) : (setAq k x s).counters = s.counters := rfl
@[simp] theorem setAq_slices (k : Nat) (x : AdminQ) (s : Dev) : (setAq k x s).slices = s.slices := rfl
@[simp] theorem setAq_pushPages (k : Nat) (x : AdminQ) (s : Dev) : (setAq k x s).pushPages = s.pushPages := rfl
@[simp] theorem setAq_qps (k : Nat) (x : AdminQ) (s : Dev) : (setAq k x s).qps = s.qps := rfl
@[simp] theorem setAq_gens (k : Nat) (x : AdminQ) (s : Dev) : (setAq k x s).gens = s.gens := rfl
@[simp] theorem setAq_qpFreed (k : Nat) (x : AdminQ) (s : Dev) : (setAq k x s).qpFreed = s.qpFreed := rfl
@[simp] theorem setAq_cqs (k : Nat) (x : AdminQ) (s : Dev) : (setAq k x s).cqs = s.cqs := rfl
@[simp] theorem setAq_windows (k : Nat) (x : AdminQ) (s : Dev) : (setAq k x s).windows = s.windows := rfl
@[simp] theorem setAq_xlt (k : Nat) (x : AdminQ) (s : Dev) : (setAq k x s).xlt = s.xlt := rfl
@[simp] theorem setAq_miss (k : Nat) (x : AdminQ) (s : Dev) : (setAq k x s).miss = s.miss := rfl
@[simp] theorem setAq_programs (k : Nat) (x : AdminQ) (s : Dev) : (setAq k x s).programs = s.programs := rfl
@[simp] theorem setAq_items (k : Nat) (x : AdminQ) (s : Dev) : (setAq k x s).items = s.items := rfl
@[simp] theorem setAq_locks (k : Nat) (x : AdminQ) (s : Dev) : (setAq k x s).locks = s.locks := rfl
@[simp] theorem setAq_lockQ (k : Nat) (x : AdminQ) (s : Dev) : (setAq k x s).lockQ = s.lockQ := rfl
@[simp] theorem setAq_accums (k : Nat) (x : AdminQ) (s : Dev) : (setAq k x s).accums = s.accums := rfl
@[simp] theorem setAq_engines (k : Nat) (x : AdminQ) (s : Dev) : (setAq k x s).engines = s.engines := rfl
@[simp] theorem setAq_groups (k : Nat) (x : AdminQ) (s : Dev) : (setAq k x s).groups = s.groups := rfl
@[simp] theorem setAq_streams (k : Nat) (x : AdminQ) (s : Dev) : (setAq k x s).streams = s.streams := rfl
@[simp] theorem setAq_seqMsgs (k : Nat) (x : AdminQ) (s : Dev) : (setAq k x s).seqMsgs = s.seqMsgs := rfl
@[simp] theorem setAq_triggers (k : Nat) (x : AdminQ) (s : Dev) : (setAq k x s).triggers = s.triggers := rfl
@[simp] theorem setAq_fabRegs (k : Nat) (x : AdminQ) (s : Dev) : (setAq k x s).fabRegs = s.fabRegs := rfl
@[simp] theorem setAq_ports (k : Nat) (x : AdminQ) (s : Dev) : (setAq k x s).ports = s.ports := rfl
@[simp] theorem setAq_routing (k : Nat) (x : AdminQ) (s : Dev) : (setAq k x s).routing = s.routing := rfl
@[simp] theorem setAq_escWaiting (k : Nat) (x : AdminQ) (s : Dev) : (setAq k x s).escWaiting = s.escWaiting := rfl
@[simp] theorem setAq_shapers (k : Nat) (x : AdminQ) (s : Dev) : (setAq k x s).shapers = s.shapers := rfl
@[simp] theorem setAq_profiles (k : Nat) (x : AdminQ) (s : Dev) : (setAq k x s).profiles = s.profiles := rfl
@[simp] theorem setAq_ceThresh (k : Nat) (x : AdminQ) (s : Dev) : (setAq k x s).ceThresh = s.ceThresh := rfl
@[simp] theorem setAq_rtoBase (k : Nat) (x : AdminQ) (s : Dev) : (setAq k x s).rtoBase = s.rtoBase := rfl
@[simp] theorem setAq_stamps (k : Nat) (x : AdminQ) (s : Dev) : (setAq k x s).stamps = s.stamps := rfl
@[simp] theorem setAq_monitors (k : Nat) (x : AdminQ) (s : Dev) : (setAq k x s).monitors = s.monitors := rfl
@[simp] theorem setAq_lastSample (k : Nat) (x : AdminQ) (s : Dev) : (setAq k x s).lastSample = s.lastSample := rfl
@[simp] theorem setAq_watermarks (k : Nat) (x : AdminQ) (s : Dev) : (setAq k x s).watermarks = s.watermarks := rfl
@[simp] theorem setAq_time (k : Nat) (x : AdminQ) (s : Dev) : (setAq k x s).time = s.time := rfl
@[simp] theorem setAq_host (k : Nat) (x : AdminQ) (s : Dev) : (setAq k x s).host = s.host := rfl
@[simp] theorem setAq_pasidEn (k : Nat) (x : AdminQ) (s : Dev) : (setAq k x s).pasidEn = s.pasidEn := rfl
@[simp] theorem setAq_winTarget (k : Nat) (x : AdminQ) (s : Dev) : (setAq k x s).winTarget = s.winTarget := rfl
@[simp] theorem setAq_winBase (k : Nat) (x : AdminQ) (s : Dev) : (setAq k x s).winBase = s.winBase := rfl
@[simp] theorem setAq_accs (k : Nat) (x : AdminQ) (s : Dev) : (setAq k x s).accs = s.accs := rfl
@[simp] theorem setAq_portReads (k : Nat) (x : AdminQ) (s : Dev) : (setAq k x s).portReads = s.portReads := rfl
@[simp] theorem setAq_readNo (k : Nat) (x : AdminQ) (s : Dev) : (setAq k x s).readNo = s.readNo := rfl
@[simp] theorem setAq_postNo (k : Nat) (x : AdminQ) (s : Dev) : (setAq k x s).postNo = s.postNo := rfl
@[simp] theorem setAq_staleReads (k : Nat) (x : AdminQ) (s : Dev) : (setAq k x s).staleReads = s.staleReads := rfl
@[simp] theorem setAq_barReads (k : Nat) (x : AdminQ) (s : Dev) : (setAq k x s).barReads = s.barReads := rfl
@[simp] theorem setAq_adminQ (k : Nat) (x : AdminQ) (s : Dev) : (setAq k x s).adminQ = tset s.adminQ k x := rfl
@[simp] theorem setAq_started (k : Nat) (x : AdminQ) (s : Dev) : (setAq k x s).started = s.started := rfl
@[simp] theorem setAq_waits (k : Nat) (x : AdminQ) (s : Dev) : (setAq k x s).waits = s.waits := rfl
@[simp] theorem setAq_eventQ (k : Nat) (x : AdminQ) (s : Dev) : (setAq k x s).eventQ = s.eventQ := rfl
@[simp] theorem setAq_keySlots (k : Nat) (x : AdminQ) (s : Dev) : (setAq k x s).keySlots = s.keySlots := rfl
@[simp] theorem setAq_keySerials (k : Nat) (x : AdminQ) (s : Dev) : (setAq k x s).keySerials = s.keySerials := rfl
@[simp] theorem setAq_sec (k : Nat) (x : AdminQ) (s : Dev) : (setAq k x s).sec = s.sec := rfl
@[simp] theorem setAq_errBanks (k : Nat) (x : AdminQ) (s : Dev) : (setAq k x s).errBanks = s.errBanks := rfl
@[simp] theorem setAq_dies (k : Nat) (x : AdminQ) (s : Dev) : (setAq k x s).dies = s.dies := rfl
@[simp] theorem setAq_zeroing (k : Nat) (x : AdminQ) (s : Dev) : (setAq k x s).zeroing = s.zeroing := rfl
@[simp] theorem setAq_scrubHours (k : Nat) (x : AdminQ) (s : Dev) : (setAq k x s).scrubHours = s.scrubHours := rfl
@[simp] theorem setAq_rowThresh (k : Nat) (x : AdminQ) (s : Dev) : (setAq k x s).rowThresh = s.rowThresh := rfl
@[simp] theorem setAq_rowCounts (k : Nat) (x : AdminQ) (s : Dev) : (setAq k x s).rowCounts = s.rowCounts := rfl
@[simp] theorem setAq_scrubSince (k : Nat) (x : AdminQ) (s : Dev) : (setAq k x s).scrubSince = s.scrubSince := rfl
@[simp] theorem setAq_power (k : Nat) (x : AdminQ) (s : Dev) : (setAq k x s).power = s.power := rfl
@[simp] theorem setAq_wakes (k : Nat) (x : AdminQ) (s : Dev) : (setAq k x s).wakes = s.wakes := rfl
@[simp] theorem setAq_transitReset (k : Nat) (x : AdminQ) (s : Dev) : (setAq k x s).transitReset = s.transitReset := rfl
@[simp] theorem setAq_refLost (k : Nat) (x : AdminQ) (s : Dev) : (setAq k x s).refLost = s.refLost := rfl

/-! ## setEvq -/

@[simp] theorem setEvq_now (k : Nat) (x : EventQ) (s : Dev) : (setEvq k x s).now = s.now := rfl
@[simp] theorem setEvq_ready (k : Nat) (x : EventQ) (s : Dev) : (setEvq k x s).ready = s.ready := rfl
@[simp] theorem setEvq_dataStopped (k : Nat) (x : EventQ) (s : Dev) : (setEvq k x s).dataStopped = s.dataStopped := rfl
@[simp] theorem setEvq_routeHa (k : Nat) (x : EventQ) (s : Dev) : (setEvq k x s).routeHa = s.routeHa := rfl
@[simp] theorem setEvq_evtHa (k : Nat) (x : EventQ) (s : Dev) : (setEvq k x s).evtHa = s.evtHa := rfl
@[simp] theorem setEvq_grade (k : Nat) (x : EventQ) (s : Dev) : (setEvq k x s).grade = s.grade := rfl
@[simp] theorem setEvq_cfgVer (k : Nat) (x : EventQ) (s : Dev) : (setEvq k x s).cfgVer = s.cfgVer := rfl
@[simp] theorem setEvq_cores (k : Nat) (x : EventQ) (s : Dev) : (setEvq k x s).cores = s.cores := rfl
@[simp] theorem setEvq_coreHungAt (k : Nat) (x : EventQ) (s : Dev) : (setEvq k x s).coreHungAt = s.coreHungAt := rfl
@[simp] theorem setEvq_coreTimeouts (k : Nat) (x : EventQ) (s : Dev) : (setEvq k x s).coreTimeouts = s.coreTimeouts := rfl
@[simp] theorem setEvq_triage (k : Nat) (x : EventQ) (s : Dev) : (setEvq k x s).triage = s.triage := rfl
@[simp] theorem setEvq_mem (k : Nat) (x : EventQ) (s : Dev) : (setEvq k x s).mem = s.mem := rfl
@[simp] theorem setEvq_poison (k : Nat) (x : EventQ) (s : Dev) : (setEvq k x s).poison = s.poison := rfl
@[simp] theorem setEvq_out (k : Nat) (x : EventQ) (s : Dev) : (setEvq k x s).out = s.out := rfl
@[simp] theorem setEvq_freeCtr (k : Nat) (x : EventQ) (s : Dev) : (setEvq k x s).freeCtr = s.freeCtr := rfl
@[simp] theorem setEvq_timedOut (k : Nat) (x : EventQ) (s : Dev) : (setEvq k x s).timedOut = s.timedOut := rfl
@[simp] theorem setEvq_counters (k : Nat) (x : EventQ) (s : Dev) : (setEvq k x s).counters = s.counters := rfl
@[simp] theorem setEvq_slices (k : Nat) (x : EventQ) (s : Dev) : (setEvq k x s).slices = s.slices := rfl
@[simp] theorem setEvq_pushPages (k : Nat) (x : EventQ) (s : Dev) : (setEvq k x s).pushPages = s.pushPages := rfl
@[simp] theorem setEvq_qps (k : Nat) (x : EventQ) (s : Dev) : (setEvq k x s).qps = s.qps := rfl
@[simp] theorem setEvq_gens (k : Nat) (x : EventQ) (s : Dev) : (setEvq k x s).gens = s.gens := rfl
@[simp] theorem setEvq_qpFreed (k : Nat) (x : EventQ) (s : Dev) : (setEvq k x s).qpFreed = s.qpFreed := rfl
@[simp] theorem setEvq_cqs (k : Nat) (x : EventQ) (s : Dev) : (setEvq k x s).cqs = s.cqs := rfl
@[simp] theorem setEvq_windows (k : Nat) (x : EventQ) (s : Dev) : (setEvq k x s).windows = s.windows := rfl
@[simp] theorem setEvq_xlt (k : Nat) (x : EventQ) (s : Dev) : (setEvq k x s).xlt = s.xlt := rfl
@[simp] theorem setEvq_miss (k : Nat) (x : EventQ) (s : Dev) : (setEvq k x s).miss = s.miss := rfl
@[simp] theorem setEvq_programs (k : Nat) (x : EventQ) (s : Dev) : (setEvq k x s).programs = s.programs := rfl
@[simp] theorem setEvq_items (k : Nat) (x : EventQ) (s : Dev) : (setEvq k x s).items = s.items := rfl
@[simp] theorem setEvq_locks (k : Nat) (x : EventQ) (s : Dev) : (setEvq k x s).locks = s.locks := rfl
@[simp] theorem setEvq_lockQ (k : Nat) (x : EventQ) (s : Dev) : (setEvq k x s).lockQ = s.lockQ := rfl
@[simp] theorem setEvq_accums (k : Nat) (x : EventQ) (s : Dev) : (setEvq k x s).accums = s.accums := rfl
@[simp] theorem setEvq_engines (k : Nat) (x : EventQ) (s : Dev) : (setEvq k x s).engines = s.engines := rfl
@[simp] theorem setEvq_groups (k : Nat) (x : EventQ) (s : Dev) : (setEvq k x s).groups = s.groups := rfl
@[simp] theorem setEvq_streams (k : Nat) (x : EventQ) (s : Dev) : (setEvq k x s).streams = s.streams := rfl
@[simp] theorem setEvq_seqMsgs (k : Nat) (x : EventQ) (s : Dev) : (setEvq k x s).seqMsgs = s.seqMsgs := rfl
@[simp] theorem setEvq_triggers (k : Nat) (x : EventQ) (s : Dev) : (setEvq k x s).triggers = s.triggers := rfl
@[simp] theorem setEvq_fabRegs (k : Nat) (x : EventQ) (s : Dev) : (setEvq k x s).fabRegs = s.fabRegs := rfl
@[simp] theorem setEvq_ports (k : Nat) (x : EventQ) (s : Dev) : (setEvq k x s).ports = s.ports := rfl
@[simp] theorem setEvq_routing (k : Nat) (x : EventQ) (s : Dev) : (setEvq k x s).routing = s.routing := rfl
@[simp] theorem setEvq_escWaiting (k : Nat) (x : EventQ) (s : Dev) : (setEvq k x s).escWaiting = s.escWaiting := rfl
@[simp] theorem setEvq_shapers (k : Nat) (x : EventQ) (s : Dev) : (setEvq k x s).shapers = s.shapers := rfl
@[simp] theorem setEvq_profiles (k : Nat) (x : EventQ) (s : Dev) : (setEvq k x s).profiles = s.profiles := rfl
@[simp] theorem setEvq_ceThresh (k : Nat) (x : EventQ) (s : Dev) : (setEvq k x s).ceThresh = s.ceThresh := rfl
@[simp] theorem setEvq_rtoBase (k : Nat) (x : EventQ) (s : Dev) : (setEvq k x s).rtoBase = s.rtoBase := rfl
@[simp] theorem setEvq_stamps (k : Nat) (x : EventQ) (s : Dev) : (setEvq k x s).stamps = s.stamps := rfl
@[simp] theorem setEvq_monitors (k : Nat) (x : EventQ) (s : Dev) : (setEvq k x s).monitors = s.monitors := rfl
@[simp] theorem setEvq_lastSample (k : Nat) (x : EventQ) (s : Dev) : (setEvq k x s).lastSample = s.lastSample := rfl
@[simp] theorem setEvq_watermarks (k : Nat) (x : EventQ) (s : Dev) : (setEvq k x s).watermarks = s.watermarks := rfl
@[simp] theorem setEvq_time (k : Nat) (x : EventQ) (s : Dev) : (setEvq k x s).time = s.time := rfl
@[simp] theorem setEvq_host (k : Nat) (x : EventQ) (s : Dev) : (setEvq k x s).host = s.host := rfl
@[simp] theorem setEvq_pasidEn (k : Nat) (x : EventQ) (s : Dev) : (setEvq k x s).pasidEn = s.pasidEn := rfl
@[simp] theorem setEvq_winTarget (k : Nat) (x : EventQ) (s : Dev) : (setEvq k x s).winTarget = s.winTarget := rfl
@[simp] theorem setEvq_winBase (k : Nat) (x : EventQ) (s : Dev) : (setEvq k x s).winBase = s.winBase := rfl
@[simp] theorem setEvq_accs (k : Nat) (x : EventQ) (s : Dev) : (setEvq k x s).accs = s.accs := rfl
@[simp] theorem setEvq_portReads (k : Nat) (x : EventQ) (s : Dev) : (setEvq k x s).portReads = s.portReads := rfl
@[simp] theorem setEvq_readNo (k : Nat) (x : EventQ) (s : Dev) : (setEvq k x s).readNo = s.readNo := rfl
@[simp] theorem setEvq_postNo (k : Nat) (x : EventQ) (s : Dev) : (setEvq k x s).postNo = s.postNo := rfl
@[simp] theorem setEvq_staleReads (k : Nat) (x : EventQ) (s : Dev) : (setEvq k x s).staleReads = s.staleReads := rfl
@[simp] theorem setEvq_barReads (k : Nat) (x : EventQ) (s : Dev) : (setEvq k x s).barReads = s.barReads := rfl
@[simp] theorem setEvq_adminQ (k : Nat) (x : EventQ) (s : Dev) : (setEvq k x s).adminQ = s.adminQ := rfl
@[simp] theorem setEvq_started (k : Nat) (x : EventQ) (s : Dev) : (setEvq k x s).started = s.started := rfl
@[simp] theorem setEvq_waits (k : Nat) (x : EventQ) (s : Dev) : (setEvq k x s).waits = s.waits := rfl
@[simp] theorem setEvq_eventQ (k : Nat) (x : EventQ) (s : Dev) : (setEvq k x s).eventQ = tset s.eventQ k x := rfl
@[simp] theorem setEvq_keySlots (k : Nat) (x : EventQ) (s : Dev) : (setEvq k x s).keySlots = s.keySlots := rfl
@[simp] theorem setEvq_keySerials (k : Nat) (x : EventQ) (s : Dev) : (setEvq k x s).keySerials = s.keySerials := rfl
@[simp] theorem setEvq_sec (k : Nat) (x : EventQ) (s : Dev) : (setEvq k x s).sec = s.sec := rfl
@[simp] theorem setEvq_errBanks (k : Nat) (x : EventQ) (s : Dev) : (setEvq k x s).errBanks = s.errBanks := rfl
@[simp] theorem setEvq_dies (k : Nat) (x : EventQ) (s : Dev) : (setEvq k x s).dies = s.dies := rfl
@[simp] theorem setEvq_zeroing (k : Nat) (x : EventQ) (s : Dev) : (setEvq k x s).zeroing = s.zeroing := rfl
@[simp] theorem setEvq_scrubHours (k : Nat) (x : EventQ) (s : Dev) : (setEvq k x s).scrubHours = s.scrubHours := rfl
@[simp] theorem setEvq_rowThresh (k : Nat) (x : EventQ) (s : Dev) : (setEvq k x s).rowThresh = s.rowThresh := rfl
@[simp] theorem setEvq_rowCounts (k : Nat) (x : EventQ) (s : Dev) : (setEvq k x s).rowCounts = s.rowCounts := rfl
@[simp] theorem setEvq_scrubSince (k : Nat) (x : EventQ) (s : Dev) : (setEvq k x s).scrubSince = s.scrubSince := rfl
@[simp] theorem setEvq_power (k : Nat) (x : EventQ) (s : Dev) : (setEvq k x s).power = s.power := rfl
@[simp] theorem setEvq_wakes (k : Nat) (x : EventQ) (s : Dev) : (setEvq k x s).wakes = s.wakes := rfl
@[simp] theorem setEvq_transitReset (k : Nat) (x : EventQ) (s : Dev) : (setEvq k x s).transitReset = s.transitReset := rfl
@[simp] theorem setEvq_refLost (k : Nat) (x : EventQ) (s : Dev) : (setEvq k x s).refLost = s.refLost := rfl

/-! ## setFab -/

@[simp] theorem setFab_now (k : Nat) (x : FabRegs) (s : Dev) : (setFab k x s).now = s.now := rfl
@[simp] theorem setFab_ready (k : Nat) (x : FabRegs) (s : Dev) : (setFab k x s).ready = s.ready := rfl
@[simp] theorem setFab_dataStopped (k : Nat) (x : FabRegs) (s : Dev) : (setFab k x s).dataStopped = s.dataStopped := rfl
@[simp] theorem setFab_routeHa (k : Nat) (x : FabRegs) (s : Dev) : (setFab k x s).routeHa = s.routeHa := rfl
@[simp] theorem setFab_evtHa (k : Nat) (x : FabRegs) (s : Dev) : (setFab k x s).evtHa = s.evtHa := rfl
@[simp] theorem setFab_grade (k : Nat) (x : FabRegs) (s : Dev) : (setFab k x s).grade = s.grade := rfl
@[simp] theorem setFab_cfgVer (k : Nat) (x : FabRegs) (s : Dev) : (setFab k x s).cfgVer = s.cfgVer := rfl
@[simp] theorem setFab_cores (k : Nat) (x : FabRegs) (s : Dev) : (setFab k x s).cores = s.cores := rfl
@[simp] theorem setFab_coreHungAt (k : Nat) (x : FabRegs) (s : Dev) : (setFab k x s).coreHungAt = s.coreHungAt := rfl
@[simp] theorem setFab_coreTimeouts (k : Nat) (x : FabRegs) (s : Dev) : (setFab k x s).coreTimeouts = s.coreTimeouts := rfl
@[simp] theorem setFab_triage (k : Nat) (x : FabRegs) (s : Dev) : (setFab k x s).triage = s.triage := rfl
@[simp] theorem setFab_mem (k : Nat) (x : FabRegs) (s : Dev) : (setFab k x s).mem = s.mem := rfl
@[simp] theorem setFab_poison (k : Nat) (x : FabRegs) (s : Dev) : (setFab k x s).poison = s.poison := rfl
@[simp] theorem setFab_out (k : Nat) (x : FabRegs) (s : Dev) : (setFab k x s).out = s.out := rfl
@[simp] theorem setFab_freeCtr (k : Nat) (x : FabRegs) (s : Dev) : (setFab k x s).freeCtr = s.freeCtr := rfl
@[simp] theorem setFab_timedOut (k : Nat) (x : FabRegs) (s : Dev) : (setFab k x s).timedOut = s.timedOut := rfl
@[simp] theorem setFab_counters (k : Nat) (x : FabRegs) (s : Dev) : (setFab k x s).counters = s.counters := rfl
@[simp] theorem setFab_slices (k : Nat) (x : FabRegs) (s : Dev) : (setFab k x s).slices = s.slices := rfl
@[simp] theorem setFab_pushPages (k : Nat) (x : FabRegs) (s : Dev) : (setFab k x s).pushPages = s.pushPages := rfl
@[simp] theorem setFab_qps (k : Nat) (x : FabRegs) (s : Dev) : (setFab k x s).qps = s.qps := rfl
@[simp] theorem setFab_gens (k : Nat) (x : FabRegs) (s : Dev) : (setFab k x s).gens = s.gens := rfl
@[simp] theorem setFab_qpFreed (k : Nat) (x : FabRegs) (s : Dev) : (setFab k x s).qpFreed = s.qpFreed := rfl
@[simp] theorem setFab_cqs (k : Nat) (x : FabRegs) (s : Dev) : (setFab k x s).cqs = s.cqs := rfl
@[simp] theorem setFab_windows (k : Nat) (x : FabRegs) (s : Dev) : (setFab k x s).windows = s.windows := rfl
@[simp] theorem setFab_xlt (k : Nat) (x : FabRegs) (s : Dev) : (setFab k x s).xlt = s.xlt := rfl
@[simp] theorem setFab_miss (k : Nat) (x : FabRegs) (s : Dev) : (setFab k x s).miss = s.miss := rfl
@[simp] theorem setFab_programs (k : Nat) (x : FabRegs) (s : Dev) : (setFab k x s).programs = s.programs := rfl
@[simp] theorem setFab_items (k : Nat) (x : FabRegs) (s : Dev) : (setFab k x s).items = s.items := rfl
@[simp] theorem setFab_locks (k : Nat) (x : FabRegs) (s : Dev) : (setFab k x s).locks = s.locks := rfl
@[simp] theorem setFab_lockQ (k : Nat) (x : FabRegs) (s : Dev) : (setFab k x s).lockQ = s.lockQ := rfl
@[simp] theorem setFab_accums (k : Nat) (x : FabRegs) (s : Dev) : (setFab k x s).accums = s.accums := rfl
@[simp] theorem setFab_engines (k : Nat) (x : FabRegs) (s : Dev) : (setFab k x s).engines = s.engines := rfl
@[simp] theorem setFab_groups (k : Nat) (x : FabRegs) (s : Dev) : (setFab k x s).groups = s.groups := rfl
@[simp] theorem setFab_streams (k : Nat) (x : FabRegs) (s : Dev) : (setFab k x s).streams = s.streams := rfl
@[simp] theorem setFab_seqMsgs (k : Nat) (x : FabRegs) (s : Dev) : (setFab k x s).seqMsgs = s.seqMsgs := rfl
@[simp] theorem setFab_triggers (k : Nat) (x : FabRegs) (s : Dev) : (setFab k x s).triggers = s.triggers := rfl
@[simp] theorem setFab_fabRegs (k : Nat) (x : FabRegs) (s : Dev) : (setFab k x s).fabRegs = tset s.fabRegs k x := rfl
@[simp] theorem setFab_ports (k : Nat) (x : FabRegs) (s : Dev) : (setFab k x s).ports = s.ports := rfl
@[simp] theorem setFab_routing (k : Nat) (x : FabRegs) (s : Dev) : (setFab k x s).routing = s.routing := rfl
@[simp] theorem setFab_escWaiting (k : Nat) (x : FabRegs) (s : Dev) : (setFab k x s).escWaiting = s.escWaiting := rfl
@[simp] theorem setFab_shapers (k : Nat) (x : FabRegs) (s : Dev) : (setFab k x s).shapers = s.shapers := rfl
@[simp] theorem setFab_profiles (k : Nat) (x : FabRegs) (s : Dev) : (setFab k x s).profiles = s.profiles := rfl
@[simp] theorem setFab_ceThresh (k : Nat) (x : FabRegs) (s : Dev) : (setFab k x s).ceThresh = s.ceThresh := rfl
@[simp] theorem setFab_rtoBase (k : Nat) (x : FabRegs) (s : Dev) : (setFab k x s).rtoBase = s.rtoBase := rfl
@[simp] theorem setFab_stamps (k : Nat) (x : FabRegs) (s : Dev) : (setFab k x s).stamps = s.stamps := rfl
@[simp] theorem setFab_monitors (k : Nat) (x : FabRegs) (s : Dev) : (setFab k x s).monitors = s.monitors := rfl
@[simp] theorem setFab_lastSample (k : Nat) (x : FabRegs) (s : Dev) : (setFab k x s).lastSample = s.lastSample := rfl
@[simp] theorem setFab_watermarks (k : Nat) (x : FabRegs) (s : Dev) : (setFab k x s).watermarks = s.watermarks := rfl
@[simp] theorem setFab_time (k : Nat) (x : FabRegs) (s : Dev) : (setFab k x s).time = s.time := rfl
@[simp] theorem setFab_host (k : Nat) (x : FabRegs) (s : Dev) : (setFab k x s).host = s.host := rfl
@[simp] theorem setFab_pasidEn (k : Nat) (x : FabRegs) (s : Dev) : (setFab k x s).pasidEn = s.pasidEn := rfl
@[simp] theorem setFab_winTarget (k : Nat) (x : FabRegs) (s : Dev) : (setFab k x s).winTarget = s.winTarget := rfl
@[simp] theorem setFab_winBase (k : Nat) (x : FabRegs) (s : Dev) : (setFab k x s).winBase = s.winBase := rfl
@[simp] theorem setFab_accs (k : Nat) (x : FabRegs) (s : Dev) : (setFab k x s).accs = s.accs := rfl
@[simp] theorem setFab_portReads (k : Nat) (x : FabRegs) (s : Dev) : (setFab k x s).portReads = s.portReads := rfl
@[simp] theorem setFab_readNo (k : Nat) (x : FabRegs) (s : Dev) : (setFab k x s).readNo = s.readNo := rfl
@[simp] theorem setFab_postNo (k : Nat) (x : FabRegs) (s : Dev) : (setFab k x s).postNo = s.postNo := rfl
@[simp] theorem setFab_staleReads (k : Nat) (x : FabRegs) (s : Dev) : (setFab k x s).staleReads = s.staleReads := rfl
@[simp] theorem setFab_barReads (k : Nat) (x : FabRegs) (s : Dev) : (setFab k x s).barReads = s.barReads := rfl
@[simp] theorem setFab_adminQ (k : Nat) (x : FabRegs) (s : Dev) : (setFab k x s).adminQ = s.adminQ := rfl
@[simp] theorem setFab_started (k : Nat) (x : FabRegs) (s : Dev) : (setFab k x s).started = s.started := rfl
@[simp] theorem setFab_waits (k : Nat) (x : FabRegs) (s : Dev) : (setFab k x s).waits = s.waits := rfl
@[simp] theorem setFab_eventQ (k : Nat) (x : FabRegs) (s : Dev) : (setFab k x s).eventQ = s.eventQ := rfl
@[simp] theorem setFab_keySlots (k : Nat) (x : FabRegs) (s : Dev) : (setFab k x s).keySlots = s.keySlots := rfl
@[simp] theorem setFab_keySerials (k : Nat) (x : FabRegs) (s : Dev) : (setFab k x s).keySerials = s.keySerials := rfl
@[simp] theorem setFab_sec (k : Nat) (x : FabRegs) (s : Dev) : (setFab k x s).sec = s.sec := rfl
@[simp] theorem setFab_errBanks (k : Nat) (x : FabRegs) (s : Dev) : (setFab k x s).errBanks = s.errBanks := rfl
@[simp] theorem setFab_dies (k : Nat) (x : FabRegs) (s : Dev) : (setFab k x s).dies = s.dies := rfl
@[simp] theorem setFab_zeroing (k : Nat) (x : FabRegs) (s : Dev) : (setFab k x s).zeroing = s.zeroing := rfl
@[simp] theorem setFab_scrubHours (k : Nat) (x : FabRegs) (s : Dev) : (setFab k x s).scrubHours = s.scrubHours := rfl
@[simp] theorem setFab_rowThresh (k : Nat) (x : FabRegs) (s : Dev) : (setFab k x s).rowThresh = s.rowThresh := rfl
@[simp] theorem setFab_rowCounts (k : Nat) (x : FabRegs) (s : Dev) : (setFab k x s).rowCounts = s.rowCounts := rfl
@[simp] theorem setFab_scrubSince (k : Nat) (x : FabRegs) (s : Dev) : (setFab k x s).scrubSince = s.scrubSince := rfl
@[simp] theorem setFab_power (k : Nat) (x : FabRegs) (s : Dev) : (setFab k x s).power = s.power := rfl
@[simp] theorem setFab_wakes (k : Nat) (x : FabRegs) (s : Dev) : (setFab k x s).wakes = s.wakes := rfl
@[simp] theorem setFab_transitReset (k : Nat) (x : FabRegs) (s : Dev) : (setFab k x s).transitReset = s.transitReset := rfl
@[simp] theorem setFab_refLost (k : Nat) (x : FabRegs) (s : Dev) : (setFab k x s).refLost = s.refLost := rfl

/-! ## setPower -/

@[simp] theorem setPower_now (k : PowerObj) (x : Power) (s : Dev) : (setPower k x s).now = s.now := rfl
@[simp] theorem setPower_ready (k : PowerObj) (x : Power) (s : Dev) : (setPower k x s).ready = s.ready := rfl
@[simp] theorem setPower_dataStopped (k : PowerObj) (x : Power) (s : Dev) : (setPower k x s).dataStopped = s.dataStopped := rfl
@[simp] theorem setPower_routeHa (k : PowerObj) (x : Power) (s : Dev) : (setPower k x s).routeHa = s.routeHa := rfl
@[simp] theorem setPower_evtHa (k : PowerObj) (x : Power) (s : Dev) : (setPower k x s).evtHa = s.evtHa := rfl
@[simp] theorem setPower_grade (k : PowerObj) (x : Power) (s : Dev) : (setPower k x s).grade = s.grade := rfl
@[simp] theorem setPower_cfgVer (k : PowerObj) (x : Power) (s : Dev) : (setPower k x s).cfgVer = s.cfgVer := rfl
@[simp] theorem setPower_cores (k : PowerObj) (x : Power) (s : Dev) : (setPower k x s).cores = s.cores := rfl
@[simp] theorem setPower_coreHungAt (k : PowerObj) (x : Power) (s : Dev) : (setPower k x s).coreHungAt = s.coreHungAt := rfl
@[simp] theorem setPower_coreTimeouts (k : PowerObj) (x : Power) (s : Dev) : (setPower k x s).coreTimeouts = s.coreTimeouts := rfl
@[simp] theorem setPower_triage (k : PowerObj) (x : Power) (s : Dev) : (setPower k x s).triage = s.triage := rfl
@[simp] theorem setPower_mem (k : PowerObj) (x : Power) (s : Dev) : (setPower k x s).mem = s.mem := rfl
@[simp] theorem setPower_poison (k : PowerObj) (x : Power) (s : Dev) : (setPower k x s).poison = s.poison := rfl
@[simp] theorem setPower_out (k : PowerObj) (x : Power) (s : Dev) : (setPower k x s).out = s.out := rfl
@[simp] theorem setPower_freeCtr (k : PowerObj) (x : Power) (s : Dev) : (setPower k x s).freeCtr = s.freeCtr := rfl
@[simp] theorem setPower_timedOut (k : PowerObj) (x : Power) (s : Dev) : (setPower k x s).timedOut = s.timedOut := rfl
@[simp] theorem setPower_counters (k : PowerObj) (x : Power) (s : Dev) : (setPower k x s).counters = s.counters := rfl
@[simp] theorem setPower_slices (k : PowerObj) (x : Power) (s : Dev) : (setPower k x s).slices = s.slices := rfl
@[simp] theorem setPower_pushPages (k : PowerObj) (x : Power) (s : Dev) : (setPower k x s).pushPages = s.pushPages := rfl
@[simp] theorem setPower_qps (k : PowerObj) (x : Power) (s : Dev) : (setPower k x s).qps = s.qps := rfl
@[simp] theorem setPower_gens (k : PowerObj) (x : Power) (s : Dev) : (setPower k x s).gens = s.gens := rfl
@[simp] theorem setPower_qpFreed (k : PowerObj) (x : Power) (s : Dev) : (setPower k x s).qpFreed = s.qpFreed := rfl
@[simp] theorem setPower_cqs (k : PowerObj) (x : Power) (s : Dev) : (setPower k x s).cqs = s.cqs := rfl
@[simp] theorem setPower_windows (k : PowerObj) (x : Power) (s : Dev) : (setPower k x s).windows = s.windows := rfl
@[simp] theorem setPower_xlt (k : PowerObj) (x : Power) (s : Dev) : (setPower k x s).xlt = s.xlt := rfl
@[simp] theorem setPower_miss (k : PowerObj) (x : Power) (s : Dev) : (setPower k x s).miss = s.miss := rfl
@[simp] theorem setPower_programs (k : PowerObj) (x : Power) (s : Dev) : (setPower k x s).programs = s.programs := rfl
@[simp] theorem setPower_items (k : PowerObj) (x : Power) (s : Dev) : (setPower k x s).items = s.items := rfl
@[simp] theorem setPower_locks (k : PowerObj) (x : Power) (s : Dev) : (setPower k x s).locks = s.locks := rfl
@[simp] theorem setPower_lockQ (k : PowerObj) (x : Power) (s : Dev) : (setPower k x s).lockQ = s.lockQ := rfl
@[simp] theorem setPower_accums (k : PowerObj) (x : Power) (s : Dev) : (setPower k x s).accums = s.accums := rfl
@[simp] theorem setPower_engines (k : PowerObj) (x : Power) (s : Dev) : (setPower k x s).engines = s.engines := rfl
@[simp] theorem setPower_groups (k : PowerObj) (x : Power) (s : Dev) : (setPower k x s).groups = s.groups := rfl
@[simp] theorem setPower_streams (k : PowerObj) (x : Power) (s : Dev) : (setPower k x s).streams = s.streams := rfl
@[simp] theorem setPower_seqMsgs (k : PowerObj) (x : Power) (s : Dev) : (setPower k x s).seqMsgs = s.seqMsgs := rfl
@[simp] theorem setPower_triggers (k : PowerObj) (x : Power) (s : Dev) : (setPower k x s).triggers = s.triggers := rfl
@[simp] theorem setPower_fabRegs (k : PowerObj) (x : Power) (s : Dev) : (setPower k x s).fabRegs = s.fabRegs := rfl
@[simp] theorem setPower_ports (k : PowerObj) (x : Power) (s : Dev) : (setPower k x s).ports = s.ports := rfl
@[simp] theorem setPower_routing (k : PowerObj) (x : Power) (s : Dev) : (setPower k x s).routing = s.routing := rfl
@[simp] theorem setPower_escWaiting (k : PowerObj) (x : Power) (s : Dev) : (setPower k x s).escWaiting = s.escWaiting := rfl
@[simp] theorem setPower_shapers (k : PowerObj) (x : Power) (s : Dev) : (setPower k x s).shapers = s.shapers := rfl
@[simp] theorem setPower_profiles (k : PowerObj) (x : Power) (s : Dev) : (setPower k x s).profiles = s.profiles := rfl
@[simp] theorem setPower_ceThresh (k : PowerObj) (x : Power) (s : Dev) : (setPower k x s).ceThresh = s.ceThresh := rfl
@[simp] theorem setPower_rtoBase (k : PowerObj) (x : Power) (s : Dev) : (setPower k x s).rtoBase = s.rtoBase := rfl
@[simp] theorem setPower_stamps (k : PowerObj) (x : Power) (s : Dev) : (setPower k x s).stamps = s.stamps := rfl
@[simp] theorem setPower_monitors (k : PowerObj) (x : Power) (s : Dev) : (setPower k x s).monitors = s.monitors := rfl
@[simp] theorem setPower_lastSample (k : PowerObj) (x : Power) (s : Dev) : (setPower k x s).lastSample = s.lastSample := rfl
@[simp] theorem setPower_watermarks (k : PowerObj) (x : Power) (s : Dev) : (setPower k x s).watermarks = s.watermarks := rfl
@[simp] theorem setPower_time (k : PowerObj) (x : Power) (s : Dev) : (setPower k x s).time = s.time := rfl
@[simp] theorem setPower_host (k : PowerObj) (x : Power) (s : Dev) : (setPower k x s).host = s.host := rfl
@[simp] theorem setPower_pasidEn (k : PowerObj) (x : Power) (s : Dev) : (setPower k x s).pasidEn = s.pasidEn := rfl
@[simp] theorem setPower_winTarget (k : PowerObj) (x : Power) (s : Dev) : (setPower k x s).winTarget = s.winTarget := rfl
@[simp] theorem setPower_winBase (k : PowerObj) (x : Power) (s : Dev) : (setPower k x s).winBase = s.winBase := rfl
@[simp] theorem setPower_accs (k : PowerObj) (x : Power) (s : Dev) : (setPower k x s).accs = s.accs := rfl
@[simp] theorem setPower_portReads (k : PowerObj) (x : Power) (s : Dev) : (setPower k x s).portReads = s.portReads := rfl
@[simp] theorem setPower_readNo (k : PowerObj) (x : Power) (s : Dev) : (setPower k x s).readNo = s.readNo := rfl
@[simp] theorem setPower_postNo (k : PowerObj) (x : Power) (s : Dev) : (setPower k x s).postNo = s.postNo := rfl
@[simp] theorem setPower_staleReads (k : PowerObj) (x : Power) (s : Dev) : (setPower k x s).staleReads = s.staleReads := rfl
@[simp] theorem setPower_barReads (k : PowerObj) (x : Power) (s : Dev) : (setPower k x s).barReads = s.barReads := rfl
@[simp] theorem setPower_adminQ (k : PowerObj) (x : Power) (s : Dev) : (setPower k x s).adminQ = s.adminQ := rfl
@[simp] theorem setPower_started (k : PowerObj) (x : Power) (s : Dev) : (setPower k x s).started = s.started := rfl
@[simp] theorem setPower_waits (k : PowerObj) (x : Power) (s : Dev) : (setPower k x s).waits = s.waits := rfl
@[simp] theorem setPower_eventQ (k : PowerObj) (x : Power) (s : Dev) : (setPower k x s).eventQ = s.eventQ := rfl
@[simp] theorem setPower_keySlots (k : PowerObj) (x : Power) (s : Dev) : (setPower k x s).keySlots = s.keySlots := rfl
@[simp] theorem setPower_keySerials (k : PowerObj) (x : Power) (s : Dev) : (setPower k x s).keySerials = s.keySerials := rfl
@[simp] theorem setPower_sec (k : PowerObj) (x : Power) (s : Dev) : (setPower k x s).sec = s.sec := rfl
@[simp] theorem setPower_errBanks (k : PowerObj) (x : Power) (s : Dev) : (setPower k x s).errBanks = s.errBanks := rfl
@[simp] theorem setPower_dies (k : PowerObj) (x : Power) (s : Dev) : (setPower k x s).dies = s.dies := rfl
@[simp] theorem setPower_zeroing (k : PowerObj) (x : Power) (s : Dev) : (setPower k x s).zeroing = s.zeroing := rfl
@[simp] theorem setPower_scrubHours (k : PowerObj) (x : Power) (s : Dev) : (setPower k x s).scrubHours = s.scrubHours := rfl
@[simp] theorem setPower_rowThresh (k : PowerObj) (x : Power) (s : Dev) : (setPower k x s).rowThresh = s.rowThresh := rfl
@[simp] theorem setPower_rowCounts (k : PowerObj) (x : Power) (s : Dev) : (setPower k x s).rowCounts = s.rowCounts := rfl
@[simp] theorem setPower_scrubSince (k : PowerObj) (x : Power) (s : Dev) : (setPower k x s).scrubSince = s.scrubSince := rfl
@[simp] theorem setPower_power (k : PowerObj) (x : Power) (s : Dev) : (setPower k x s).power = tset s.power (powerKey k) x := rfl
@[simp] theorem setPower_wakes (k : PowerObj) (x : Power) (s : Dev) : (setPower k x s).wakes = s.wakes := rfl
@[simp] theorem setPower_transitReset (k : PowerObj) (x : Power) (s : Dev) : (setPower k x s).transitReset = s.transitReset := rfl
@[simp] theorem setPower_refLost (k : PowerObj) (x : Power) (s : Dev) : (setPower k x s).refLost = s.refLost := rfl

/-! ## setGroup -/

@[simp] theorem setGroup_now (k : Nat) (x : Group) (s : Dev) : (setGroup k x s).now = s.now := rfl
@[simp] theorem setGroup_ready (k : Nat) (x : Group) (s : Dev) : (setGroup k x s).ready = s.ready := rfl
@[simp] theorem setGroup_dataStopped (k : Nat) (x : Group) (s : Dev) : (setGroup k x s).dataStopped = s.dataStopped := rfl
@[simp] theorem setGroup_routeHa (k : Nat) (x : Group) (s : Dev) : (setGroup k x s).routeHa = s.routeHa := rfl
@[simp] theorem setGroup_evtHa (k : Nat) (x : Group) (s : Dev) : (setGroup k x s).evtHa = s.evtHa := rfl
@[simp] theorem setGroup_grade (k : Nat) (x : Group) (s : Dev) : (setGroup k x s).grade = s.grade := rfl
@[simp] theorem setGroup_cfgVer (k : Nat) (x : Group) (s : Dev) : (setGroup k x s).cfgVer = s.cfgVer := rfl
@[simp] theorem setGroup_cores (k : Nat) (x : Group) (s : Dev) : (setGroup k x s).cores = s.cores := rfl
@[simp] theorem setGroup_coreHungAt (k : Nat) (x : Group) (s : Dev) : (setGroup k x s).coreHungAt = s.coreHungAt := rfl
@[simp] theorem setGroup_coreTimeouts (k : Nat) (x : Group) (s : Dev) : (setGroup k x s).coreTimeouts = s.coreTimeouts := rfl
@[simp] theorem setGroup_triage (k : Nat) (x : Group) (s : Dev) : (setGroup k x s).triage = s.triage := rfl
@[simp] theorem setGroup_mem (k : Nat) (x : Group) (s : Dev) : (setGroup k x s).mem = s.mem := rfl
@[simp] theorem setGroup_poison (k : Nat) (x : Group) (s : Dev) : (setGroup k x s).poison = s.poison := rfl
@[simp] theorem setGroup_out (k : Nat) (x : Group) (s : Dev) : (setGroup k x s).out = s.out := rfl
@[simp] theorem setGroup_freeCtr (k : Nat) (x : Group) (s : Dev) : (setGroup k x s).freeCtr = s.freeCtr := rfl
@[simp] theorem setGroup_timedOut (k : Nat) (x : Group) (s : Dev) : (setGroup k x s).timedOut = s.timedOut := rfl
@[simp] theorem setGroup_counters (k : Nat) (x : Group) (s : Dev) : (setGroup k x s).counters = s.counters := rfl
@[simp] theorem setGroup_slices (k : Nat) (x : Group) (s : Dev) : (setGroup k x s).slices = s.slices := rfl
@[simp] theorem setGroup_pushPages (k : Nat) (x : Group) (s : Dev) : (setGroup k x s).pushPages = s.pushPages := rfl
@[simp] theorem setGroup_qps (k : Nat) (x : Group) (s : Dev) : (setGroup k x s).qps = s.qps := rfl
@[simp] theorem setGroup_gens (k : Nat) (x : Group) (s : Dev) : (setGroup k x s).gens = s.gens := rfl
@[simp] theorem setGroup_qpFreed (k : Nat) (x : Group) (s : Dev) : (setGroup k x s).qpFreed = s.qpFreed := rfl
@[simp] theorem setGroup_cqs (k : Nat) (x : Group) (s : Dev) : (setGroup k x s).cqs = s.cqs := rfl
@[simp] theorem setGroup_windows (k : Nat) (x : Group) (s : Dev) : (setGroup k x s).windows = s.windows := rfl
@[simp] theorem setGroup_xlt (k : Nat) (x : Group) (s : Dev) : (setGroup k x s).xlt = s.xlt := rfl
@[simp] theorem setGroup_miss (k : Nat) (x : Group) (s : Dev) : (setGroup k x s).miss = s.miss := rfl
@[simp] theorem setGroup_programs (k : Nat) (x : Group) (s : Dev) : (setGroup k x s).programs = s.programs := rfl
@[simp] theorem setGroup_items (k : Nat) (x : Group) (s : Dev) : (setGroup k x s).items = s.items := rfl
@[simp] theorem setGroup_locks (k : Nat) (x : Group) (s : Dev) : (setGroup k x s).locks = s.locks := rfl
@[simp] theorem setGroup_lockQ (k : Nat) (x : Group) (s : Dev) : (setGroup k x s).lockQ = s.lockQ := rfl
@[simp] theorem setGroup_accums (k : Nat) (x : Group) (s : Dev) : (setGroup k x s).accums = s.accums := rfl
@[simp] theorem setGroup_engines (k : Nat) (x : Group) (s : Dev) : (setGroup k x s).engines = s.engines := rfl
@[simp] theorem setGroup_groups (k : Nat) (x : Group) (s : Dev) : (setGroup k x s).groups = tset s.groups k x := rfl
@[simp] theorem setGroup_streams (k : Nat) (x : Group) (s : Dev) : (setGroup k x s).streams = s.streams := rfl
@[simp] theorem setGroup_seqMsgs (k : Nat) (x : Group) (s : Dev) : (setGroup k x s).seqMsgs = s.seqMsgs := rfl
@[simp] theorem setGroup_triggers (k : Nat) (x : Group) (s : Dev) : (setGroup k x s).triggers = s.triggers := rfl
@[simp] theorem setGroup_fabRegs (k : Nat) (x : Group) (s : Dev) : (setGroup k x s).fabRegs = s.fabRegs := rfl
@[simp] theorem setGroup_ports (k : Nat) (x : Group) (s : Dev) : (setGroup k x s).ports = s.ports := rfl
@[simp] theorem setGroup_routing (k : Nat) (x : Group) (s : Dev) : (setGroup k x s).routing = s.routing := rfl
@[simp] theorem setGroup_escWaiting (k : Nat) (x : Group) (s : Dev) : (setGroup k x s).escWaiting = s.escWaiting := rfl
@[simp] theorem setGroup_shapers (k : Nat) (x : Group) (s : Dev) : (setGroup k x s).shapers = s.shapers := rfl
@[simp] theorem setGroup_profiles (k : Nat) (x : Group) (s : Dev) : (setGroup k x s).profiles = s.profiles := rfl
@[simp] theorem setGroup_ceThresh (k : Nat) (x : Group) (s : Dev) : (setGroup k x s).ceThresh = s.ceThresh := rfl
@[simp] theorem setGroup_rtoBase (k : Nat) (x : Group) (s : Dev) : (setGroup k x s).rtoBase = s.rtoBase := rfl
@[simp] theorem setGroup_stamps (k : Nat) (x : Group) (s : Dev) : (setGroup k x s).stamps = s.stamps := rfl
@[simp] theorem setGroup_monitors (k : Nat) (x : Group) (s : Dev) : (setGroup k x s).monitors = s.monitors := rfl
@[simp] theorem setGroup_lastSample (k : Nat) (x : Group) (s : Dev) : (setGroup k x s).lastSample = s.lastSample := rfl
@[simp] theorem setGroup_watermarks (k : Nat) (x : Group) (s : Dev) : (setGroup k x s).watermarks = s.watermarks := rfl
@[simp] theorem setGroup_time (k : Nat) (x : Group) (s : Dev) : (setGroup k x s).time = s.time := rfl
@[simp] theorem setGroup_host (k : Nat) (x : Group) (s : Dev) : (setGroup k x s).host = s.host := rfl
@[simp] theorem setGroup_pasidEn (k : Nat) (x : Group) (s : Dev) : (setGroup k x s).pasidEn = s.pasidEn := rfl
@[simp] theorem setGroup_winTarget (k : Nat) (x : Group) (s : Dev) : (setGroup k x s).winTarget = s.winTarget := rfl
@[simp] theorem setGroup_winBase (k : Nat) (x : Group) (s : Dev) : (setGroup k x s).winBase = s.winBase := rfl
@[simp] theorem setGroup_accs (k : Nat) (x : Group) (s : Dev) : (setGroup k x s).accs = s.accs := rfl
@[simp] theorem setGroup_portReads (k : Nat) (x : Group) (s : Dev) : (setGroup k x s).portReads = s.portReads := rfl
@[simp] theorem setGroup_readNo (k : Nat) (x : Group) (s : Dev) : (setGroup k x s).readNo = s.readNo := rfl
@[simp] theorem setGroup_postNo (k : Nat) (x : Group) (s : Dev) : (setGroup k x s).postNo = s.postNo := rfl
@[simp] theorem setGroup_staleReads (k : Nat) (x : Group) (s : Dev) : (setGroup k x s).staleReads = s.staleReads := rfl
@[simp] theorem setGroup_barReads (k : Nat) (x : Group) (s : Dev) : (setGroup k x s).barReads = s.barReads := rfl
@[simp] theorem setGroup_adminQ (k : Nat) (x : Group) (s : Dev) : (setGroup k x s).adminQ = s.adminQ := rfl
@[simp] theorem setGroup_started (k : Nat) (x : Group) (s : Dev) : (setGroup k x s).started = s.started := rfl
@[simp] theorem setGroup_waits (k : Nat) (x : Group) (s : Dev) : (setGroup k x s).waits = s.waits := rfl
@[simp] theorem setGroup_eventQ (k : Nat) (x : Group) (s : Dev) : (setGroup k x s).eventQ = s.eventQ := rfl
@[simp] theorem setGroup_keySlots (k : Nat) (x : Group) (s : Dev) : (setGroup k x s).keySlots = s.keySlots := rfl
@[simp] theorem setGroup_keySerials (k : Nat) (x : Group) (s : Dev) : (setGroup k x s).keySerials = s.keySerials := rfl
@[simp] theorem setGroup_sec (k : Nat) (x : Group) (s : Dev) : (setGroup k x s).sec = s.sec := rfl
@[simp] theorem setGroup_errBanks (k : Nat) (x : Group) (s : Dev) : (setGroup k x s).errBanks = s.errBanks := rfl
@[simp] theorem setGroup_dies (k : Nat) (x : Group) (s : Dev) : (setGroup k x s).dies = s.dies := rfl
@[simp] theorem setGroup_zeroing (k : Nat) (x : Group) (s : Dev) : (setGroup k x s).zeroing = s.zeroing := rfl
@[simp] theorem setGroup_scrubHours (k : Nat) (x : Group) (s : Dev) : (setGroup k x s).scrubHours = s.scrubHours := rfl
@[simp] theorem setGroup_rowThresh (k : Nat) (x : Group) (s : Dev) : (setGroup k x s).rowThresh = s.rowThresh := rfl
@[simp] theorem setGroup_rowCounts (k : Nat) (x : Group) (s : Dev) : (setGroup k x s).rowCounts = s.rowCounts := rfl
@[simp] theorem setGroup_scrubSince (k : Nat) (x : Group) (s : Dev) : (setGroup k x s).scrubSince = s.scrubSince := rfl
@[simp] theorem setGroup_power (k : Nat) (x : Group) (s : Dev) : (setGroup k x s).power = s.power := rfl
@[simp] theorem setGroup_wakes (k : Nat) (x : Group) (s : Dev) : (setGroup k x s).wakes = s.wakes := rfl
@[simp] theorem setGroup_transitReset (k : Nat) (x : Group) (s : Dev) : (setGroup k x s).transitReset = s.transitReset := rfl
@[simp] theorem setGroup_refLost (k : Nat) (x : Group) (s : Dev) : (setGroup k x s).refLost = s.refLost := rfl

/-! ## Objects read back -/

@[simp] theorem getSlice_setSlice (k : Nat) (x : Slice) (s : Dev) : getSlice (setSlice k x s) k = x := by simp [getSlice]
theorem getSlice_setSlice_ne {k j : Nat} (x : Slice) (s : Dev) (h : j ≠ k) : getSlice (setSlice k x s) j = getSlice s j := by
  simp [getSlice, tgetD_tset_ne _ _ _ h]
@[simp] theorem getQp_setQp (k : Nat) (x : Qp) (s : Dev) : getQp (setQp k x s) k = some x := by simp [getQp]
theorem getQp_setQp_ne {k j : Nat} (x : Qp) (s : Dev) (h : j ≠ k) : getQp (setQp k x s) j = getQp s j := by
  simp [getQp, tget_tset_ne _ _ h]
@[simp] theorem getPort_setPort (k : Nat) (x : FPort) (s : Dev) : getPort (setPort k x s) k = x := by simp [getPort]
theorem getPort_setPort_ne {k j : Nat} (x : FPort) (s : Dev) (h : j ≠ k) : getPort (setPort k x s) j = getPort s j := by
  simp [getPort, tgetD_tset_ne _ _ _ h]
@[simp] theorem getAq_setAq (k : Nat) (x : AdminQ) (s : Dev) : getAq (setAq k x s) k = x := by simp [getAq]
theorem getAq_setAq_ne {k j : Nat} (x : AdminQ) (s : Dev) (h : j ≠ k) : getAq (setAq k x s) j = getAq s j := by
  simp [getAq, tgetD_tset_ne _ _ _ h]
@[simp] theorem getEvq_setEvq (k : Nat) (x : EventQ) (s : Dev) : getEvq (setEvq k x s) k = x := by simp [getEvq]
theorem getEvq_setEvq_ne {k j : Nat} (x : EventQ) (s : Dev) (h : j ≠ k) : getEvq (setEvq k x s) j = getEvq s j := by
  simp [getEvq, tgetD_tset_ne _ _ _ h]
@[simp] theorem getFab_setFab (k : Nat) (x : FabRegs) (s : Dev) : getFab (setFab k x s) k = x := by simp [getFab]
theorem getFab_setFab_ne {k j : Nat} (x : FabRegs) (s : Dev) (h : j ≠ k) : getFab (setFab k x s) j = getFab s j := by
  simp [getFab, tgetD_tset_ne _ _ _ h]
@[simp] theorem getIo_setIo (k : Nat) (x : IoPort) (s : Dev) : getIo (setIo k x s) k = x := by
  by_cases h : k = 15 <;> simp [getIo, setIo, h]

/-! ## Counters (R513) -/

/-- A counter gains what is added, and stays at its largest value. -/
theorem counter_bumpBy (c i n : Nat) (s : Dev) (hn : n ≠ 0) : counter (bumpBy c i n s) c i = sat 64 (counter s c i + n) := by
  simp [counter, bumpBy, hn]

/-- Every other counter stays. -/
theorem counter_bumpBy_ne {c i d j n : Nat} (s : Dev) (h : counterKey d j ≠ counterKey c i) :
    counter (bumpBy c i n s) d j = counter s d j := by
  unfold counter bumpBy
  split
  · rfl
  · exact tgetD_tset_ne _ _ _ h

end Sys2Proof.Machine
end

