-- ==== Sys2Proof/Tests/Slice0.lean ====
section
/-!
SUPPORT. Sys2Proof/Tests/Slice0.lean: the tests: for every statement about the machine one witness of the hypotheses of each of its
clauses, ill-formed terms that WellFormed refuses, and small tests whose expected values come from the manual.
-/
set_option Elab.async false
open Sys2Proof Sys2Proof.Machine
namespace Sys2Proof.Tests

/-! ## A small adapter that works: slice 3, queue pair 5, completion queue 9, and what else the tests name -/

/-- The adapter at work, with `d` as the rest of it. -/
def st (d : Dev) : State := ⟨[], { Ao.reset with phase := .running, booted := true }, d⟩

/-- Slice 3: LIVE, every accelerator and class, room in every quota, one extent. -/
def sl : Slice := { Slice.free with
  st := .live, accMask := 0xFF, classMask := 0xFF, extents := [(0x80000000, 0x4000000)], pasid := 77,
  limits := [100, 100, 100, 100, 100, 100, 100, 100, 100, 100, 100, 100, 100] }

def rg : Ring := ⟨0, 0x10000, 6, 0, 0⟩
def Q : Qp := { newQp Dev.reset 3 7 rg rg with cached := true }

/-- Queue pair 5 as it works. -/
def QL : Qp := { Q with st := .live }
def C : Cq := newCq 3 ⟨0, 0x20000, 6, 0⟩ 0
def aqOn (space : Nat) : AdminQ := { AdminQ.reset with en := true, lg := 6, space := space, pasidV := true }
def lane : FPort := { FPort.reset with up := true, width := 8, rtt := 100 }
def io : IoPort := { IoPort.reset with up := true, width := 16 }

def D : Dev := { Dev.reset with
  ready := true, cores := 0x3F, slices := [(3, sl)], qps := [(5, QL), (6, Q)], cqs := [(9, C)], host := { Dev.reset.host with up := true, width := 16, cfg := 0xF },
  adminQ := [(0, aqOn 0), (11, aqOn 0)], gens := [(5, 7), (6, 7)] }

/-- A command of slice 3 from its own admin queue, and from admin queue 0 for slice 3 and for no slice. -/
def H : Cmd := ⟨11, 0, 3, 0, none⟩
def HD : Cmd := ⟨0, 0, 3, 0, none⟩
def H0 : Cmd := ⟨0, 0, 0, 0, none⟩

/-- A packet header for queue pair 5 (Table 3.4). -/
def hdr (op psn index pay : Nat) : BitVec 128 :=
  BitVec.ofNat 128 (5 * 2 ^ 90 + 7 * 2 ^ 82 + op * 2 ^ 77 + 2 ^ 68 + psn * 2 ^ 32 + index * 2 ^ 14 + pay)
def pk (op psn index : Nat) (desc : Option (BitVec 128)) (l : List Byte) : Packet :=
  ⟨hdr op psn index l.length, desc, l, glaze l, none, false⟩

/-! ## Witnesses: for each clause of a statement, values that meet all its hypotheses together -/

theorem wit_QueuePairCommandsComplete :
    (∃ s : State, ∃ h : Cmd, ∃ p : QpCreateP, Takes s 0x0101 h true ∧ qpCreateBad p = none ∧ getQp s.dev p.qpn = none ∧
      inQuarantine s.dev p.qpn = false ∧ ringStatus s.dev h.slice p.sqSpace p.sqBase p.sqLg 64 = csOk ∧
      ringStatus s.dev h.slice p.rqSpace p.rqBase p.rqLg 64 = csOk ∧ quotaFull s.dev h.slice 0 = false) ∧
    (∃ s : State, ∃ h : Cmd, ∃ p : QpModifyP, ∃ q : Qp, TakesQp s 0x0102 h p.qpn q ∧ qpModifyBad p = none ∧ qpModifyRefusal s.dev h p q = none) ∧
    (∃ s : State, ∃ h : Cmd, ∃ qpn : Nat, ∃ q : Qp, TakesQp s 0x0103 h qpn q ∧ q.st = .reset) ∧
    (∃ s : State, ∃ h : Cmd, ∃ qpn : Nat, ∃ space : Nat, ∃ addr : Nat, ∃ q : Qp, TakesQp s 0x0104 h qpn q ∧ addr % 64 = 0 ∧
      (space = 0 ∨ (space = 1 ∧ inAllocation s.dev h.slice addr 64 = true))) ∧
    (∃ s : State, ∃ h : Cmd, ∃ qpn : Nat, ∃ q : Qp, TakesQp s 0x0105 h qpn q ∧ (q.pinned = true ∨ ((getSlice s.dev h.slice).latCrit = true ∧
      pinnedIn s.dev (qpn % 4) < 2048 ∧ quotaFull s.dev h.slice 7 = false))) ∧
    (∃ s : State, ∃ h : Cmd, ∃ qpn : Nat, ∃ q : Qp, TakesQp s 0x0106 h qpn q) ∧
    (∃ s : State, ∃ h : Cmd, ∃ qpn : Nat, ∃ queue : Nat, ∃ q : Qp, TakesQp s 0x0107 h qpn q ∧ queue ≤ 1) :=
  ⟨⟨st D, H, ⟨7, 0, 0x10000, 4, 0, 1, 0x80000000, 20, 0⟩, by decide +kernel⟩,
   ⟨st D, H, { qpn := 5, newState := 7, mask := 0x10, scqn := 0, rcqn := 0, remEpid := 0, remQpn := 0, remGen := 0, sqPsn := 0, rqPsn := 0, mtu8k := true, rtoBase := 4000000, retryLimit := 0, busyLimit := 0, ackCount := 0, ackTimer := 0, tc := 0, ccProfile := 0, txKey := 0, rxKey := 0, rxTs := false }, QL, by decide +kernel⟩,
   ⟨st D, H, 6, Q, by decide +kernel⟩,
   ⟨st D, H, 5, 1, 0x80000000, QL, by decide +kernel⟩,
   ⟨st { D with slices := [(3, { sl with latCrit := true })] }, H, 5, QL, by decide +kernel⟩,
   ⟨st D, H, 5, QL, by decide +kernel⟩,
   ⟨st D, H, 5, 1, QL, by decide +kernel⟩⟩

theorem wit_CompletionQueueCommandsComplete :
    (∃ s : State, ∃ h : Cmd, ∃ cqn : Nat, ∃ stall : Nat, ∃ r : RingP, Takes s 0x0108 h true ∧ cqn < 2 ^ 18 ∧ tget s.dev.cqs cqn = none ∧
      spaceOk r.space = true ∧ 4 ≤ r.lg ∧ r.lg ≤ 20 ∧ (stall = 0 ∨ (1000 ≤ stall ∧ stall ≤ 10000000)) ∧
      ringStatus s.dev h.slice r.space r.base r.lg 32 = csOk ∧ quotaFull s.dev h.slice 1 = false) ∧
    (∃ s : State, ∃ h : Cmd, ∃ cqn : Nat, ∃ stall : Nat, ∃ x : Cq, TakesCq s 0x0109 h cqn x ∧ (stall = 0 ∨ (1000 ≤ stall ∧ stall ≤ 10000000))) ∧
    (∃ s : State, ∃ h : Cmd, ∃ cqn : Nat, ∃ x : Cq, TakesCq s 0x010B h cqn x) :=
  ⟨⟨st D, H, 10, 0, ⟨0, 0x20000, 20, 0⟩, by decide +kernel⟩,
   ⟨st D, H, 9, 10000000, C, by decide +kernel⟩,
   ⟨st D, H, 9, C, by decide +kernel⟩⟩

theorem wit_CqDestroyFollowsR538 :
    (∃ s : State, ∃ h : Cmd, ∃ cqn : Nat, ∃ x : Cq, TakesCq s 0x010A h cqn x ∧ ((∃ n q, (n, q) ∈ s.dev.qps ∧
      (q.p.scqn = cqn ∨ q.p.rcqn = cqn)) ∨ ∃ n t, (n, t) ∈ s.dev.triggers ∧ t.p.kind = 1 ∧ t.p.source = cqn)) ∧
    (∃ s : State, ∃ h : Cmd, ∃ cqn : Nat, ∃ x : Cq, TakesCq s 0x010A h cqn x ∧ (∀ n q, (n, q) ∈ s.dev.qps → q.p.scqn ≠ cqn ∧ q.p.rcqn ≠ cqn) ∧
      (∀ n t, (n, t) ∈ s.dev.triggers → t.p.kind = 1 → t.p.source ≠ cqn)) :=
  ⟨⟨st { D with qps := [(5, { QL with p := { QL.p with scqn := 9 } })] }, H, 9, C, by decide +kernel, .inl ⟨5, { QL with p := { QL.p with scqn := 9 } }, by decide +kernel⟩⟩,
   ⟨st D, H, 9, C, by decide +kernel, fun n q h => by simp [st, D] at h; obtain ⟨_, rfl⟩ | ⟨_, rfl⟩ := h <;> decide, fun n t h => by simp [st, D, Dev.reset] at h⟩⟩

theorem wit_DoorbellFollowsR40 :
    (∃ s : State, ∃ port : Nat, ∃ slice : Nat, ∃ w : U64, ∃ q : Qp, Carries s ∧ takesDoorbells s.dev port slice = true ∧ dbType w < 2 ∧
      dbRsvd w = false ∧ getQp s.dev (dbQn w) = some q ∧ q.slice = slice ∧ q.st ≠ .reset ∧
      (let rq : Bool := dbType w == 1; (let r := (wq q rq).ring; (let ahead := (dbIndex w - r.prod).toNat; (let fwd : Prop := ahead ≠ 0 ∧
      ahead < 2 ^ 31; (fwd ∧ 2 ^ r.lg < (dbIndex w - r.cons).toNat)))))) ∧
    (∃ s : State, ∃ port : Nat, ∃ slice : Nat, ∃ w : U64, ∃ q : Qp, Carries s ∧ takesDoorbells s.dev port slice = true ∧ dbType w < 2 ∧
      dbRsvd w = false ∧ getQp s.dev (dbQn w) = some q ∧ q.slice = slice ∧ q.st ≠ .reset ∧
      (let rq : Bool := dbType w == 1; (let r := (wq q rq).ring; (let ahead := (dbIndex w - r.prod).toNat; (let fwd : Prop := ahead ≠ 0 ∧
      ahead < 2 ^ 31; (fwd ∧ (dbIndex w - r.cons).toNat ≤ 2 ^ r.lg)))))) ∧
    (∃ s : State, ∃ port : Nat, ∃ slice : Nat, ∃ w : U64, ∃ q : Qp, Carries s ∧ takesDoorbells s.dev port slice = true ∧ dbType w < 2 ∧
      dbRsvd w = false ∧ getQp s.dev (dbQn w) = some q ∧ q.slice = slice ∧ q.st ≠ .reset ∧
      (let rq : Bool := dbType w == 1; (let r := (wq q rq).ring; (let ahead := (dbIndex w - r.prod).toNat; ahead = 0)))) ∧
    (∃ s : State, ∃ port : Nat, ∃ slice : Nat, ∃ w : U64, ∃ q : Qp, Carries s ∧ takesDoorbells s.dev port slice = true ∧ dbType w < 2 ∧
      dbRsvd w = false ∧ getQp s.dev (dbQn w) = some q ∧ q.slice = slice ∧ q.st ≠ .reset ∧
      (let rq : Bool := dbType w == 1; (let r := (wq q rq).ring; (let ahead := (dbIndex w - r.prod).toNat; 2 ^ 31 ≤ ahead)))) :=
  ⟨⟨st D, 15, 3, 0x0000000500000041, QL, by decide +kernel⟩,
   ⟨st D, 15, 3, 0x0000000500000040, QL, by decide +kernel⟩,
   ⟨st D, 15, 3, 0x1000000500000000, QL, by decide +kernel⟩,
   ⟨st D, 15, 3, 0x0000000580000000, QL, by decide +kernel⟩⟩

theorem wit_CompletionDoorbells :
    (∃ s : State, ∃ port : Nat, ∃ slice : Nat, ∃ w : U64, ∃ x : Cq, Carries s ∧ takesDoorbells s.dev port slice = true ∧ dbRsvd w = false ∧
      tget s.dev.cqs (dbQn w) = some x ∧ x.slice = slice ∧ x.error = false ∧
      (let ahead := (dbIndex w - x.ring.cons).toNat; (let used := (x.ring.prod - x.ring.cons).toNat; dbType w = 2 ∧ ahead ≠ 0 ∧ ahead < 2 ^ 31 ∧
      ahead ≤ used))) ∧
    (∃ s : State, ∃ port : Nat, ∃ slice : Nat, ∃ w : U64, ∃ x : Cq, Carries s ∧ takesDoorbells s.dev port slice = true ∧ dbRsvd w = false ∧
      tget s.dev.cqs (dbQn w) = some x ∧ x.slice = slice ∧ x.error = false ∧
      (let ahead := (dbIndex w - x.ring.cons).toNat; (let used := (x.ring.prod - x.ring.cons).toNat; dbType w = 2 ∧ ahead ≠ 0 ∧ ahead < 2 ^ 31 ∧
      used < ahead))) ∧
    (∃ s : State, ∃ port : Nat, ∃ slice : Nat, ∃ w : U64, ∃ x : Cq, Carries s ∧ takesDoorbells s.dev port slice = true ∧ dbRsvd w = false ∧
      tget s.dev.cqs (dbQn w) = some x ∧ x.slice = slice ∧ x.error = false ∧ (let ahead := (dbIndex w - x.ring.cons).toNat; dbType w = 2 ∧
      2 ^ 31 ≤ ahead)) ∧
    (∃ s : State, ∃ port : Nat, ∃ slice : Nat, ∃ w : U64, ∃ x : Cq, Carries s ∧ takesDoorbells s.dev port slice = true ∧ dbRsvd w = false ∧
      tget s.dev.cqs (dbQn w) = some x ∧ x.slice = slice ∧ x.error = false ∧ dbType w = 3 ∧ (x.ring.prod ≠ dbIndex w ∧
      (x.ring.prod - dbIndex w).toNat < 2 ^ 31)) ∧
    (∃ s : State, ∃ port : Nat, ∃ slice : Nat, ∃ w : U64, ∃ x : Cq, Carries s ∧ takesDoorbells s.dev port slice = true ∧ dbRsvd w = false ∧
      tget s.dev.cqs (dbQn w) = some x ∧ x.slice = slice ∧ x.error = false ∧ dbType w = 3 ∧ (¬(x.ring.prod ≠ dbIndex w ∧
      (x.ring.prod - dbIndex w).toNat < 2 ^ 31))) :=
  ⟨⟨st { D with cqs := [(9, { C with ring := ⟨0, 0x20000, 6, 4, 0⟩ })] }, 15, 3, 0x2000000900000004, { C with ring := ⟨0, 0x20000, 6, 4, 0⟩ }, by decide +kernel⟩,
   ⟨st { D with cqs := [(9, { C with ring := ⟨0, 0x20000, 6, 4, 0⟩ })] }, 15, 3, 0x2000000900000005, { C with ring := ⟨0, 0x20000, 6, 4, 0⟩ }, by decide +kernel⟩,
   ⟨st { D with cqs := [(9, { C with ring := ⟨0, 0x20000, 6, 4, 0⟩ })] }, 15, 3, 0x2000000980000000, { C with ring := ⟨0, 0x20000, 6, 4, 0⟩ }, by decide +kernel⟩,
   ⟨st { D with cqs := [(9, { C with ring := ⟨0, 0x20000, 6, 4, 0⟩ })] }, 15, 3, 0x3000000900000003, { C with ring := ⟨0, 0x20000, 6, 4, 0⟩ }, by decide +kernel⟩,
   ⟨st { D with cqs := [(9, { C with ring := ⟨0, 0x20000, 6, 4, 0⟩ })] }, 15, 3, 0x3000000900000004, { C with ring := ⟨0, 0x20000, 6, 4, 0⟩ }, by decide +kernel⟩⟩

theorem wit_PushesComplete :
    (∃ s : State, ∃ port : Nat, ∃ slice : Nat, ∃ page : Nat, ∃ off : Nat, Carries s ∧ takesDoorbells s.dev port slice = true ∧ slice < 512 ∧
      1 ≤ page ∧ page ≤ 15 ∧ 0x100 ≤ off ∧ off < 0x200) ∧
    (∃ s : State, ∃ port : Nat, ∃ slice : Nat, ∃ page : Nat, ∃ off : Nat, Carries s ∧ takesDoorbells s.dev port slice = true ∧ slice < 512 ∧
      1 ≤ page ∧ page ≤ 15 ∧ 0x40 ≤ off ∧ off < 0x78) ∧
    (∃ s : State, ∃ port : Nat, ∃ slice : Nat, ∃ page : Nat, Carries s ∧ takesDoorbells s.dev port slice = true ∧ 1 ≤ page ∧ page ≤ 15 ∧
      (let k := (port * 512 + slice) * 16 + page; (let p := tgetD s.dev.pushPages k []; (∀ i, 0x78 ≤ i → i < 0x80 → tget p i = none)))) :=
  ⟨⟨st D, 2, 3, 15, 0x1FF, by decide +kernel⟩,
   ⟨st D, 15, 3, 15, 0x77, by decide +kernel⟩,
   ⟨st D, 15, 3, 1, by and_intros <;> decide +kernel⟩⟩

theorem wit_EntryReadsComplete :
    (∃ s : State, ∃ qpn : Nat, ∃ rq : Bool, ∃ q : Qp, ∃ i : U32, ∃ n : Nat, alive s.ao = true ∧ getQp s.dev qpn = some q ∧
      (wq q rq).reading = some (i, n) ∧ sliceLive s.dev q.slice = true ∧ q.held = none ∧ q.frozen = none ∧
      (s.dev.staleReads.find? fun r => r.qpn == qpn && r.rq == rq) = none) ∧
    (∃ s : State, ∃ qpn : Nat, ∃ rq : Bool, ∃ r : StaleRead, alive s.ao = true ∧
      (s.dev.staleReads.find? fun r => r.qpn == qpn && r.rq == rq) = some r) ∧
    (∃ s : State, ∃ qpn : Nat, ∃ rq : Bool, ∃ q : Qp, ∃ t : Nat, ∃ l : List (Nat × Nat), alive s.ao = true ∧ getQp s.dev qpn = some q ∧
      (wq q rq).rereadDue = some t ∧ sliceLive s.dev q.slice = true ∧ q.held = none ∧ q.frozen = none ∧ canRead s.dev (wq q rq).ring.space = true ∧
      (wq q rq).next = (wq q rq).rereadAt ∧ (wq q rq).reading = none ∧
      translate (advanceTo t s.dev) q.slice (wq q rq).ring.space (entryAddr (wq q rq).ring (wq q rq).next) 64 accRead = .inl l) :=
  ⟨⟨st (setQp 5 { QL with sq := { QL.sq with reading := some (0, 1) } } D), 5, false, { QL with sq := { QL.sq with reading := some (0, 1) } }, 0, 1, by decide +kernel⟩,
   ⟨st { D with staleReads := [⟨3, 5, true, 0, 2, rg, 7⟩] }, 5, true, ⟨3, 5, true, 0, 2, rg, 7⟩, by decide +kernel⟩,
   ⟨st (setQp 5 { QL with sq := { QL.sq with rereadDue := some 10 } } { D with xlt := { Xlt.reset with roots := [(48, 0x80000000)], cache := [{ slice := 3, space := 0, page := 16, run := 0, pfn := 0x99, r := true, w := true, ns := false, epoch := 0, ats := false, untrans := false }] } }), 5, false, { QL with sq := { QL.sq with rereadDue := some 10 } }, 10, [(0x99000, 64)], by decide +kernel⟩⟩

theorem wit_EntryStartCompletes :
    (∃ s : State, ∃ qpn : Nat, ∃ q : Qp, ∃ e : CachedEntry, alive s.ao = true ∧ getQp s.dev qpn = some q ∧ mayStartSend s.dev qpn q = true ∧
      cachedAt q.sq (firstUnstarted q false) = some e ∧ e.tablePending = false ∧ q.cached = true ∧ e.poisoned = false ∧ entryHeld q e = false ∧
      sendCode s.dev qpn q.slice e = none ∧ e.tablePoisoned = false ∧ localBad s.dev q.slice e = false ∧
      (entrySpaces e).all (fun sp => canWrite s.dev sp) = true ∧ localAtomicBad s.dev qpn e.raw = false ∧ weOp e.raw = opNop) ∧
    (∃ s : State, ∃ qpn : Nat, ∃ q : Qp, ∃ e : CachedEntry, alive s.ao = true ∧ getQp s.dev qpn = some q ∧ mayStartSend s.dev qpn q = true ∧
      cachedAt q.sq (firstUnstarted q false) = some e ∧ e.tablePending = false ∧ q.cached = true ∧ e.poisoned = false ∧ entryHeld q e = false ∧
      sendCode s.dev qpn q.slice e = none ∧ e.tablePoisoned = false ∧ localBad s.dev q.slice e = false ∧
      (entrySpaces e).all (fun sp => canWrite s.dev sp) = true ∧ localAtomicBad s.dev qpn e.raw = false ∧ weOp e.raw < 8 ∧ weOp e.raw ≠ opNop ∧
      (¬(opUsesWkey (weOp e.raw) = true ∧ (2 ^ 48 ≤ weOff e.raw ∨ 2 ^ 48 < weOff e.raw + weLen e.raw)))) :=
  ⟨⟨st (setQp 5 { QL with sq := { QL.sq with cache := [⟨0, 0, false, [], false, none, false⟩] } } D), 5, { QL with sq := { QL.sq with cache := [⟨0, 0, false, [], false, none, false⟩] } }, ⟨0, 0, false, [], false, none, false⟩, by decide +kernel⟩,
   ⟨st (setQp 5 { QL with sq := { QL.sq with cache := [⟨0, BitVec.ofNat 512 (2 ^ 40), false, [], false, none, false⟩] } } D), 5, { QL with sq := { QL.sq with cache := [⟨0, BitVec.ofNat 512 (2 ^ 40), false, [], false, none, false⟩] } }, ⟨0, BitVec.ofNat 512 (2 ^ 40), false, [], false, none, false⟩, by decide +kernel⟩⟩

/-- A PSN outstanding. -/
def outPkt : OutPkt where
  psn := 0
  entry := some 0
  opcode := 0
  pktIndex := 0
  len := 64
  last := true
  head := true
  nPsn := 1
  desc := none
  wire := 100
  sacked := false
  answered := false
  placed := false
  delayUntil := none
  msg := none
  src := []
  place := []
  tokens := []
  resend := false
  rerun := 0
  sent := true

def seqMsg : SeqMsg := ⟨1, 5, .coll 4 1, 9, 0, [], 64, 0, 0⟩

def sendE : SendEntry where
  e := ⟨0, 0x10000000000, false, [], false, none, false⟩
  firstPsn := none
  built := 0
  total := 1
  wire := 0
  done := false
  status := 0
  bytes := 0
  stamp := none
  stampLost := false
  stampGroup := none
  recvSeq := 0
  mbSeq := none
  poisoned := false
  faultDue := none
  tokens := []
  txProg := none
  txNext := 0
  txOut := []
  txBad := []

theorem wit_PacketBuildCompletes :
    (∃ s : State, ∃ qpn : Nat, ∃ q : Qp, ∃ q' : Qp, ∃ o, Carries s ∧ getQp s.dev qpn = some q ∧ sliceLive s.dev q.slice = true ∧
      quiet s.dev q = false ∧ (q.st = .live ∨ q.st = .drain) ∧ q.cached = true ∧
      ((nextResend q).isSome = true ∨ (nextSeq s.dev qpn).isSome = true ∨ (nextEntry q).isSome = true) ∧
      (let d := cacheContext qpn (if rateStale s.dev q then rateRead qpn s.dev else s.dev); getQp d qpn = some q' ∧ nextResend q' = some o)) ∧
    (∃ s : State, ∃ qpn : Nat, ∃ q : Qp, ∃ q' : Qp, ∃ e, Carries s ∧ getQp s.dev qpn = some q ∧ sliceLive s.dev q.slice = true ∧
      quiet s.dev q = false ∧ (q.st = .live ∨ q.st = .drain) ∧ q.cached = true ∧
      ((nextResend q).isSome = true ∨ (nextSeq s.dev qpn).isSome = true ∨ (nextEntry q).isSome = true) ∧
      (let d := cacheContext qpn (if rateStale s.dev q then rateRead qpn s.dev else s.dev); getQp d qpn = some q' ∧ nextResend q' = none ∧
      partBuilt q' = some e)) ∧
    (∃ s : State, ∃ qpn : Nat, ∃ q : Qp, ∃ q' : Qp, ∃ m, Carries s ∧ getQp s.dev qpn = some q ∧ sliceLive s.dev q.slice = true ∧
      quiet s.dev q = false ∧ (q.st = .live ∨ q.st = .drain) ∧ q.cached = true ∧
      ((nextResend q).isSome = true ∨ (nextSeq s.dev qpn).isSome = true ∨ (nextEntry q).isSome = true) ∧
      (let d := cacheContext qpn (if rateStale s.dev q then rateRead qpn s.dev else s.dev); getQp d qpn = some q' ∧ nextResend q' = none ∧
      partBuilt q' = none ∧ nextSeq d qpn = some m)) ∧
    (∃ s : State, ∃ qpn : Nat, ∃ q : Qp, ∃ q' : Qp, ∃ e, Carries s ∧ getQp s.dev qpn = some q ∧ sliceLive s.dev q.slice = true ∧
      quiet s.dev q = false ∧ (q.st = .live ∨ q.st = .drain) ∧ q.cached = true ∧
      ((nextResend q).isSome = true ∨ (nextSeq s.dev qpn).isSome = true ∨ (nextEntry q).isSome = true) ∧
      (let d := cacheContext qpn (if rateStale s.dev q then rateRead qpn s.dev else s.dev); getQp d qpn = some q' ∧ nextResend q' = none ∧
      partBuilt q' = none ∧ nextSeq d qpn = none ∧ nextEntry q' = some e)) :=
  ⟨⟨st (setQp 5 { QL with rqr := { QL.rqr with out := [{ outPkt with resend := true }] } } D), 5, { QL with rqr := { QL.rqr with out := [{ outPkt with resend := true }] } }, { QL with rqr := { QL.rqr with out := [{ outPkt with resend := true }] } }, { outPkt with resend := true }, by decide +kernel⟩,
   ⟨st (setQp 5 { QL with rqr := { QL.rqr with started := [{ sendE with built := 1, total := 2 }] } } D), 5, { QL with rqr := { QL.rqr with started := [{ sendE with built := 1, total := 2 }] } }, { QL with rqr := { QL.rqr with started := [{ sendE with built := 1, total := 2 }] } }, { sendE with built := 1, total := 2 }, by decide +kernel⟩,
   ⟨st { D with seqMsgs := [seqMsg] }, 5, QL, QL, seqMsg, by decide +kernel⟩,
   ⟨st (setQp 5 { QL with rqr := { QL.rqr with started := [sendE] } } D), 5, { QL with rqr := { QL.rqr with started := [sendE] } }, { QL with rqr := { QL.rqr with started := [sendE] } }, sendE, by decide +kernel⟩⟩

/-- An ACK of queue pair 5 that waits to leave port 0, and the adapter when there are so many that the response queue is full. -/
def ackPkt : EgressPkt := ⟨pk 0x10 0 0 none [], 0, 0, some 3, 0, 5, true, none⟩
def DF : Dev := { D with ports := [(0, { lane with queue := List.replicate (Config.respQueue + 1) ackPkt })] }
theorem respQueue_filled : respFull DF 1 = true := by
  have h : ∀ n, (List.replicate n ackPkt).countP (fun e => e.slice.isSome && pkIsResp (phOp e.p.hdr) && pipeOf e.qpn == 1) = n := by
    intro n; rw [List.countP_replicate]; simp [show (ackPkt.slice.isSome && pkIsResp (phOp ackPkt.p.hdr) && pipeOf ackPkt.qpn == 1) = true by decide +kernel]
  have e : Config.respQueue + 1 ≤ respQueued DF 1 := by
    simp only [respQueued, DF, D, List.foldl_cons, List.foldl_nil]
    rw [h]; omega
  simpa [respFull] using e

theorem wit_RequestPacketsAreClassified :
    (∃ s : State, ∃ p : Packet, ∃ q : Qp, ∃ q' : Qp, Carries s ∧ pkIsReq (phOp p.hdr) = true ∧ reqMalformed p = false ∧
      (let qpn := phDqpn p.hdr; getQp s.dev qpn = some q ∧ sliceLive s.dev q.slice = true ∧ (q.st = .live ∨ q.st = .drain) ∧ q.cached = true ∧
      ((parkedIn s.dev (qpn % 4)).any fun x => x.qpn == qpn && x.why == .context) = false ∧ q.p.rxKey = none ∧ phEnc p.hdr = false ∧
      q.held = none ∧ q.frozen = none ∧ phGen p.hdr = q.gen ∧ glazeOf p ≠ .bad ∧ getQp (cacheContext qpn s.dev) qpn = some q' ∧
      phDst p.hdr = s.dev.routing.selfEpid ∧ respFull s.dev (qpn % 4) = true)) ∧
    (∃ s : State, ∃ p : Packet, ∃ q : Qp, ∃ q' : Qp, Carries s ∧ pkIsReq (phOp p.hdr) = true ∧ reqMalformed p = false ∧
      (let qpn := phDqpn p.hdr; getQp s.dev qpn = some q ∧ sliceLive s.dev q.slice = true ∧ (q.st = .live ∨ q.st = .drain) ∧ q.cached = true ∧
      ((parkedIn s.dev (qpn % 4)).any fun x => x.qpn == qpn && x.why == .context) = false ∧ q.p.rxKey = none ∧ phEnc p.hdr = false ∧
      q.held = none ∧ q.frozen = none ∧ phGen p.hdr = q.gen ∧ glazeOf p ≠ .bad ∧ getQp (cacheContext qpn s.dev) qpn = some q' ∧
      phDst p.hdr = s.dev.routing.selfEpid ∧ respFull s.dev (qpn % 4) = false ∧ acceptedPsn q'.rsp (phPsn p.hdr) = true ∧ phOp p.hdr ≠ pkReadReq ∧
      pkAtomic (phOp p.hdr) = false)) ∧
    (∃ s : State, ∃ p : Packet, ∃ q : Qp, ∃ q' : Qp, Carries s ∧ pkIsReq (phOp p.hdr) = true ∧ reqMalformed p = false ∧
      (let qpn := phDqpn p.hdr; getQp s.dev qpn = some q ∧ sliceLive s.dev q.slice = true ∧ (q.st = .live ∨ q.st = .drain) ∧ q.cached = true ∧
      ((parkedIn s.dev (qpn % 4)).any fun x => x.qpn == qpn && x.why == .context) = false ∧ q.p.rxKey = none ∧ phEnc p.hdr = false ∧
      q.held = none ∧ q.frozen = none ∧ phGen p.hdr = q.gen ∧ glazeOf p ≠ .bad ∧ getQp (cacheContext qpn s.dev) qpn = some q' ∧
      phDst p.hdr = s.dev.routing.selfEpid ∧ respFull s.dev (qpn % 4) = false ∧ acceptedPsn q'.rsp (phPsn p.hdr) = false ∧
      inFlight (cacheContext qpn s.dev) qpn q' (phPsn p.hdr) = false ∧ 512 ≤ (phPsn p.hdr - q'.rsp.epsn).toNat ∧
      (isFetch p && keyStopped (cacheContext qpn s.dev) q') = false)) ∧
    (∃ s : State, ∃ p : Packet, ∃ q : Qp, ∃ q' : Qp, ∃ d, Carries s ∧ pkIsReq (phOp p.hdr) = true ∧ reqMalformed p = false ∧
      (let qpn := phDqpn p.hdr; getQp s.dev qpn = some q ∧ sliceLive s.dev q.slice = true ∧ (q.st = .live ∨ q.st = .drain) ∧ q.cached = true ∧
      ((parkedIn s.dev (qpn % 4)).any fun x => x.qpn == qpn && x.why == .context) = false ∧ q.p.rxKey = none ∧ phEnc p.hdr = false ∧
      q.held = none ∧ q.frozen = none ∧ phGen p.hdr = q.gen ∧ glazeOf p ≠ .bad ∧ getQp (cacheContext qpn s.dev) qpn = some q' ∧
      phDst p.hdr = s.dev.routing.selfEpid ∧ respFull s.dev (qpn % 4) = false ∧ acceptedPsn q'.rsp (phPsn p.hdr) = false ∧
      inFlight (cacheContext qpn s.dev) qpn q' (phPsn p.hdr) = false ∧ (phPsn p.hdr - q'.rsp.epsn).toNat < 512 ∧ phOp p.hdr ≠ pkReadReq ∧
      pkAtomic (phOp p.hdr) = false ∧ phIndex p.hdr = 0 ∧ p.desc = some d ∧ findMsg q' (phPsn p.hdr) = none)) ∧
    (∃ s : State, ∃ p : Packet, ∃ q : Qp, ∃ q' : Qp, Carries s ∧ pkIsReq (phOp p.hdr) = true ∧ reqMalformed p = false ∧
      (let qpn := phDqpn p.hdr; getQp s.dev qpn = some q ∧ sliceLive s.dev q.slice = true ∧ (q.st = .live ∨ q.st = .drain) ∧ q.cached = true ∧
      ((parkedIn s.dev (qpn % 4)).any fun x => x.qpn == qpn && x.why == .context) = false ∧ q.p.rxKey = none ∧ phEnc p.hdr = false ∧
      q.held = none ∧ q.frozen = none ∧ phGen p.hdr = q.gen ∧ glazeOf p ≠ .bad ∧ getQp (cacheContext qpn s.dev) qpn = some q' ∧
      phDst p.hdr = s.dev.routing.selfEpid ∧ respFull s.dev (qpn % 4) = false ∧ acceptedPsn q'.rsp (phPsn p.hdr) = false ∧
      inFlight (cacheContext qpn s.dev) qpn q' (phPsn p.hdr) = false ∧ phOp p.hdr = pkReadReq ∧ phIndex p.hdr = 0 ∧
      readSpan q' (dsLen (p.desc.getD 0)) ≤ 64 ∧ (phPsn p.hdr - q'.rsp.epsn).toNat + readSpan q' (dsLen (p.desc.getD 0)) ≤ 512 ∧
      keyStopped (cacheContext qpn s.dev) q' = false)) :=
  ⟨⟨st DF, pk 0 0 0 (some 0) [1], QL, QL, by and_intros <;> first | decide +kernel | exact (show phDqpn (pk 0 0 0 (some 0) [1]).hdr % 4 = 1 by decide +kernel) ▸ respQueue_filled⟩,
   ⟨st (setQp 5 { QL with rsp := { QL.rsp with epsn := 1 } } D), pk 0 0 0 (some 0) [1], { QL with rsp := { QL.rsp with epsn := 1 } }, { QL with rsp := { QL.rsp with epsn := 1 } }, by decide +kernel⟩,
   ⟨st D, pk 0 512 0 (some 0) [1], QL, QL, by decide +kernel⟩,
   ⟨st D, pk 0 511 0 (some 0) [1], QL, QL, 0, by decide +kernel⟩,
   ⟨st D, pk 4 448 0 (some (0x40000 * 2 ^ 64)) [], QL, QL, by decide +kernel⟩⟩

theorem wit_ResponsePacketsAct :
    (∃ s : State, ∃ p : Packet, ∃ q : Qp, Carries s ∧ respMalformed p = false ∧ (let qpn := phDqpn p.hdr; getQp s.dev qpn = some q ∧
      sliceLive s.dev q.slice = true ∧ (q.st = .live ∨ q.st = .drain) ∧ q.cached = true ∧
      ((parkedIn s.dev (qpn % 4)).any fun x => x.qpn == qpn && x.why == .context) = false ∧ q.p.rxKey = none ∧ phEnc p.hdr = false ∧
      q.held = none ∧ q.frozen = none ∧ phGen p.hdr = q.gen ∧ respGlaze p = .good ∧ phDst p.hdr = s.dev.routing.selfEpid ∧ phOp p.hdr = pkAck)) ∧
    (∃ s : State, ∃ p : Packet, ∃ q : Qp, Carries s ∧ respMalformed p = false ∧ (let qpn := phDqpn p.hdr; getQp s.dev qpn = some q ∧
      sliceLive s.dev q.slice = true ∧ (q.st = .live ∨ q.st = .drain) ∧ q.cached = true ∧
      ((parkedIn s.dev (qpn % 4)).any fun x => x.qpn == qpn && x.why == .context) = false ∧ q.p.rxKey = none ∧ phEnc p.hdr = false ∧
      q.held = none ∧ q.frozen = none ∧ phGen p.hdr = q.gen ∧ respGlaze p = .good ∧ phDst p.hdr = s.dev.routing.selfEpid ∧ phOp p.hdr = pkNak)) ∧
    (∃ s : State, ∃ p : Packet, ∃ q : Qp, Carries s ∧ respMalformed p = false ∧ (let qpn := phDqpn p.hdr; getQp s.dev qpn = some q ∧
      sliceLive s.dev q.slice = true ∧ (q.st = .live ∨ q.st = .drain) ∧ q.cached = true ∧
      ((parkedIn s.dev (qpn % 4)).any fun x => x.qpn == qpn && x.why == .context) = false ∧ q.p.rxKey = none ∧ phEnc p.hdr = false ∧
      q.held = none ∧ q.frozen = none ∧ phGen p.hdr = q.gen ∧ respGlaze p = .good ∧ phDst p.hdr = s.dev.routing.selfEpid ∧
      (phOp p.hdr = pkReadResp ∨ phOp p.hdr = pkAtomicResp))) :=
  ⟨⟨st D, pk 0x10 0 0 none [0,0,0,0,0,0,0,0,0,0,0,0,0,0,0,0], QL, by decide +kernel⟩,
   ⟨st D, pk 0x11 0 0 none [1,0,0,0,0,0,0,0], QL, by decide +kernel⟩,
   ⟨st D, pk 0x13 0 0 none [1,0,0,0,0,0,0,0], QL, by decide +kernel⟩⟩

/-- Queue pair 5 as its retransmission timer finds it. -/
def afterRto (s : State) (t : Nat) (q : Qp) : Qp :=
  (getQp (cacheContext 5 (setQp 5 { q with
    rqr := { q.rqr with rtoDue := none },
    cc := { q.cc with sample := none, w := q.cc.prof.wMin, epochEnd := q.rqr.nextPsn, unlimited := false } } (advanceTo t s.dev))) 5).getD q

theorem wit_RetransmissionTimerFollowsR104 :
    (∃ s : State, ∃ qpn : Nat, ∃ t : Nat, ∃ q : Qp, ∃ q1, alive s.ao = true ∧ getQp s.dev qpn = some q ∧ clocksRun s.dev q = true ∧
      q.rqr.rtoDue = some t ∧ ccHostAssisted (advanceTo t s.dev) q = false ∧
      (let d := advanceTo t s.dev; (let d1 := cacheContext qpn (setQp qpn { q with rqr := { q.rqr with rtoDue := none }, cc := { q.cc with sample := none, w := q.cc.prof.wMin, epochEnd := q.rqr.nextPsn, unlimited := false } } d); getQp d1 qpn = some q1 ∧ q1.rqr.retries = q1.p.retryLimit))) ∧
    (∃ s : State, ∃ qpn : Nat, ∃ t : Nat, ∃ q : Qp, ∃ q1, alive s.ao = true ∧ getQp s.dev qpn = some q ∧ clocksRun s.dev q = true ∧
      q.rqr.rtoDue = some t ∧ ccHostAssisted (advanceTo t s.dev) q = false ∧
      (let d := advanceTo t s.dev; (let d1 := cacheContext qpn (setQp qpn { q with rqr := { q.rqr with rtoDue := none }, cc := { q.cc with sample := none, w := q.cc.prof.wMin, epochEnd := q.rqr.nextPsn, unlimited := false } } d); getQp d1 qpn = some q1 ∧ q1.rqr.retries < q1.p.retryLimit))) :=
  ⟨⟨st (setQp 5 { QL with rqr := { QL.rqr with rtoDue := some 100, retries := 7, out := [outPkt] } } D), 5, 100, { QL with rqr := { QL.rqr with rtoDue := some 100, retries := 7, out := [outPkt] } }, afterRto (st (setQp 5 { QL with rqr := { QL.rqr with rtoDue := some 100, retries := 7, out := [outPkt] } } D)) 100 { QL with rqr := { QL.rqr with rtoDue := some 100, retries := 7, out := [outPkt] } }, by decide +kernel⟩,
   ⟨st (setQp 5 { QL with rqr := { QL.rqr with rtoDue := some 100, retries := 6, out := [outPkt] } } D), 5, 100, { QL with rqr := { QL.rqr with rtoDue := some 100, retries := 6, out := [outPkt] } }, afterRto (st (setQp 5 { QL with rqr := { QL.rqr with rtoDue := some 100, retries := 6, out := [outPkt] } } D)) 100 { QL with rqr := { QL.rqr with rtoDue := some 100, retries := 6, out := [outPkt] } }, by decide +kernel⟩⟩

theorem wit_TransportTimersAct :
    (∃ s : State, ∃ qpn : Nat, ∃ t : Nat, ∃ q : Qp, alive s.ao = true ∧ getQp s.dev qpn = some q ∧ q.rsp.ackFirstAt = some t) ∧
    (∃ s : State, ∃ qpn : Nat, ∃ t : Nat, ∃ psn : U32, ∃ q : Qp, ∃ o : OutPkt, alive s.ao = true ∧
      (let d := resendUnsent qpn psn s.dev; getQp d qpn = some q ∧ (q.rqr.out.find? fun o => o.psn == psn && o.head) = some o ∧
      o.delayUntil = some t)) ∧
    (∃ s : State, ∃ qpn : Nat, ∃ t : Nat, ∃ q : Qp, alive s.ao = true ∧ getQp s.dev qpn = some q ∧ clocksRun s.dev q = true ∧
      q.rqr.busySince = some t) ∧
    (∃ s : State, ∃ qpn : Nat, ∃ t : Nat, ∃ q : Qp, alive s.ao = true ∧ getQp s.dev qpn = some q ∧ clocksRun s.dev q = true ∧
      q.rqr.waitDue = some t) ∧
    (∃ s : State, ∃ c : Nat, ∃ t : Nat, ∃ x : Cq, alive s.ao = true ∧ tget s.dev.cqs c = some x ∧ canWrite s.dev x.ring.space = true ∧
      (getSlice s.dev x.slice).st ≠ .faultStop ∧ x.stallSince = some t) :=
  ⟨⟨st (setQp 5 { QL with rsp := { QL.rsp with ackFirstAt := some 100 } } D), 5, 100, { QL with rsp := { QL.rsp with ackFirstAt := some 100 } }, by decide +kernel⟩,
   ⟨st (setQp 5 { QL with rqr := { QL.rqr with out := [{ outPkt with delayUntil := some 50 }] } } D), 5, 50, 0, { QL with rqr := { QL.rqr with out := [{ outPkt with delayUntil := some 50 }] } }, { outPkt with delayUntil := some 50 }, by decide +kernel⟩,
   ⟨st (setQp 5 { QL with rqr := { QL.rqr with busySince := some 50 } } D), 5, 50, { QL with rqr := { QL.rqr with busySince := some 50 } }, by decide +kernel⟩,
   ⟨st (setQp 5 { QL with rqr := { QL.rqr with waitDue := some 50 } } D), 5, 50, { QL with rqr := { QL.rqr with waitDue := some 50 } }, by decide +kernel⟩,
   ⟨st { D with cqs := [(9, { C with stallSince := some 5 })] }, 9, 5, { C with stallSince := some 5 }, by decide +kernel⟩⟩

theorem wit_HostAssistedRates :
    (∃ s : State, ∃ qpn : Nat, ∃ q : Qp, alive s.ao = true ∧ getQp s.dev qpn = some q ∧ sliceLive s.dev q.slice = true ∧
      (getSlice s.dev q.slice).ccHa = true ∧ hasPacket s.dev qpn q = true ∧ (q.cc.tableAt = none ∨ ∃ t, q.cc.tableAt = some t ∧
      t + (getSlice s.dev q.slice).ratePoll < s.dev.now)) ∧
    (∃ s : State, ∃ k : Nat, alive s.ao = true ∧ (getSlice s.dev k).st = .live ∧ (getSlice s.dev k).ccHa = true) :=
  ⟨⟨st (setQp 5 { QL with rqr := { QL.rqr with started := [sendE] } } { D with slices := [(3, { sl with ccHa := true })] }), 5, { QL with rqr := { QL.rqr with started := [sendE] } }, by decide +kernel⟩,
   ⟨st { D with slices := [(3, { sl with ccHa := true })] }, 3, by decide +kernel⟩⟩

theorem wit_WindowCommandsComplete :
    (∃ s : State, ∃ h : Cmd, ∃ perm : Nat, ∃ space : Nat, ∃ base : Nat, ∃ length : Nat, Takes s 0x0201 h true ∧ perm < 16 ∧ spaceOk space = true ∧
      0 < length ∧ length < 2 ^ 48 ∧ base + length ≤ 2 ^ 48 ∧ spaceBound s.dev h.slice space = true ∧ quotaFull s.dev h.slice 2 = false ∧
      (∃ i, i < 2 ^ 24 ∧ windowFree s.dev i = true)) ∧
    (∃ s : State, ∃ h : Cmd, ∃ wkey : U32, ∃ w : Window, Takes s 0x0202 h true ∧ tget s.dev.windows (wkey.toNat / 256 % 2 ^ 24) = some w ∧
      w.v = true ∧ w.tag = BitVec.ofNat 8 wkey.toNat ∧ w.owner = h.slice ∧
      (let i := wkey.toNat / 256 % 2 ^ 24; (∀ x ∈ s.dev.xlt.holders, x.window ≠ some i))) ∧
    (∃ s : State, ∃ h : Cmd, ∃ wkey : U32, ∃ w : Window, Takes s 0x0202 h true ∧ tget s.dev.windows (wkey.toNat / 256 % 2 ^ 24) = some w ∧
      w.v = true ∧ w.tag = BitVec.ofNat 8 wkey.toNat ∧ w.owner = h.slice ∧
      (let i := wkey.toNat / 256 % 2 ^ 24; (∃ x ∈ s.dev.xlt.holders, x.window = some i))) ∧
    (∃ s : State, ∃ h : Cmd, ∃ i : Nat, ∃ w : Window, Takes s 0x0203 h true ∧ i < 2 ^ 24 ∧ tget s.dev.windows i = some w ∧
      (w.v = true ∨ w.closing = true) ∧ w.owner = h.slice) :=
  ⟨⟨st D, H, 15, 9, 2 ^ 48 - 1, 1, by and_intros <;> first | decide +kernel | exact ⟨1, by norm_num, by decide +kernel⟩⟩,
   ⟨st { D with windows := [(7, ⟨1, 3, true, true, true, true, true, 0, 4096, 0, false, none, true, 0⟩)] }, H, 0x701, ⟨1, 3, true, true, true, true, true, 0, 4096, 0, false, none, true, 0⟩, by decide +kernel⟩,
   ⟨st { D with windows := [(7, ⟨1, 3, true, true, true, true, true, 0, 4096, 0, false, none, true, 0⟩)], xlt := { Xlt.reset with holders := [⟨1, 3, 0, some 7, .qp, 5, 1⟩] } }, H, 0x701, ⟨1, 3, true, true, true, true, true, 0, 4096, 0, false, none, true, 0⟩, by decide +kernel⟩,
   ⟨st { D with windows := [(7, ⟨1, 3, true, true, true, true, true, 0, 4096, 0, false, none, true, 0⟩)] }, H, 7, ⟨1, 3, true, true, true, true, true, 0, 4096, 0, false, none, true, 0⟩, by decide +kernel⟩⟩

theorem wit_RootAndInvalidationCommandsComplete :
    (∃ s : State, ∃ h : Cmd, ∃ space : Nat, ∃ root : Nat, Takes s 0x0204 h true ∧ spaceOk space = true ∧ root % 4096 = 0 ∧ root < 2 ^ 52 ∧
      (closedEpochs s.dev h.slice).length < 4 ∧ (let e := (getSlice s.dev h.slice).epoch; holdersOf s.dev h.slice e = [])) ∧
    (∃ s : State, ∃ h : Cmd, ∃ space : Nat, ∃ root : Nat, Takes s 0x0204 h true ∧ spaceOk space = true ∧ root % 4096 = 0 ∧ root < 2 ^ 52 ∧
      (closedEpochs s.dev h.slice).length < 4 ∧ (let e := (getSlice s.dev h.slice).epoch; holdersOf s.dev h.slice e ≠ [])) ∧
    (∃ s : State, ∃ h : Cmd, ∃ space : Nat, ∃ whole : Nat, ∃ base : Nat, ∃ length : Nat, Takes s 0x0205 h true ∧ spaceOk space = true ∧
      ((whole = 1 ∧ base = 0 ∧ length = 0) ∨ (whole = 0 ∧ 0 < length ∧ base + length ≤ 2 ^ 48)) ∧ (closedEpochs s.dev h.slice).length < 4 ∧
      (let e := (getSlice s.dev h.slice).epoch; holdersOf s.dev h.slice e = [])) ∧
    (∃ s : State, ∃ h : Cmd, ∃ space : Nat, ∃ whole : Nat, ∃ base : Nat, ∃ length : Nat, Takes s 0x0205 h true ∧ spaceOk space = true ∧
      ((whole = 1 ∧ base = 0 ∧ length = 0) ∨ (whole = 0 ∧ 0 < length ∧ base + length ≤ 2 ^ 48)) ∧ (closedEpochs s.dev h.slice).length < 4 ∧
      (let e := (getSlice s.dev h.slice).epoch; holdersOf s.dev h.slice e ≠ [])) ∧
    (∃ s : State, ∃ h : Cmd, ∃ epoch : Nat, Takes s 0x0206 h true ∧ epoch < 65536 ∧
      (let e := BitVec.ofNat 16 epoch; 1 ≤ ((getSlice s.dev h.slice).epoch - e).toNat ∧ ((getSlice s.dev h.slice).epoch - e).toNat ≤ 32768 ∧
      holdersOf s.dev h.slice e = [])) ∧
    (∃ s : State, ∃ h : Cmd, ∃ epoch : Nat, Takes s 0x0206 h true ∧ epoch < 65536 ∧
      (let e := BitVec.ofNat 16 epoch; 1 ≤ ((getSlice s.dev h.slice).epoch - e).toNat ∧ ((getSlice s.dev h.slice).epoch - e).toNat ≤ 32768 ∧
      holdersOf s.dev h.slice e ≠ [])) :=
  ⟨⟨st D, H, 9, 0x80000000, by decide +kernel⟩,
   ⟨st { D with xlt := { Xlt.reset with holders := [⟨1, 3, 0, some 7, .qp, 5, 1⟩] } }, H, 0, 0, by decide +kernel⟩,
   ⟨st D, H, 0, 0, 2 ^ 48 - 1, 1, by decide +kernel⟩,
   ⟨st { D with xlt := { Xlt.reset with holders := [⟨1, 3, 0, some 7, .qp, 5, 1⟩] } }, H, 0, 1, 0, 0, by decide +kernel⟩,
   ⟨st D, H, 32768, by decide +kernel⟩,
   ⟨st { D with slices := [(3, { sl with epoch := 1 })], xlt := { Xlt.reset with holders := [⟨1, 3, 0, some 7, .qp, 5, 1⟩] } }, H, 0, by decide +kernel⟩⟩

theorem wit_InvalidationWithdraws :
    (∃ slice : Nat, ∃ k, k ≠ slice) ∧
    (∃ lo : Nat, ∃ hi : Nat, ∃ page, lo ≤ page ∧ page < hi) ∧
    (∃ d : Dev, ∃ slice space lo hi : Nat, ∃ p : WalkPtr, p ∈ (invalidate slice space lo hi d).2.xlt.ptrs ∧ p.slice = slice ∧ p.space = space) ∧
    (∃ slice : Nat, ∃ k, k ≠ slice) :=
  ⟨⟨3, 4, by decide +kernel⟩,
   ⟨0, 1, 0, by decide +kernel⟩,
   ⟨{ D with xlt := { Xlt.reset with ptrs := [⟨0, 3, 0, 3, 5, 7⟩] } }, 3, 0, 0, 1, ⟨0, 3, 0, 3, 5, 7⟩, by decide +kernel⟩,
   ⟨3, 4, by decide +kernel⟩⟩

theorem wit_HolderWaitsEnd :
    (∃ s : State, ∃ i : Nat, alive s.ao = true ∧ (∀ x ∈ s.dev.xlt.holders, x.window ≠ some i)) ∧
    (∃ s : State, alive s.ao = true) ∧
    (∃ d : Dev, ∃ slice : Nat, ∃ v : Bool, ∃ done : Bool, ∃ n : BitVec 16, (getSlice d slice).xltHaNext = some (v, n, done) ∧
      n ≠ (getSlice d slice).epoch ∧ holdersOf d slice n = [] ∧ crumbsOut d slice = false) ∧
    (∃ s : State, ∃ slice : Nat, ∃ t : Nat, ∃ h : Cmd, ∃ op : Nat, ∃ e : BitVec 16, alive s.ao = true ∧
      (s.dev.waits.find? fun w => (waitSince slice none w.2.2).isSome) = some (h, op, .epoch slice e t)) ∧
    (∃ s : State, ∃ slice : Nat, ∃ i : Nat, ∃ t : Nat, ∃ h : Cmd, ∃ op : Nat, ∃ w : Window, alive s.ao = true ∧
      (s.dev.waits.find? fun x => (waitSince slice (some i) x.2.2).isSome) = some (h, op, .window i t) ∧ tget s.dev.windows i = some w) :=
  ⟨⟨st D, 7, by decide +kernel⟩,
   ⟨st D, by decide +kernel⟩,
   ⟨{ D with slices := [(3, { sl with xltHaNext := some (true, 1, false) })] }, 3, true, false, 1, by decide +kernel⟩,
   ⟨st { D with waits := [(H, 0x0205, .epoch 3 0 10)] }, 3, 10, H, 0x0205, 0, by decide +kernel⟩,
   ⟨st { D with windows := [(7, ⟨1, 3, true, true, true, true, true, 0, 4096, 0, false, none, true, 0⟩)], waits := [(H, 0x0202, .window 7 10)] }, 3, 7, 10, H, 0x0202, ⟨1, 3, true, true, true, true, true, 0, 4096, 0, false, none, true, 0⟩, by decide +kernel⟩⟩

/-- A Crumb of page 1 of space 0, its fault, and its FAILED record. -/
def cr : Crumb := ⟨0, 1, 3, false, 5, 0, 0, 1, 0, 1, 1, 0, 0, 1⟩
def flt : Fault1 := ⟨0, cr, true, false, false, false, true, [(.fetch 5 false, 1, 100)]⟩

/-- A page table that is its own second and third level, with a leaf for page 1. -/
def DT : Dev := { D with
  mem := memWrite [] 0x80000000 (natLe (2 ^ 63 + 0x80000000) 8 ++ natLe (2 ^ 63 + 2 ^ 62 + 2 ^ 61 + 2 ^ 60 + 0x99000) 8)
  xlt := { Xlt.reset with roots := [(48, 0x80000000)], walks := [⟨3, 0, 1, false, true, [(.fetch 5 false, 1)]⟩] } }

theorem wit_FaultsAreResolved :
    (∃ s : State, ∃ h : Cmd, ∃ r : RingP, Takes s 0x0208 h true ∧ spaceOk r.space = true ∧ 6 ≤ r.lg ∧ r.lg ≤ 16 ∧
      (getSlice s.dev h.slice).faultQ = none ∧ ringStatus s.dev h.slice r.space r.base r.lg 32 = csOk) ∧
    (∃ s : State, ∃ h : Cmd, ∃ items : List (Nat × Nat), Takes s 0x0207 h true ∧ 1 ≤ items.length ∧ items.length ≤ 16 ∧ (∀ x ∈ items, x.2 ≤ 1)) ∧
    (∃ s : State, ∃ slice : Nat, ∃ space : Nat, ∃ page : Nat, ∃ k : Walk, ∃ pfn : Nat, ∃ run : Nat, ∃ r : Bool, ∃ w : Bool,
      ∃ ns : Bool, alive s.ao = true ∧ (s.dev.xlt.walks.find? fun x => walkOf slice space page x && !x.ats && walkRuns s.dev x) = some k ∧
      walk s.dev slice space page 0 = .leaf pfn run r w ns) ∧
    (∃ s : State, ∃ slice : Nat, ∃ t : Nat, alive s.ao = true ∧ (getSlice s.dev slice).crumbsFrom = some t) ∧
    (∃ s : State, ∃ qpn : Nat, ∃ t : Nat, ∃ rq : Bool, ∃ q : Qp, alive s.ao = true ∧ getQp s.dev qpn = some q ∧ sliceLive s.dev q.slice = true ∧
      (wq q rq).faultDue = some t) ∧
    (∃ s : State, ∃ qpn : Nat, ∃ t : Nat, ∃ q : Qp, ∃ i : U32, alive s.ao = true ∧ getQp s.dev qpn = some q ∧ sliceLive s.dev q.slice = true ∧
      sendFaultDue s.dev qpn q = some (t, i)) ∧
    (∃ s : State, ∃ slice : Nat, ∃ space : Nat, ∃ page : Nat, ∃ f : FailedRec, alive s.ao = true ∧
      (s.dev.xlt.failed.find? fun f => f.slice == slice && f.space == space && f.page == page) = some f) :=
  ⟨⟨st D, H, ⟨1, 0x80000000, 16, 0⟩, by decide +kernel⟩,
   ⟨st D, H, [(1, 0), (2, 1), (3, 0), (4, 0), (5, 0), (6, 0), (7, 0), (8, 0), (9, 0), (10, 0), (11, 0), (12, 0), (13, 0), (14, 0), (15, 0), (16, 0)], by decide +kernel⟩,
   ⟨st DT, 3, 0, 1, ⟨3, 0, 1, false, true, [(.fetch 5 false, 1)]⟩, 0x99, 0, true, true, false, by decide +kernel⟩,
   ⟨st { D with slices := [(3, { sl with crumbsFrom := some 5 })] }, 3, 5, by decide +kernel⟩,
   ⟨st (setQp 5 { QL with sq := { QL.sq with faultDue := some 50 } } D), 5, 50, false, { QL with sq := { QL.sq with faultDue := some 50 } }, by decide +kernel⟩,
   ⟨st (setQp 5 { QL with rqr := { QL.rqr with started := [{ sendE with faultDue := some 50 }] } } D), 5, 50, { QL with rqr := { QL.rqr with started := [{ sendE with faultDue := some 50 }] } }, 0, by decide +kernel⟩,
   ⟨st { D with xlt := { Xlt.reset with failed := [⟨3, 0, 1, 100⟩] } }, 3, 0, 1, ⟨3, 0, 1, 100⟩, by decide +kernel⟩⟩

theorem wit_HostTranslationCompletes :
    (∃ s : State, ∃ slice : Nat, ∃ page : Nat, ∃ r : Bool, ∃ w : Bool, ∃ k : Walk, alive s.ao = true ∧
      (s.dev.xlt.walks.find? fun x => walkOf slice 0 page x && x.ats) = some k ∧ (r = true ∨ w = true)) ∧
    (∃ s : State, ∃ slice : Nat, ∃ page : Nat, ∃ f : Fault1, alive s.ao = true ∧
      ((hostFaults s.dev slice).find? fun f => f.crumb.page == page && f.asked && !f.hasCrumb) = some f) ∧
    (∃ s : State, alive s.ao = true) ∧
    (∃ s : State, ∃ qpn : Nat, ∃ q : Qp, Carries s ∧ getQp s.dev qpn = some q ∧ q.cached = false ∧ poisonedAt s.dev (contextAddr qpn) 512 = false) ∧
    (∃ s : State, ∃ i : Nat, ∃ w : Window, Carries s ∧ tget s.dev.windows i = some w ∧ w.v = true ∧ w.cached = false ∧
      poisonedAt s.dev (windowAddr i) 16 = false) :=
  ⟨⟨st { D with xlt := { Xlt.reset with walks := [⟨3, 0, 1, true, true, [(.fetch 5 false, 1)]⟩] } }, 3, 1, true, false, ⟨3, 0, 1, true, true, [(.fetch 5 false, 1)]⟩, by decide +kernel⟩,
   ⟨st { D with xlt := { Xlt.reset with faults := [flt] } }, 3, 1, flt, by decide +kernel⟩,
   ⟨st D, by decide +kernel⟩,
   ⟨st (setQp 5 { QL with cached := false } D), 5, { QL with cached := false }, by decide +kernel⟩,
   ⟨st { D with windows := [(7, ⟨1, 3, true, true, true, true, true, 0, 4096, 0, false, none, false, 0⟩)] }, 7, ⟨1, 3, true, true, true, true, true, 0, 4096, 0, false, none, false, 0⟩, by decide +kernel⟩⟩

/-- A program of one VMOV from IN to OUT and END (Tables 5.6 to 5.9): magic, version 1, two instructions, granules of 128 bytes, two
issue cycles, one engine. -/
def image : List Byte := natLe (0x5A585450 * 2 ^ 480 + 2 ^ 464 + 2 * 2 ^ 448 + 128 * 2 ^ 416 + 128 * 2 ^ 400 + 1 * 2 ^ 288 + 2 ^ 275) 64 ++
  natLe (0x01 * 2 ^ 56 + 66 * 2 ^ 37 + 64 * 2 ^ 30) 8 ++ natLe (0x5F * 2 ^ 56) 8
def im : ImageRead := ⟨0x1000, image.length, true, false, image⟩
/-- The adapter with that image in the stacks, on page 1 of slice 3's space 1. -/
def DI : Dev := { D with
  mem := memWrite [] 0x80001000 image
  xlt := { Xlt.reset with roots := [(49, 0x80000000)], cache := [
    { slice := 3, space := 1, page := 1, run := 0, pfn := 0x80001, r := true, w := true, ns := false, epoch := 0, ats := false, untrans := false }] } }
def pg : Program := ⟨1, 3, 63, 0, 128, 128, 0, 0, 0, 1, 0, [0x1084010000000, 0x5F00000000000000], [], [0], false⟩

/-- A work item of queue pair 5. -/
def it (stage : ItemStage) : Item := ⟨2, 3, 5, 0, 1, none, 0, 0, none, [], [], 128, List.replicate 128 0, false, .wire 5 0 0, [], [], none, stage, 0, [], none, none, none, none, none⟩
def DP (stage : ItemStage) : Dev := { D with programs := [pg], items := [it stage] }

theorem wit_ProgramCommandsComplete :
    (∃ s : State, ∃ h : Cmd, ∃ slot : Nat, ∃ mask : Nat, ∃ space : Nat, ∃ im : ImageRead, ∃ x : Image, Takes s 0x0301 h true ∧ slot < 64 ∧
      mask < 2 ^ 24 ∧ space < 2 ∧ im.addr + im.len ≤ 2 ^ 48 ∧ imageMisses s.dev h.slice space im = [] ∧
      checkImage (readImage h.slice space im s.dev).1 = .inr x ∧ (mask = 0 ∨ (maskEngines mask).length = x.engines) ∧
      (let d := (readImage h.slice space im s.dev).2; (let r := placeImage d d.programs h.slice slot mask d.freeCtr x; fitFails d r.1 h.slice r.2 x.engines = none))) ∧
    (∃ s : State, ∃ h : Cmd, ∃ items : List PlanItem, ∃ l : List Program, ∃ ps : List (Program × Nat), Takes s 0x0302 h true ∧ 1 ≤ items.length ∧
      items.length ≤ 64 ∧ (items.map (·.slot)).Nodup ∧ (∀ x ∈ items, x.slot < 64 ∧ x.mask < 2 ^ 24 ∧ x.space < 2 ∧
      x.image.addr + x.image.len ≤ 2 ^ 48) ∧ (∀ x ∈ items, imageMisses s.dev h.slice x.space x.image = []) ∧
      (let d := (readPlan h.slice items s.dev).2; placePlan d h.slice 0 (readPlan h.slice items s.dev).1 d.programs [] = .inr (l, ps) ∧
      (∀ x ∈ ps, fitFails d l h.slice x.1 x.2 = none))) ∧
    (∃ s : State, ∃ h : Cmd, ∃ slot : Nat, ∃ p : Program, Takes s 0x0303 h true ∧ slot < 64 ∧ findProg s.dev h.slice slot = some p) ∧
    (∃ s : State, ∃ h : Cmd, ∃ slot : Nat, ∃ offset : Nat, ∃ data : List Byte, ∃ p : Program, Takes s 0x0304 h true ∧ slot < 64 ∧
      findProg s.dev h.slice slot = some p ∧ offset + data.length ≤ p.auxBytes) ∧
    (∃ s : State, ∃ h : Cmd, ∃ mask : Nat, Takes s 0x0305 h false ∧ mask < 2 ^ 24) :=
  ⟨⟨st DI, H, 63, 1, 1, im, imageOf image, by decide +kernel⟩,
   ⟨st DI, H, [⟨63, 1, 1, im⟩], (placeImage DI [] 3 63 1 0 (imageOf image)).1, [((placeImage DI [] 3 63 1 0 (imageOf image)).2, 1)], by decide +kernel⟩,
   ⟨st { D with programs := [pg] }, H, 63, pg, by decide +kernel⟩,
   ⟨st { D with programs := [{ pg with auxBytes := 32 }] }, H, 63, 0, List.replicate 32 0, { pg with auxBytes := 32 }, by decide +kernel⟩,
   ⟨st D, H0, 2 ^ 24 - 1, by decide +kernel⟩⟩

theorem wit_EngineWorkCompletes :
    (∃ s : State, ∃ id : Nat, ∃ e : Nat, ∃ i : Item, ∃ p : Program, alive s.ao = true ∧ findItem s.dev id = some i ∧ i.stage = .queued ∧
      sliceLive s.dev i.slice = true ∧ (i.slot = none ∨ ∃ k g, i.slot = some k ∧ findProg s.dev i.slice k = some g ∧ g.id = i.prog ∧
      i.len % Nat.max 1 g.inGran = 0) ∧ progOf s.dev i.prog = some p ∧ bestEngine s.dev p.engines = some e) ∧
    (∃ s : State, ∃ id : Nat, ∃ k : Nat, ∃ e : Nat, ∃ i : Item, ∃ i' : Item, ∃ g : Program, ∃ p : Program, alive s.ao = true ∧
      findItem s.dev id = some i ∧ i.stage = .queued ∧ sliceLive s.dev i.slice = true ∧ i.slot = some k ∧ findProg s.dev i.slice k = some g ∧
      i.len % Nat.max 1 g.inGran = 0 ∧ g.id ≠ i.prog ∧
      (let d := { s.dev with items := s.dev.items.map fun x => if x.id = i.id then underProgram s.dev g x else x }; findItem d id = some i' ∧
      progOf d i'.prog = some p ∧ bestEngine d p.engines = some e)) ∧
    (∃ s : State, ∃ id : Nat, ∃ e : Nat, ∃ i : Item, alive s.ao = true ∧ findItem s.dev id = some i ∧ i.stage = .waitLock e ∧
      lockFree (dropLocks s.dev) i = true) ∧
    (∃ s : State, ∃ id : Nat, ∃ e : Nat, ∃ x : ReadData, ∃ i : Item, ∃ p : Program, alive s.ao = true ∧ findItem s.dev id = some i ∧
      i.stage = .resident e ∧ progOf s.dev i.prog = some p ∧ readsClosed s.dev i p = false ∧ sliceLive s.dev i.slice = true ∧
      (let input := itemInput s.dev i x; (writesLate i p = false ∨ input.refused = true))) ∧
    (∃ s : State, ∃ id : Nat, ∃ e : Nat, ∃ x : ReadData, ∃ i : Item, ∃ p : Program, alive s.ao = true ∧ findItem s.dev id = some i ∧
      i.stage = .resident e ∧ progOf s.dev i.prog = some p ∧ readsClosed s.dev i p = false ∧ sliceLive s.dev i.slice = true ∧
      (let input := itemInput s.dev i x; writesLate i p = true ∧ input.refused = false)) ∧
    (∃ s : State, ∃ qpn : Nat, ∃ psn : U32, ∃ q : Qp, alive s.ao = true ∧ getQp s.dev qpn = some q ∧ (∃ a ∈ s.dev.accums, a.qpn = qpn ∧
      a.psn = psn)) :=
  ⟨⟨st (DP .queued), 2, 0, it .queued, pg, by and_intros <;> first | decide +kernel | exact Or.inl rfl⟩,
   ⟨st { D with programs := [pg, { pg with id := 2, dead := true }], items := [{ it .queued with slot := some 63, prog := 2 }] }, 2, 63, 0, { it .queued with slot := some 63, prog := 2 }, { it .queued with slot := some 63, prog := 1 }, pg, pg, by decide +kernel⟩,
   ⟨st (DP (.waitLock 0)), 2, 0, it (.waitLock 0), by decide +kernel⟩,
   ⟨st (DP (.resident 0)), 2, 0, ⟨[], false, false⟩, it (.resident 0), pg, by decide +kernel⟩,
   ⟨st { D with programs := [pg], items := [{ it (.resident 0) with dest := .target 5 0 3 0x701 0 }] }, 2, 0, ⟨[], false, false⟩, { it (.resident 0) with dest := .target 5 0 3 0x701 0 }, pg, by decide +kernel⟩,
   ⟨st { D with accums := [⟨5, 0, 0, true, [], false, 1⟩] }, 5, 0, QL, by decide +kernel⟩⟩

theorem wit_DispatchPicksLeastLoaded : ∃ d l e x, bestEngine d l = some e ∧ x ∈ l ∧ x ≠ e ∧ (getEngine d x).mode = .service :=
  ⟨D, [5, 4], 4, 5, by decide +kernel⟩

theorem wit_FormatsRoundTrip :
    (∃ c : Nat, ∃ f : FloatFmt, ∃ x : Nat, floatFmt c = some f ∧ x < 2 ^ (1 + f.ebits + f.mbits) ∧ isNan (floatVal f x) = false) :=
  ⟨0, fp32, 0x7F800000, by decide +kernel⟩

/-- Group 4 of two ranks over queue pair 5, with its member table in the stacks and its work window 7 in them; queue pair 5 as its own
far end; an expert map of one expert; a reducer in slot 63. -/
def cp : CollP := ⟨4, 2, 0, 1, 7, 8192, 0, 0, 0, 1000, 0x80000000, 0, 0⟩
def wn : Window := ⟨1, 3, true, true, true, true, true, 1, 4096, 0x80002000, false, none, true, 0⟩
def DG : Dev := { D with
  mem := memWrite (memWrite [] 0x80000000 (natLe (0x701 * 2 ^ 96) 16 ++ natLe (2 ^ 63 + 5 * 2 ^ 32) 16)) 0x80001000 (natLe 0x4000 4)
  windows := [(7, wn)], programs := [{ pg with tgtGran := 128, workBytes := 8 }] }
def gp : Group := newGroup DG 3 cp
def run1 : CollRun := ⟨1, 5, 0, 0, 2, 0, 512, 0, 0, none, true, 0, true, [], [], 0, 0, 0, 0, 0, false⟩
/-- The same run before its input is in place, in a region past the end of the window, for an entry of queue pair 5. -/
def runOut : CollRun := { run1 with started := false, region := 8192 }
def mo : MoeP := ⟨4, 1, 1, 1, 1, 128, 128, 0x80001000, 0, 0, 63⟩

theorem wit_GroupCommandsComplete :
    (∃ s : State, ∃ h : Cmd, ∃ p : CollP, Takes s 0x0401 h true ∧ firstBad (collRange p) = none ∧
      collRefusal s.dev h.slice p (newGroup s.dev h.slice p) = none ∧ tget s.dev.groups p.group = none ∧ quotaFull s.dev h.slice 9 = false) ∧
    (∃ s : State, ∃ h : Cmd, ∃ gid : Nat, ∃ g : Group, Takes s 0x0402 h true ∧ tget s.dev.groups gid = some g ∧ g.slice = h.slice) ∧
    (∃ s : State, ∃ h : Cmd, ∃ gid : Nat, ∃ g : Group, Takes s 0x0403 h true ∧ tget s.dev.groups gid = some g ∧ g.slice = h.slice ∧ g.run = none) ∧
    (∃ s : State, ∃ h : Cmd, ∃ p : MoeP, ∃ g : Group, Takes s 0x0404 h true ∧ tget s.dev.groups p.group = some g ∧ g.slice = h.slice ∧
      firstBad (moeRange p (groupMtu s.dev g)) = none ∧ g.p.channels = 1 ∧ g.p.algoMask.testBit 2 = true ∧
      inAllocation s.dev h.slice p.map (4 * p.experts) = true ∧ poisonedAt s.dev p.map (4 * p.experts) = false ∧
      (readWords s.dev.mem p.map p.experts).all (mapOk g p) = true ∧ reducerOk s.dev h.slice p.combSlot 8 = true ∧ groupBusy g = false) ∧
    ((∃ s : State, ∃ gid : Nat, alive s.ao = true ∧ inputPasses s.dev gid = none) ∧ ∃ s : State, ∃ gid : Nat, ∃ o : Nat × U32, alive s.ao = true ∧ inputPasses s.dev gid = some o) ∧
    (∃ s : State, ∃ gid : Nat, ∃ g : Group, ∃ r : CollRun, alive s.ao = true ∧ tget s.dev.groups gid = some g ∧ g.run = some r ∧ r.phase ≠ 1 ∧
      sliceLive s.dev g.slice = true) :=
  ⟨⟨st DG, H, cp, by decide +kernel⟩,
   ⟨st { DG with groups := [(4, gp)] }, H, 4, gp, by decide +kernel⟩,
   ⟨st { DG with groups := [(4, gp)] }, H, 4, gp, by decide +kernel⟩,
   ⟨st { DG with groups := [(4, gp)] }, H, mo, gp, by decide +kernel⟩,
   ⟨⟨st D, 4, by decide +kernel⟩, st (setQp 5 { QL with rqr := { QL.rqr with started := [{ sendE with e := { sendE.e with raw := 0x1010000000000 } }] } } { DG with groups := [(4, { gp with run := some runOut })] }), 4, (5, 0), by decide +kernel⟩,
   ⟨st { DG with groups := [(4, { gp with run := some run1 })] }, 4, { gp with run := some run1 }, run1, by decide +kernel⟩⟩

def sp : StageP := ⟨2, 0, 5, 0, 64, 4096, 0x701, 0, 8, 64, 0x80000000⟩
def sm : Stream := ⟨3, true, some 5, sp, 4, 2, 1, [], 0, none⟩

theorem wit_StageCommandsComplete :
    (∃ s : State, ∃ h : Cmd, ∃ p : StageP, ∃ q : Qp, Takes s 0x0405 h true ∧ firstBad (stageRange p) = none ∧ getQp s.dev p.qpn = some q ∧
      q.slice = h.slice ∧ q.stream = none ∧ tget s.dev.streams p.stream = none ∧
      (p.role = 0 → p.k * p.slotBytes ≤ quotaLimit s.dev h.slice 3 * 0x200000 ∧ inAllocation s.dev h.slice p.log (p.k * p.slotBytes) = true) ∧
      quotaFull s.dev h.slice 10 = false) ∧
    (∃ s : State, ∃ h : Cmd, ∃ p : StageP, ∃ q : Qp, ∃ x : Stream, Takes s 0x0405 h true ∧ firstBad (stageRange p) = none ∧
      getQp s.dev p.qpn = some q ∧ q.slice = h.slice ∧ q.stream = none ∧ tget s.dev.streams p.stream = some x ∧ x.slice = h.slice ∧
      x.sender = (p.role == 0)) ∧
    (∃ s : State, ∃ h : Cmd, ∃ n : Nat, ∃ qpn : Nat, ∃ from_ : U32, ∃ x : Stream, Takes s 0x0406 h true ∧ tget s.dev.streams n = some x ∧
      x.slice = h.slice ∧ x.sender = true ∧ x.qpn = some qpn ∧ (from_ - x.oldest).toNat ≤ (x.nextSeq - x.oldest).toNat ∧
      seqLe x.logged from_ = true) ∧
    (∃ s : State, ∃ h : Cmd, ∃ n : Nat, ∃ qpn : Nat, ∃ from_ : U32, ∃ x : Stream, Takes s 0x0406 h true ∧ tget s.dev.streams n = some x ∧
      x.slice = h.slice ∧ x.sender = true ∧ x.qpn = some qpn ∧ (from_ - x.oldest).toNat ≤ (x.nextSeq - x.oldest).toNat ∧
      seqLe x.logged from_ = false) ∧
    (∃ s : State, ∃ h : Cmd, ∃ n : Nat, ∃ x : Stream, Takes s 0x040A h true ∧ tget s.dev.streams n = some x ∧ x.slice = h.slice) :=
  ⟨⟨st D, H, sp, QL, by decide +kernel⟩,
   ⟨st { D with streams := [(2, { sm with qpn := none })] }, H, sp, QL, { sm with qpn := none }, by decide +kernel⟩,
   ⟨st { D with streams := [(2, sm)] }, H, 2, 5, 4, sm, by decide +kernel⟩,
   ⟨st { D with streams := [(2, sm)] }, H, 2, 5, 1, sm, by decide +kernel⟩,
   ⟨st { D with streams := [(2, sm)] }, H, 2, sm, by decide +kernel⟩⟩

theorem wit_TriggerCommandsComplete :
    (∃ s : State, ∃ h : Cmd, ∃ p : TrigP, ∃ src : Qp, ∃ dst : Qp, Takes s 0x0407 h true ∧ p.trig < 65536 ∧ p.kind = 0 ∧ 1 ≤ p.count ∧
      p.count ≤ 65535 ∧ getQp s.dev p.source = some src ∧ src.slice = h.slice ∧ getQp s.dev p.target = some dst ∧ dst.slice = h.slice ∧
      tget s.dev.triggers p.trig = none ∧ quotaFull s.dev h.slice 11 = false) ∧
    (∃ s : State, ∃ h : Cmd, ∃ p : TrigP, ∃ src : Cq, ∃ dst : Qp, Takes s 0x0407 h true ∧ p.trig < 65536 ∧ p.kind = 1 ∧
      tget s.dev.cqs p.source = some src ∧ src.slice = h.slice ∧ getQp s.dev p.target = some dst ∧ dst.slice = h.slice ∧
      tget s.dev.triggers p.trig = none ∧ quotaFull s.dev h.slice 11 = false ∧ (src.counter - p.threshold).toNat < 2 ^ 31) ∧
    (∃ s : State, ∃ h : Cmd, ∃ p : TrigP, ∃ src : Cq, ∃ dst : Qp, Takes s 0x0407 h true ∧ p.trig < 65536 ∧ p.kind = 1 ∧
      tget s.dev.cqs p.source = some src ∧ src.slice = h.slice ∧ getQp s.dev p.target = some dst ∧ dst.slice = h.slice ∧
      tget s.dev.triggers p.trig = none ∧ quotaFull s.dev h.slice 11 = false ∧ 2 ^ 31 ≤ (src.counter - p.threshold).toNat) ∧
    (∃ s : State, ∃ h : Cmd, ∃ n : Nat, ∃ threshold : U32, ∃ t : Trigger, ∃ c : Cq, Takes s 0x0408 h true ∧ tget s.dev.triggers n = some t ∧
      t.slice = h.slice ∧ t.p.kind = 1 ∧ tget s.dev.cqs t.p.source = some c ∧ (c.counter - threshold).toNat < 2 ^ 31) ∧
    (∃ s : State, ∃ h : Cmd, ∃ n : Nat, ∃ threshold : U32, ∃ t : Trigger, ∃ c : Cq, Takes s 0x0408 h true ∧ tget s.dev.triggers n = some t ∧
      t.slice = h.slice ∧ t.p.kind = 1 ∧ tget s.dev.cqs t.p.source = some c ∧ 2 ^ 31 ≤ (c.counter - threshold).toNat) ∧
    (∃ s : State, ∃ h : Cmd, ∃ n : Nat, ∃ t : Trigger, Takes s 0x0409 h true ∧ tget s.dev.triggers n = some t ∧ t.slice = h.slice) :=
  ⟨⟨st D, H, ⟨65535, 0, 5, 6, 0, 0, 65535, 0⟩, QL, Q, by decide +kernel⟩,
   ⟨st D, H, ⟨65535, 1, 9, 6, 0, 0, 0, 0⟩, C, Q, by decide +kernel⟩,
   ⟨st D, H, ⟨65535, 1, 9, 6, 0, 0, 0, 0x80000000⟩, C, Q, by decide +kernel⟩,
   ⟨st { D with triggers := [(11, ⟨3, ⟨11, 1, 9, 6, 0, 0, 0, 1⟩, 0, false⟩)] }, H, 11, 0x80000001, ⟨3, ⟨11, 1, 9, 6, 0, 0, 0, 1⟩, 0, false⟩, C, by decide +kernel⟩,
   ⟨st { D with triggers := [(11, ⟨3, ⟨11, 1, 9, 6, 0, 0, 0, 1⟩, 0, false⟩)] }, H, 11, 0x80000000, ⟨3, ⟨11, 1, 9, 6, 0, 0, 0, 1⟩, 0, false⟩, C, by decide +kernel⟩,
   ⟨st { D with triggers := [(11, ⟨3, ⟨11, 1, 9, 6, 0, 0, 0, 1⟩, 0, false⟩)] }, H, 11, ⟨3, ⟨11, 1, 9, 6, 0, 0, 0, 1⟩, 0, false⟩, by decide +kernel⟩⟩

theorem wit_CreditsFollowR239 :
    (∃ d : Dev, ∃ n : Nat, ∃ q : Qp, getQp d n = some q ∧ q.st ≠ .error ∧ q.rqr.credits < 65535) ∧
    (∃ d : Dev, ∃ n : Nat, ∃ q : Qp, getQp d n = some q ∧ q.st ≠ .error ∧ 65535 ≤ q.rqr.credits) ∧
    (∃ d : Dev, ∃ n : Nat, ∃ q : Qp, getQp d n = some q ∧ q.st = .error) :=
  ⟨⟨setQp 5 { QL with rqr := { QL.rqr with credits := 65534 } } D, 5, { QL with rqr := { QL.rqr with credits := 65534 } }, by decide +kernel⟩,
   ⟨setQp 5 { QL with rqr := { QL.rqr with credits := 65535 } } D, 5, { QL with rqr := { QL.rqr with credits := 65535 } }, by decide +kernel⟩,
   ⟨setQp 5 { QL with st := .error } D, 5, { QL with st := .error }, by decide +kernel⟩⟩

theorem wit_AlgorithmChoiceFollowsR205 :
    (∃ mask : Nat, ∃ n : Nat, (let direct : Prop := mask.testBit 2 = true; (direct ∧ n ≤ 64))) ∧
    (∃ mask : Nat, ∃ n : Nat, ∃ op : Nat, ∃ size : Nat, (let tree : Prop := mask.testBit 1 = true ∧
      (op = allReduce ∨ op = broadcast); (let direct : Prop := mask.testBit 2 = true; (¬(direct ∧ n ≤ 64)) ∧ (tree ∧ size < 262144)))) ∧
    (∃ mask : Nat, ∃ n : Nat, ∃ op : Nat, ∃ size : Nat, (let ring : Prop := mask.testBit 0 = true ∧
      op ≠ allToAll; (let tree : Prop := mask.testBit 1 = true ∧
      (op = allReduce ∨ op = broadcast); (let direct : Prop := mask.testBit 2 = true; (¬(direct ∧ n ≤ 64)) ∧ (¬(tree ∧ size < 262144)) ∧ ring)))) ∧
    (∃ mask : Nat, ∃ n : Nat, ∃ op : Nat, ∃ size : Nat, (let ring : Prop := mask.testBit 0 = true ∧
      op ≠ allToAll; (let tree : Prop := mask.testBit 1 = true ∧
      (op = allReduce ∨ op = broadcast); (let direct : Prop := mask.testBit 2 = true; (¬(direct ∧ n ≤ 64)) ∧ (¬(tree ∧ size < 262144)) ∧ (¬ring) ∧
      direct)))) ∧
    (∃ mask : Nat, ∃ op : Nat, ∃ size : Nat, (let ring : Prop := mask.testBit 0 = true ∧ op ≠ allToAll; (let tree : Prop := mask.testBit 1 = true ∧
      (op = allReduce ∨ op = broadcast); (let direct : Prop := mask.testBit 2 = true; (¬direct) ∧ (¬(tree ∧ size < 262144)) ∧ (¬ring) ∧ tree)))) ∧
    (∃ mask : Nat, ∃ op : Nat, (let ring : Prop := mask.testBit 0 = true ∧ op ≠ allToAll; (let tree : Prop := mask.testBit 1 = true ∧
      (op = allReduce ∨ op = broadcast); (let direct : Prop := mask.testBit 2 = true; (¬direct) ∧ (¬tree) ∧ (¬ring))))) :=
  ⟨⟨4, 64, by decide +kernel⟩,
   ⟨2, 65, allReduce, 262143, by decide +kernel⟩,
   ⟨1, 65, 0, 262144, by decide +kernel⟩,
   ⟨4, 65, allToAll, 0, by decide +kernel⟩,
   ⟨2, broadcast, 262144, by decide +kernel⟩,
   ⟨3, allToAll, by decide +kernel⟩⟩

/-- Fabric port 0 runs ZFL, and fabric port 1 Ethernet; logical ports 0 and 2 are up. -/
def DN : Dev := { D with
  fabRegs := [(0, { FabRegs.reset with cfg := 0x1000000, live := 0x1000000 }), (1, { FabRegs.reset with cfg := 0x3000000, live := 0x3000000 })]
  ports := [(0, lane), (2, lane)] }

/-- With a route to endpoint 5 through port 0. -/
def DR : Dev := { DN with routing := { Routing.reset with memberA := [(5, 1)] } }

theorem wit_RoutingCommandsComplete :
    (∃ s : State, ∃ h : Cmd, ∃ l : List RouteWrite, Takes s 0x0503 h false ∧ (∀ w ∈ l, w.table < 2 ∧
      w.index < (if w.table = 0 then 2 ^ s.dev.routing.g else 2 ^ (18 - s.dev.routing.g)) ∧ fld w.entry 255 135 = 0)) ∧
    (∃ s : State, ∃ h : Cmd, Takes s 0x0504 h false) ∧
    (∃ s : State, ∃ h : Cmd, ∃ l : Nat, ∃ e : U32, Takes s 0x0505 h false ∧ l < 2 ^ 18 ∧ fld e 30 18 = 0) ∧
    (∃ s : State, ∃ h : Cmd, ∃ p : NeighP, Takes s 0x0506 h false ∧ p.epid < 2 ^ 18 ∧ p.v < 2 ∧ p.vlan < 4096 ∧ p.port < 64 ∧
      (p.v = 0 ∨ (tget s.dev.routing.neigh p.epid).isSome = true ∨ s.dev.routing.neigh.length < 4096) ∧
      (let moved := p.v = 0 ∨ ∃ x, tget s.dev.routing.neigh p.epid = some x ∧ x.port ≠ p.port; moved)) ∧
    (∃ s : State, ∃ h : Cmd, ∃ p : NeighP, Takes s 0x0506 h false ∧ p.epid < 2 ^ 18 ∧ p.v < 2 ∧ p.vlan < 4096 ∧ p.port < 64 ∧
      (p.v = 0 ∨ (tget s.dev.routing.neigh p.epid).isSome = true ∨ s.dev.routing.neigh.length < 4096) ∧
      (let moved := p.v = 0 ∨ ∃ x, tget s.dev.routing.neigh p.epid = some x ∧ x.port ≠ p.port; (¬moved))) ∧
    (∃ s : State, ∃ port : Nat, alive s.ao = true ∧ port < 32) ∧
    (∃ s : State, alive s.ao = true) :=
  ⟨⟨st D, H0, [⟨0, 0, 1⟩, ⟨1, 15, BitVec.ofNat 256 (2 ^ 135 - 1)⟩], by decide +kernel⟩,
   ⟨st D, H0, by decide +kernel⟩,
   ⟨st D, H0, 2 ^ 18 - 1, 0x8003FFFF, by decide +kernel⟩,
   ⟨st D, H0, ⟨2 ^ 18 - 1, 0, 0, 0, 4095, 63⟩, by decide +kernel⟩,
   ⟨st D, H0, ⟨2 ^ 18 - 1, 1, 0, 0, 4095, 63⟩, by decide +kernel⟩,
   ⟨st D, 31, by decide +kernel⟩,
   ⟨st D, by decide +kernel⟩⟩

theorem wit_TransitRouteFollowsR266 :
    (∃ d : Dev, ∃ v : Nat, ∃ dst : Nat, ∃ n : Nat, ∃ w : Nat, ∃ m, routeTransit d v dst = .port n w ∧ v ≠ 1 ∧ (let key := routeKey d.routing.gActive d.routing.selfEpid dst; (let can := fun (m : Nat) => m < 64 ∧ (rtMin (routeEntry d.routing key)).getLsbD m = true ∧ (getPort d m).up = true ∧ isZfl d m = true ∧ (getPort d m).withdrawn.contains key = false ∧ (tgetD d.routing.vcPorts v 0xFFFFFFFFFFFFFFFF).getLsbD m = true ∧ (getPort d m).peerOff.getLsbD v = false; can m ∧ parked d m = false))) ∧
    (∃ d : Dev, ∃ v : Nat, ∃ dst : Nat, ∃ n : Nat, ∃ w : Nat, ∃ m, routeTransit d v dst = .port n w ∧ v ≠ 1 ∧ (let key := routeKey d.routing.gActive d.routing.selfEpid dst; (let can := fun (m : Nat) => m < 64 ∧ (rtMin (routeEntry d.routing key)).getLsbD m = true ∧ (getPort d m).up = true ∧ isZfl d m = true ∧ (getPort d m).withdrawn.contains key = false ∧ (tgetD d.routing.vcPorts v 0xFFFFFFFFFFFFFFFF).getLsbD m = true ∧ (getPort d m).peerOff.getLsbD v = false; parked d n = true ∧ can m))) :=
  ⟨⟨DR, 0, 5, 0, 0, 0, by decide +kernel⟩,
   ⟨setPower (.fab 0) { powerDefault (.fab 0) with st := .meringue } DR, 0, 5, 0, 0, 0, by decide +kernel⟩⟩

theorem wit_FabricHealingCompletes :
    (∃ s : State, ∃ n : Nat, ∃ cause : Nat, alive s.ao = true ∧ n < 64 ∧ (getPort s.dev n).up = true ∧
      (let d := parentDown (devEvent 0x30 0 (n / 2) n cause 0 (loseLink n (endScan n s.dev))); d.routeHa = true)) ∧
    (∃ s : State, ∃ n : Nat, ∃ cause : Nat, alive s.ao = true ∧ n < 64 ∧ (getPort s.dev n).up = true ∧
      (let d := parentDown (devEvent 0x30 0 (n / 2) n cause 0 (loseLink n (endScan n s.dev))); d.routeHa = false)) ∧
    (∃ s : State, ∃ n : Nat, ∃ lane : Nat, alive s.ao = true ∧ n < 64 ∧ lane < 16 ∧ isEth s.dev n = false ∧ (getPort s.dev n).up = true) ∧
    (∃ s : State, ∃ n : Nat, alive s.ao = true ∧ n < 64 ∧ acceptsFlit s.dev n = true ∧ s.dev.routeHa = true) ∧
    (∃ s : State, ∃ n : Nat, ∃ u : RouteUpdate, alive s.ao = true ∧ n < 64 ∧ acceptsFlit s.dev n = true ∧ s.dev.routeHa = false ∧ u.kind ≤ 1 ∧
      u.level ≤ 1 ∧ 1 ≤ u.indices.length ∧ u.indices.length ≤ 120) :=
  ⟨⟨st { DN with routeHa := true, evtHa := true }, 0, 1, by decide +kernel⟩,
   ⟨st { DN with evtHa := true }, 2, 3, by decide +kernel⟩,
   ⟨st DN, 0, 15, by decide +kernel⟩,
   ⟨st { DN with routeHa := true }, 0, by decide +kernel⟩,
   ⟨st DN, 0, ⟨1, 1, 1, 5, [1]⟩, by decide +kernel⟩⟩

/-- The flit of a number is in the replay buffer, or the next to be sent. -/
def keptOrNext (s : State) (n : Nat) (seq : BitVec 16) : Bool :=
  let d := layIdle n (tookFlit n s.dev)
  (getPort d n).txSeq == seq || (getPort d n).replay.any fun f =>
    decide ((seq - f.seq).toNat < f.n) && decide (linkTime d < f.at_ + (seq - f.seq).toNat * f.gap + keepTicks)

theorem wit_LinkReplayCompletes :
    (∃ s : State, ∃ n : Nat, ∃ seq : BitVec 16, alive s.ao = true ∧ linkOn s.dev n = true ∧ keptOrNext s n seq) ∧
    (∃ s : State, ∃ n : Nat, ∃ seq : BitVec 16, alive s.ao = true ∧ linkOn s.dev n = true ∧ ¬ keptOrNext s n seq) ∧
    (∃ s : State, ∃ n : Nat, ∃ a : BitVec 16, alive s.ao = true ∧ n < 64 ∧ linkOn s.dev n = true ∧ (getPort s.dev n).awaiting = some a) ∧
    (∃ s : State, ∃ n : Nat, ∃ a : BitVec 16, alive s.ao = true ∧ linkOn s.dev n = true ∧ (getPort s.dev n).awaiting = some a) ∧
    (∃ s : State, ∃ n : Nat, ∃ f : ReplayRun, ∃ r : List ReplayRun, alive s.ao = true ∧ linkOn s.dev n = true ∧ (getPort s.dev n).replay = f :: r) ∧
    (∃ s : State, ∃ n : Nat, ∃ vc : Nat, alive s.ao = true ∧ acceptsFlit s.dev n = true ∧ vc < 7 ∧ tget (getPort s.dev n).forwarding vc = none) ∧
    (∃ s : State, ∃ n : Nat, alive s.ao = true ∧ acceptsFlit s.dev n = true) ∧
    (∃ s : State, ∃ n : Nat, alive s.ao = true ∧ linkOn s.dev n = true ∧ offShown (getPort s.dev n) ≠ 0) :=
  ⟨⟨st (setPort 0 { lane with replay := [⟨3, 1, 5000, 0⟩] } DN), 0, 3, by decide +kernel⟩,
   ⟨st (setPort 0 { lane with replay := [⟨3, 1, 5000, 0⟩] } DN), 0, 4, by decide +kernel⟩,
   ⟨st (setPort 0 { lane with awaiting := some 3 } DN), 0, 3, by decide +kernel⟩,
   ⟨st (setPort 0 { lane with awaiting := some 3 } DN), 0, 3, by decide +kernel⟩,
   ⟨st (setPort 0 { lane with replay := [⟨3, 1, 5000, 0⟩] } DN), 0, ⟨3, 1, 5000, 0⟩, [], by decide +kernel⟩,
   ⟨st DN, 0, 6, by decide +kernel⟩,
   ⟨st DN, 0, by decide +kernel⟩,
   ⟨st (setPort 0 { lane with offVc := 1 } DN), 0, by decide +kernel⟩⟩

/-- A codeword of zeros is one of Light FEC. -/
theorem zeros_rem (l : List Nat) : l.foldl (fun r i => lightStep r ((0 : Nat).testBit i)) 0 = 0 := by
  induction l with
  | nil => rfl
  | cons a r ih => rw [List.foldl_cons, Nat.zero_testBit, show lightStep 0 false = 0 from rfl]; exact ih
theorem zeros_decode : decodeFlits (fullFec (st DN).dev 0) (List.replicate 264 0) = some ([⟨List.replicate 256 0, 0, 0, 0⟩], false) := by
  have h : lightDecode (List.replicate 264 0) = some (List.replicate 260 0, false) := by
    have v : bigNat (List.replicate 264 0) = 0 := by decide +kernel
    have r : lightRem 0 2112 = 0 := by
      have := zeros_rem ((List.range 2112).map fun i => 2112 - 1 - i)
      rwa [List.foldl_map] at this
    rw [lightDecode, v, r]; decide +kernel
  rw [decodeFlits, show fullFec (st DN).dev 0 = false by decide +kernel]
  simp only [codeBytes, Bool.false_eq_true, if_false, h]
  decide +kernel
/-- A frame for the port of all zeros, one that asks for its address, and one of another port. -/
def ef : EthFrame := ⟨0, 0x86DD, 0, 17, 0xB7E5, 3, none, 6, 64⟩
def efAsk : EthFrame := ⟨0, 0x86DD, 0, 58, 0, 0, some 0, 6, 64⟩
def efOther : EthFrame := ⟨1, 0x86DD, 0, 17, 0xB7E5, 0, none, 6, 64⟩

theorem wit_ArrivalsComplete :
    (∃ s : State, ∃ n : Nat, ∃ c : Codeword, ∃ l, ∃ fixed, alive s.ao = true ∧ linkOn s.dev n = true ∧
      decodeFlits (fullFec s.dev n) c.code = some (l, fixed)) ∧
    (∃ s : State, ∃ n : Nat, ∃ c : Codeword, alive s.ao = true ∧ linkOn s.dev n = true ∧ decodeFlits (fullFec s.dev n) c.code = none) ∧
    (∃ d : Dev, ∃ n : Nat, ∃ f : Flit, linkOn d n = true ∧ f.vc ≠ 7 ∧ fcrcOk d n f = true ∧ f.vc < linkVcs d n) ∧
    (∃ d : Dev, ∃ n : Nat, ∃ f : Flit, linkOn d n = true ∧ f.vc ≠ 7 ∧ fcrcOk d n f = false ∧ (getPort d n).awaiting = none) ∧
    (∃ d : Dev, ∃ n : Nat, ∃ f : Flit, linkOn d n = true ∧ f.vc ≠ 7 ∧ fcrcOk d n f = false ∧ (getPort d n).awaiting ≠ none) ∧
    (∃ s : State, ∃ n : Nat, ∃ f : EthFrame, alive s.ao = true ∧ n < 64 ∧ (getPort s.dev n).up = true ∧ isEth s.dev n = true ∧
      (let d := modPort n (fun x => { x with lastRx := s.dev.now }) (pumpLeaving n s.dev); frameIsOurs d n f = true)) ∧
    (∃ s : State, ∃ n : Nat, ∃ f : EthFrame, alive s.ao = true ∧ n < 64 ∧ (getPort s.dev n).up = true ∧ isEth s.dev n = true ∧
      (let d := modPort n (fun x => { x with lastRx := s.dev.now }) (pumpLeaving n s.dev); frameIsOurs d n f = false ∧ frameSolicits d n f = true)) ∧
    (∃ s : State, ∃ n : Nat, ∃ f : EthFrame, alive s.ao = true ∧ n < 64 ∧ (getPort s.dev n).up = true ∧ isEth s.dev n = true ∧
      (let d := modPort n (fun x => { x with lastRx := s.dev.now }) (pumpLeaving n s.dev); frameIsOurs d n f = false ∧ frameSolicits d n f = false)) ∧
    (∃ s : State, ∃ n : Nat, ∃ vc : Nat, ∃ m : Nat, ∃ v : Nat, ∃ p : Packet, alive s.ao = true ∧ dataOn s.dev = true ∧ n < 64 ∧
      (getPort s.dev n).up = true ∧ isEth s.dev n = false ∧ vc ≤ 6 ∧ phDst p.hdr ≠ s.dev.routing.selfEpid ∧
      tget (getPort s.dev n).forwarding vc = none ∧ p.flaw = false ∧ routeTransit s.dev vc (phDst p.hdr) = .port m v) ∧
    (∃ s : State, ∃ n : Nat, ∃ vc : Nat, ∃ p : Packet, ∃ bad, alive s.ao = true ∧ dataOn s.dev = true ∧ n < 64 ∧ (getPort s.dev n).up = true ∧
      isEth s.dev n = false ∧ vc ≤ 6 ∧ phDst p.hdr ≠ s.dev.routing.selfEpid ∧ tget (getPort s.dev n).forwarding vc = none ∧ (bad || p.flaw) = true) ∧
    (∃ s : State, ∃ n : Nat, ∃ vc : Nat, ∃ p : Packet, alive s.ao = true ∧ dataOn s.dev = true ∧ n < 64 ∧ (getPort s.dev n).up = true ∧
      isEth s.dev n = false ∧ vc ≤ 6 ∧ phDst p.hdr ≠ s.dev.routing.selfEpid ∧ tget (getPort s.dev n).forwarding vc = none ∧ p.flaw = false ∧
      routeTransit s.dev vc (phDst p.hdr) = .none) ∧
    (∃ s : State, ∃ id : Nat, ∃ w : EscWaiting, alive s.ao = true ∧ (s.dev.escWaiting.find? fun w => w.id == id) = some w) :=
  ⟨⟨st DN, 0, ⟨List.replicate 264 0, none⟩, [⟨List.replicate 256 0, 0, 0, 0⟩], false, by decide +kernel, by decide +kernel, zeros_decode⟩,
   ⟨st DN, 0, ⟨[], some 0⟩, by decide +kernel⟩,
   ⟨DN, 0, ⟨[0xAB], 0, 0, fcrc 0 [0xAB] 0 0⟩, by decide +kernel⟩,
   ⟨DN, 0, ⟨[0xAB], 0, 0, 1 + fcrc 0 [0xAB] 0 0⟩, by decide +kernel⟩,
   ⟨setPort 0 { lane with awaiting := some 3 } DN, 0, ⟨[0xAB], 0, 0, 1 + fcrc 0 [0xAB] 0 0⟩, by decide +kernel⟩,
   ⟨st DN, 2, ef, by decide +kernel⟩,
   ⟨st DN, 2, efAsk, by decide +kernel⟩,
   ⟨st DN, 2, efOther, by decide +kernel⟩,
   ⟨st DR, 0, 6, 0, 6, { pk 0 0 0 none [] with hdr := BitVec.ofNat 128 (5 * 2 ^ 110) }, by decide +kernel⟩,
   ⟨st DR, 0, 0, { pk 0 0 0 none [] with hdr := BitVec.ofNat 128 (5 * 2 ^ 110) }, true, by decide +kernel⟩,
   ⟨st DN, 0, 0, { pk 0 0 0 none [] with hdr := BitVec.ofNat 128 (5 * 2 ^ 110) }, by decide +kernel⟩,
   ⟨st { D with escWaiting := [⟨1, ⟨pk 0 0 0 none [], 1, 0, none, 0, 5, false, none⟩, 0, none⟩] }, 1, ⟨1, ⟨pk 0 0 0 none [], 1, 0, none, 0, 5, false, none⟩, 0, none⟩, by decide +kernel⟩⟩

theorem wit_PfcCompletes :
    (∃ s : State, ∃ n : Nat, alive s.ao = true ∧ (getPort s.dev n).up = true ∧ isEth s.dev n = true) ∧
    (∃ s : State, ∃ n : Nat, ∃ i : Nat, ∃ t : Nat, alive s.ao = true ∧ tget (getPort s.dev n).pfc i = some t) ∧
    (∃ s : State, ∃ n : Nat, ∃ i : Nat, ∃ t : Nat, alive s.ao = true ∧ (getPort s.dev n).up = true ∧ isEth s.dev n = true ∧
      (offShown (getPort s.dev n)).getLsbD i = true ∧ tget (getPort s.dev n).xoffAt i = some t ∧
      (let d := pumpLeaving n (advanceTo (t + quantaNs s.dev n 0xFFFF / 2) s.dev); (offShown (getPort d n)).getLsbD i = true)) ∧
    (∃ s : State, ∃ n : Nat, ∃ i : Nat, ∃ t : Nat, alive s.ao = true ∧ (getPort s.dev n).up = true ∧ isEth s.dev n = true ∧
      (offShown (getPort s.dev n)).getLsbD i = true ∧ tget (getPort s.dev n).xoffAt i = some t ∧
      (let d := pumpLeaving n (advanceTo (t + quantaNs s.dev n 0xFFFF / 2) s.dev); (offShown (getPort d n)).getLsbD i = false)) :=
  ⟨⟨st DN, 2, by decide +kernel⟩,
   ⟨st (setPort 2 { lane with pfc := [(7, 9)] } DN), 2, 7, 9, by decide +kernel⟩,
   ⟨st (setPort 2 { lane with offVc := 0x80, xoffAt := [(7, 9)] } DN), 2, 7, 9, by decide +kernel⟩,
   ⟨st (setPort 2 { lane with offVc := 0x80, xoffAt := [(7, 9)], leaving := [(7, 64, 9)], occupancy := [0, 0, 0, 0, 0, 0, 0, 64] } DN), 2, 7, 9, by decide +kernel⟩⟩

theorem wit_AdminQueuesComplete :
    (∃ s : State, ∃ h : Cmd, ∃ n : Nat, ∃ lg : Nat, ∃ cbase : Nat, ∃ rbase : Nat, ∃ vector : Nat, Takes s 0x0001 h false ∧ 1 ≤ n ∧ n < 8 ∧ 4 ≤ lg ∧
      lg ≤ 12 ∧ vector < 2048 ∧ ringAligned cbase lg 64 = true ∧ ringAligned rbase lg 32 = true ∧ (getAq s.dev n).en = false ∧
      (getAq s.dev n).closing = false) ∧
    (∃ s : State, ∃ h : Cmd, ∃ n : Nat, Takes s 0x0002 h false ∧ n < 8 ∧ n ≠ h.aq ∧ (getAq s.dev n).en = true) ∧
    (∃ s : State, ∃ n : Nat, ∃ v : U64, alive s.ao = true ∧ n < 520 ∧ (getAq s.dev n).en = true ∧ (getAq s.dev n).closing = false ∧
      (let a := getAq s.dev n; (let ahead := (u32 (fld v 31 0) - a.cprod).toNat; 0 < ahead ∧ ahead < 2 ^ 31 ∧
      (u32 (fld v 31 0) - a.cnext).toNat ≤ 2 ^ a.lg))) ∧
    (∃ s : State, ∃ n : Nat, ∃ v : U64, alive s.ao = true ∧ n < 520 ∧ (getAq s.dev n).en = true ∧ (getAq s.dev n).closing = false ∧
      (let a := getAq s.dev n; (let ahead := (u32 (fld v 31 0) - a.cprod).toNat; ahead = 0))) ∧
    (∃ s : State, ∃ n : Nat, ∃ v : U64, alive s.ao = true ∧ n < 520 ∧ (getAq s.dev n).en = true ∧ (getAq s.dev n).closing = false ∧
      (let a := getAq s.dev n; (let ahead := (u32 (fld v 31 0) - a.cprod).toNat; 2 ^ 31 ≤ ahead))) ∧
    (∃ s : State, ∃ n : Nat, ∃ v : U64, alive s.ao = true ∧ n < 520 ∧ (getAq s.dev n).en = true ∧ (getAq s.dev n).closing = false ∧
      (let a := getAq s.dev n; (let ahead := (u32 (fld v 31 0) - a.cprod).toNat; 0 < ahead ∧ ahead < 2 ^ 31 ∧
      2 ^ a.lg < (u32 (fld v 31 0) - a.cnext).toNat))) ∧
    (∃ s : State, ∃ n : Nat, ∃ v : U64, alive s.ao = true ∧ n < 520 ∧ (getAq s.dev n).en = true ∧
      (u32 (fld v 31 0) - (getAq s.dev n).rcons).toNat < 2 ^ 31 ∧
      (u32 (fld v 31 0) - (getAq s.dev n).rcons).toNat ≤ ((getAq s.dev n).rprod - (getAq s.dev n).rcons).toNat) ∧
    (∃ s : State, ∃ n : Nat, alive s.ao = true ∧ n < 520 ∧ aqReads s.dev n = true ∧ (getAq s.dev n).stopped = false ∧
      (getAq s.dev n).rereadDue = none ∧ (getAq s.dev n).reading.isSome = true) ∧
    (∃ s : State, ∃ n : Nat, ∃ t : Nat, alive s.ao = true ∧ aqReads s.dev n = true ∧ (getAq s.dev n).rereadDue = some t ∧
      canRead s.dev (getAq s.dev n).space = true ∧ (getAq s.dev n).reading = none) ∧
    (∃ s : State, ∃ v : U64, alive s.ao = true ∧ s.dev.ready = true ∧ (getAq s.dev 0).en = false ∧ (getAq s.dev 0).closing = false ∧
      4 ≤ fld v 59 56 ∧ fld v 59 56 ≤ 12 ∧ fld v 55 52 = 0 ∧ ringAligned (getAq s.dev 0).cbase (fld v 59 56) 64 = true ∧
      ringAligned (getAq s.dev 0).rbase (fld v 59 56) 32 = true) ∧
    (∃ s : State, alive s.ao = true ∧ s.dev.ready = true ∧ (getAq s.dev 0).en = true ∧ (getAq s.dev 0).closing = false) :=
  ⟨⟨st D, H0, 7, 12, 0x30000, 0x40000, 2047, by decide +kernel⟩,
   ⟨st { D with adminQ := [(0, aqOn 0), (3, { aqOn 0 with cprod := 1 })] }, H0, 3, by decide +kernel⟩,
   ⟨st { D with adminQ := [(0, aqOn 0), (3, { aqOn 0 with cnext := 0 })] }, 3, 64, by decide +kernel⟩,
   ⟨st { D with adminQ := [(0, aqOn 0), (3, { aqOn 0 with stopped := true })] }, 3, 0, by decide +kernel⟩,
   ⟨st { D with adminQ := [(0, aqOn 0), (3, { aqOn 0 with cnext := 0 })] }, 3, 0x80000000, by decide +kernel⟩,
   ⟨st { D with adminQ := [(0, aqOn 0), (3, { aqOn 0 with cnext := 0 })] }, 3, 65, by decide +kernel⟩,
   ⟨st { D with adminQ := [(0, aqOn 0), (3, { aqOn 0 with rprod := 4 })] }, 3, 0x8000000000000004, by decide +kernel⟩,
   ⟨st { D with adminQ := [(0, aqOn 0), (3, { aqOn 0 with reading := some 1 })] }, 3, by decide +kernel⟩,
   ⟨st { D with adminQ := [(0, aqOn 0), (3, { aqOn 0 with rereadDue := some 9 })] }, 3, 9, by decide +kernel⟩,
   ⟨st { D with adminQ := [(0, AdminQ.reset)] }, 0x8C00000000000000, by decide +kernel⟩,
   ⟨st D, by decide +kernel⟩⟩

theorem wit_ControlCoresComplete :
    (∃ s : State, ∃ n : Nat, ∃ i : U32, ∃ c : Started, alive s.ao = true ∧ (s.dev.started.find? fun c => c.queue == n && c.index == i) = some c ∧
      boundEnd s.dev c = none) ∧
    (∃ s : State, ∃ n : Nat, ∃ t : Nat, ∃ i : U32, ∃ c : Started, alive s.ao = true ∧
      (s.dev.started.find? fun c => c.queue == n && c.index == i) = some c ∧ boundEnd s.dev c = some t) ∧
    (∃ s : State, ∃ k : Nat, alive s.ao = true ∧ k < 6 ∧ s.dev.cores.getLsbD k = true) ∧
    (∃ s : State, ∃ k : Nat, alive s.ao = true ∧ k < 6 ∧ (tget s.dev.coreHungAt k).isSome = true) :=
  ⟨⟨st { D with started := [⟨0, 0, 0x0402, 3, 0, 0, 0, none, 0, false, false⟩], waits := [(HD, 0x0402, .qpError 5)] }, 0, 0, ⟨0, 0, 0x0402, 3, 0, 0, 0, none, 0, false, false⟩, by decide +kernel⟩,
   ⟨st { D with started := [⟨0, 0, 0x0402, 3, 0, 0, 0, none, 0, false, false⟩] }, 0, 1000000, 0, ⟨0, 0, 0x0402, 3, 0, 0, 0, none, 0, false, false⟩, by decide +kernel⟩,
   ⟨st D, 5, by decide +kernel⟩,
   ⟨st { D with cores := 0x1F, coreHungAt := [(5, 7)] }, 5, by decide +kernel⟩⟩

theorem wit_DeviceCommandsComplete :
    (∃ s : State, ∃ h : Cmd, ∃ r : Nat, ∃ e : Nat, Takes s 0x0003 h false ∧ r < 2 ∧ e < 2) ∧
    (∃ s : State, ∃ h : Cmd, Takes s 0x0004 h false ∧ h.aq < 8) ∧
    (∃ s : State, ∃ h : Cmd, ∃ off : Nat, Takes s 0x0004 h false ∧ h.aq < 8 ∧ off % 8 = 0 ∧ off < 0x04000000 ∧ off ≠ 0x02000000 ∧ off ≠ 0x02000008) ∧
    (∃ s : State, alive s.ao = true) ∧
    (∃ s : State, ∃ h : Cmd, ∃ lane : Nat, ∃ n : Nat, Takes s 0x0005 h false ∧ scannable s.dev n = true ∧ hasLane s.dev n lane = true ∧
      (getPort s.dev n).up = true ∧ linkParked s.dev n = false ∧ (getPort s.dev n).narrowSince = none ∧
      (getPort s.dev n).width = linkWidth s.dev n ∧ pinned s.dev (.fab n) = false) ∧
    (∃ s : State, ∃ h : Cmd, ∃ e : Nat, Takes s 0x0005 h false ∧ e < 24 ∧ (getEngine s.dev e).mode ≠ .quiescing ∧
      (getEngine s.dev e).mode ≠ .selfTest ∧ (∀ p ∈ s.dev.programs, p.dead = false → p.engines ≠ [e]) ∧ sharesFit s.dev e = true ∧
      pinned s.dev (.engine e) = false) ∧
    (∃ s : State, ∃ h : Cmd, ∃ base : Nat, ∃ length : Nat, Takes s 0x0005 h false ∧ base % 0x200000 = 0 ∧ length % 0x200000 = 0 ∧ 0 < length ∧
      length ≤ 0x4000000 ∧ base + length ≤ smemBytes ∧ unclaimed s.dev base length = true) ∧
    (∃ s : State, ∃ e : Nat, alive s.ao = true ∧ (getEngine s.dev e).mode = .selfTest) ∧
    (∃ s : State, ∃ e : Nat, alive s.ao = true ∧ (getEngine s.dev e).mode = .quiescing) :=
  ⟨⟨st D, H0, 1, 1, by decide +kernel⟩,
   ⟨st D, H0, by decide +kernel⟩,
   ⟨st D, H0, 0x03FFFFF8, by decide +kernel⟩,
   ⟨st D, by decide +kernel⟩,
   ⟨st DN, H0, 7, 0, by decide +kernel⟩,
   ⟨st D, H0, 23, by decide +kernel⟩,
   ⟨st D, H0, 0x2183000000, 0x4000000, by decide +kernel⟩,
   ⟨st { D with engines := [(3, { Engine.reset with mode := .selfTest })] }, 3, by decide +kernel⟩,
   ⟨st { D with engines := [(3, { Engine.reset with mode := .quiescing })] }, 3, by decide +kernel⟩⟩

theorem wit_PowerCommandsComplete :
    (∃ s : State, ∃ h : Cmd, ∃ p : PwrSetP, Takes s 0x0006 h false ∧ pwrBad p = none ∧ pwrRefusal s.dev p = none) ∧
    (∃ s : State, ∃ h : Cmd, ∃ n : Nat, ∃ e : BitVec 128, Takes s 0x0502 h false ∧ n < 64 ∧ fld e 127 72 = 0 ∧ bit e 67 = false ∧ rsV e = false ∧
      (∀ x ∈ s.dev.slices, x.2.st = .free ∨ x.2.routeSet ≠ n)) ∧
    (∃ s : State, ∃ o : PowerObj, ∃ st : PState, ∃ w : Nat, alive s.ao = true ∧ pinned s.dev o = false ∧ hasWork s.dev o = false ∧
      (getPower s.dev o).wakeDue = none ∧ nextLower o (getPower s.dev o) = some (st, w)) ∧
    (∃ s : State, alive s.ao = true) ∧
    (∃ s : State, ∃ o : PowerObj, ∃ t : Nat, alive s.ao = true ∧ (getPower s.dev o).wakeDue = some t) ∧
    (∃ s : State, ∃ o : PowerObj, ∃ t : Nat, alive s.ao = true ∧ parkOf s.dev o = (some t, false) ∧ laneUp s.dev o = true) ∧
    (∃ s : State, ∃ n : Nat, ∃ t : Nat, alive s.ao = true ∧ n < 64 ∧ parkOf s.dev (.fab n) = (some t, true)) ∧
    (∃ s : State, ∃ n t : Nat, alive s.ao = true ∧ n < 64 ∧ (getPower s.dev (.fab n)).st = .meringue ∧ (getPower s.dev (.fab n)).wakeDue = some t) :=
  ⟨⟨st D, H0, ⟨0, 2, 0, 0xFFFFFF, 100, 60000000, 0⟩, by decide +kernel⟩,
   ⟨st D, H0, 63, 1, by decide +kernel⟩,
   ⟨st D, .engine 3, .standby, 1000, by decide +kernel⟩,
   ⟨st D, by decide +kernel⟩,
   ⟨st { D with power := [(powerKey (.engine 3), { powerDefault (.engine 3) with st := .standby, wakeDue := some 9 })] }, .engine 3, 9, by decide +kernel⟩,
   ⟨st (setPort 0 { lane with parkAt := some 9 } DN), .fab 0, 9, by decide +kernel⟩,
   ⟨st (setPort 0 { lane with parkAt := some 9, parkTxOff := true } DN), 0, 9, by decide +kernel⟩,
   ⟨st (setPower (.fab 0) { powerDefault (.fab 0) with st := .meringue, wakeDue := some 9 } DN), 0, 9, by decide +kernel⟩⟩

theorem wit_TimeComplete :
    (∃ s : State, ∃ h : Cmd, ∃ ns : Nat, Takes s 0x0607 h false ∧ isFollower s.dev = false ∧ ns < 2 ^ 64) ∧
    (∃ s : State, ∃ h : Cmd, ∃ o : Int, Takes s 0x0608 h false ∧ isFollower s.dev = false ∧ 0 ≤ Int.ofNat (timeNs s.dev) + o ∧
      Int.ofNat (timeNs s.dev) + o < 2 ^ 64) ∧
    (∃ s : State, ∃ v : U32, alive s.ao = true ∧ fld v 27 24 ≤ 3 ∧ fld (v &&& 0x0F3FBF00) 27 16 = fld s.dev.time.cfg 27 16) ∧
    (∃ s : State, ∃ n : Nat, alive s.ao = true ∧ n < 64 ∧ linkOn s.dev n = true ∧ txOn s.dev n = true) ∧
    (∃ s : State, ∃ n : Nat, alive s.ao = true ∧ n < 64 ∧ acceptsFlit s.dev n = true) ∧
    (∃ s : State, alive s.ao = true ∧ isFollower s.dev = true ∧ (s.dev.time.st = .acquiring ∨ s.dev.time.st = .locked) ∧
      (getPort s.dev s.dev.time.following).up = false) ∧
    (∃ s : State, alive s.ao = true ∧ isFollower s.dev = true ∧ (s.dev.time.st = .acquiring ∨ s.dev.time.st = .locked) ∧
      (getPort s.dev s.dev.time.following).up = true ∧
      (isEth s.dev s.dev.time.following = true ∨ peerLost (getPort s.dev s.dev.time.following) = false)) ∧
    (∃ s : State, alive s.ao = true ∧ timeSource s.dev = 1 ∧ (∀ t, s.dev.time.ppsLast = some t → s.dev.now < t + 1100000000)) ∧
    (∃ s : State, alive s.ao = true ∧ timeSource s.dev = 1 ∧ s.dev.time.st ≠ .holdover) ∧
    ((∃ s : State, alive s.ao = true ∧ s.dev.time.ppsFall = none) ∧ ∃ s : State, ∃ t : Nat, alive s.ao = true ∧ s.dev.time.ppsFall = some t) ∧
    (∃ s : State, ∃ n : Nat, ∃ kind : Nat, alive s.ao = true ∧ n < 64 ∧ (getPort s.dev n).up = true ∧ isEth s.dev n = true ∧ 3 ≤ kind) ∧
    (∃ s : State, ∃ n : Nat, alive s.ao = true ∧ n < 64 ∧ (getPort s.dev n).up = true ∧ isEth s.dev n = true ∧ timeSource s.dev = 3 ∧
      n = s.dev.time.following ∧ s.dev.cores ≠ 0x3F) ∧
    (∃ s : State, ∃ n : Nat, alive s.ao = true ∧ n < 64 ∧ (getPort s.dev n).up = true ∧ isEth s.dev n = true ∧ timeSource s.dev = 3 ∧
      n = s.dev.time.following ∧ s.dev.cores = 0x3F) :=
  ⟨⟨st D, H0, 0, by decide +kernel⟩,
   ⟨st D, H0, 0, by decide +kernel⟩,
   ⟨st D, 0, by decide +kernel⟩,
   ⟨st DN, 0, by decide +kernel⟩,
   ⟨st DN, 0, by decide +kernel⟩,
   ⟨st { DN with time := { TimeUnit.reset with cfg := 0x02000000, st := .locked, following := 5 } }, by decide +kernel⟩,
   ⟨st { DN with time := { TimeUnit.reset with cfg := 0x02000000, st := .locked, following := 0 } }, by decide +kernel⟩,
   ⟨st { { DN with now := 1099999999 } with time := { TimeUnit.reset with cfg := 0x01000000, ppsLast := some 0 } }, by decide +kernel, by decide +kernel, fun t h => by obtain rfl : (0 : Nat) = t := Option.some.inj h; decide⟩,
   ⟨st { DN with time := { TimeUnit.reset with cfg := 0x01000000 } }, by decide +kernel⟩,
   ⟨⟨st D, by decide +kernel⟩, st { DN with time := { TimeUnit.reset with ppsFall := some 7 } }, 7, by decide +kernel⟩,
   ⟨st DN, 2, 3, by decide +kernel⟩,
   ⟨st { { DN with cores := 0x1F } with time := { TimeUnit.reset with cfg := 0x03020000, following := 2 } }, 2, by decide +kernel⟩,
   ⟨st { DN with time := { TimeUnit.reset with cfg := 0x03020000, following := 2 } }, 2, by decide +kernel⟩⟩

/-- Accelerator port 0 runs ZAL, and accelerator port 1 PCIe. -/
def DA : Dev := { DN with
  accs := [(0, { io with cfg := 0x01600000, live := 0x01600000 }), (1, { io with cfg := 0x02600000, live := 0x02600000 })], ports := [(0, lane), (2, lane), (64, lane)] }

theorem wit_PortCommandsComplete :
    (∃ s : State, ∃ h : Cmd, ∃ n : Nat, Takes s 0x0501 h false ∧ n < 64 ∧ portNamed s.dev n = true ∧ s.dev.transitReset = false) ∧
    (∃ s : State, ∃ n : Nat, alive s.ao = true ∧ n < 64 ∧ cannotTrain s.dev n = false ∧
      (let d := modPort n (fun p => { p with training := false }) (loadCfg n s.dev); portExists d n = true ∧ isEth d n = true)) ∧
    (∃ s : State, ∃ n : Nat, ∃ width : Nat, ∃ rtt : Nat, ∃ full : Bool, alive s.ao = true ∧ n < 64 ∧ cannotTrain s.dev n = false ∧
      (let d := modPort n (fun p => { p with training := false }) (loadCfg n s.dev); portExists d n = true ∧ isEth d n = false ∧ rtt ≤ 1500 ∧
      full = fullFec d n ∧ width = cfgWidth d n)) ∧
    (∃ s : State, ∃ n : Nat, ∃ width : Nat, ∃ rtt : Nat, ∃ full : Bool, alive s.ao = true ∧ n < 64 ∧ cannotTrain s.dev n = false ∧
      (let d := modPort n (fun p => { p with training := false }) (loadCfg n s.dev); portExists d n = true ∧ isEth d n = false ∧ rtt ≤ 1500 ∧
      (full ≠ fullFec d n ∨ width ≠ cfgWidth d n))) ∧
    (∃ s : State, ∃ n : Nat, ∃ rtt : Nat, alive s.ao = true ∧ n < 64 ∧ cannotTrain s.dev n = false ∧
      (let d := modPort n (fun p => { p with training := false }) (loadCfg n s.dev); portExists d n = true ∧ isEth d n = false ∧ 1500 < rtt)) ∧
    (∃ s : State, ∃ n : Nat, alive s.ao = true ∧ n < 64 ∧ cannotTrain s.dev n = false ∧
      (let d := modPort n (fun p => { p with training := false }) (loadCfg n s.dev); portExists d n = false)) ∧
    (∃ s : State, ∃ n : Nat, alive s.ao = true ∧ n < 64 ∧ cannotTrain s.dev n = true) ∧
    (∃ s : State, ∃ n : Nat, alive s.ao = true ∧ n < 64) ∧
    (∃ s : State, ∃ h : Cmd, ∃ k discard : Nat, Takes s 0x0801 h false ∧ (k = 15 ∨ k < 8) ∧ (getIo s.dev k).up = true ∧
      (getIo s.dev k).fenced = false ∧ discard < 2) ∧
    (∃ s : State, alive s.ao = true) ∧
    (∃ s : State, ∃ off : Nat, ∃ data : List Byte, alive s.ao = true ∧ off + data.length ≤ 2 ^ 28 ∧ data ≠ [] ∧ s.dev.winTarget = 1) ∧
    (∃ s : State, ∃ off : Nat, ∃ data : List Byte, alive s.ao = true ∧ off + data.length ≤ 2 ^ 28 ∧ data ≠ [] ∧ 2 ≤ s.dev.winTarget ∧
      (getIo s.dev (s.dev.winTarget - 2)).up = true ∧ s.dev.winBase * 2 ^ 20 + off + data.length ≤ 2 ^ 52) ∧
    (∃ s : State, ∃ off : Nat, ∃ n : Nat, alive s.ao = true ∧ off + n ≤ 2 ^ 28 ∧ s.dev.winTarget = 0) ∧
    (∃ s : State, ∃ off : Nat, ∃ n : Nat, alive s.ao = true ∧ off + n ≤ 2 ^ 28 ∧ s.dev.winTarget = 1 ∧ 0x80000000 ≤ s.dev.winBase * 2 ^ 20 + off ∧
      s.dev.winBase * 2 ^ 20 + off + n ≤ smemBytes ∧ s.dev.barReads = [] ∧ windowWaits s.dev = false) :=
  ⟨⟨st DN, H0, 0, by decide +kernel⟩,
   ⟨st { DN with ports := [] }, 2, by decide +kernel⟩,
   ⟨st { DN with ports := [] }, 0, 8, 1500, false, by decide +kernel⟩,
   ⟨st { DN with ports := [] }, 0, 4, 1500, false, by decide +kernel⟩,
   ⟨st { DN with ports := [] }, 0, 1501, by decide +kernel⟩,
   ⟨st { DN with ports := [] }, 1, by decide +kernel⟩,
   ⟨st DN, 0, by decide +kernel⟩,
   ⟨st DN, 63, by decide +kernel⟩,
   ⟨st D, H0, 15, 1, by decide +kernel⟩,
   ⟨st D, by decide +kernel⟩,
   ⟨st { D with winTarget := 1 }, 2 ^ 28 - 1, [7], by decide +kernel⟩,
   ⟨st { D with winTarget := 9, accs := [(7, io)] }, 0, [7], by decide +kernel⟩,
   ⟨st D, 0, 2 ^ 28, by decide +kernel⟩,
   ⟨st { D with winTarget := 1, winBase := 0x800 }, 0, 8, by decide +kernel⟩⟩

theorem wit_PortEventsComplete :
    (∃ s : State, ∃ a : Nat, ∃ h : BitVec 128, ∃ data : List Byte, alive s.ao = true ∧ a < 8 ∧ (getIo s.dev a).up = true ∧
      linkIsZal s.dev (64 + a) = true ∧ zMalformed h data = true) ∧
    (∃ s : State, ∃ a : Nat, ∃ h : BitVec 128, ∃ data : List Byte, ∃ off, alive s.ao = true ∧ a < 8 ∧ (getIo s.dev a).up = true ∧
      linkIsZal s.dev (64 + a) = true ∧ zMalformed h data = false ∧ zOp h = 1 ∧ apertureOff s.dev a (zAddr h) data.length = some off) ∧
    (∃ s : State, ∃ a : Nat, ∃ h : BitVec 128, ∃ data : List Byte, ∃ off, alive s.ao = true ∧ a < 8 ∧ (getIo s.dev a).up = true ∧
      linkIsZal s.dev (64 + a) = true ∧ zMalformed h data = false ∧ zOp h = 2 ∧ apertureOff s.dev a (zAddr h) (zLen h) = some off) ∧
    (∃ s : State, ∃ a : Nat, ∃ h : BitVec 128, ∃ data : List Byte, alive s.ao = true ∧ a < 8 ∧ (getIo s.dev a).up = true ∧
      linkIsZal s.dev (64 + a) = true ∧ zMalformed h data = false ∧ zOp h = 2 ∧ apertureOff s.dev a (zAddr h) (zLen h) = none) ∧
    (∃ s : State, ∃ a : Nat, ∃ h : BitVec 128, ∃ data : List Byte, ∃ r, alive s.ao = true ∧ a < 8 ∧ (getIo s.dev a).up = true ∧
      linkIsZal s.dev (64 + a) = true ∧ zMalformed h data = false ∧ (zOp h = 0x10 ∨ zOp h = 0x11) ∧ findRead s.dev a (zTag h) = some r ∧
      zStatus h ≠ 0) ∧
    (∃ s : State, ∃ a : Nat, ∃ addr : Nat, ∃ data : List Byte, ∃ off, alive s.ao = true ∧ a < 8 ∧ (getIo s.dev a).up = true ∧
      fld (getIo s.dev a).live 27 24 = 2 ∧ apertureOff s.dev a addr data.length = some off) ∧
    (∃ s : State, ∃ k : Nat, ∃ tag : Nat, ∃ status : Nat, ∃ r : PortRead, alive s.ao = true ∧ findRead s.dev k tag = some r ∧
      ioOpen (getIo s.dev k) = true ∧ (∀ q p, useQpn s.dev r.use = some q → getQp s.dev q = some p → p.heldBy.contains k = false) ∧ status = 0 ∧
      (∃ n, useSlice s.dev r.use = some n ∧ (getSlice s.dev n).st = .faultStop)) ∧
    (∃ s : State, ∃ k : Nat, ∃ tag : Nat, ∃ status : Nat, ∃ r : PortRead, alive s.ao = true ∧ findRead s.dev k tag = some r ∧
      ioOpen (getIo s.dev k) = true ∧ (∀ q p, useQpn s.dev r.use = some q → getQp s.dev q = some p → p.heldBy.contains k = false) ∧ status ≠ 0) ∧
    (∃ s : State, ∃ tag : Nat, ∃ r : PortRead, alive s.ao = true ∧ findRead s.dev 15 tag = some r) ∧
    (∃ s : State, alive s.ao = true ∧ s.dev.host.up = true) ∧
    (∃ s : State, alive s.ao = true ∧ s.dev.host.up = true ∧ s.dev.host.fenced = false) ∧
    (∃ s : State, alive s.ao = true ∧ s.dev.host.up = false) ∧
    (∃ s : State, ∃ k : Nat, alive s.ao = true ∧ (k = 15 ∨ k < 8)) :=
  ⟨⟨st DA, 0, BitVec.ofNat 128 (0 * 2 ^ 122 + 0 * 2 ^ 108 + 0 * 2 ^ 95 + 0 * 2 ^ 52 + 0), [], by decide +kernel⟩,
   ⟨st DA, 0, BitVec.ofNat 128 (1 * 2 ^ 122 + 0 * 2 ^ 108 + 1 * 2 ^ 95 + 0 * 2 ^ 52 + 0), [7], 0, by decide +kernel⟩,
   ⟨st DA, 0, BitVec.ofNat 128 (2 * 2 ^ 122 + 0 * 2 ^ 108 + 4 * 2 ^ 95 + 0 * 2 ^ 52 + 33554428), [], 2 ^ 25 - 4, by decide +kernel⟩,
   ⟨st DA, 0, BitVec.ofNat 128 (2 * 2 ^ 122 + 0 * 2 ^ 108 + 4 * 2 ^ 95 + 0 * 2 ^ 52 + 33554432), [], by decide +kernel⟩,
   ⟨st { DA with portReads := [⟨0, 6, 0, 0x1000, 64, .dropped 3, [], [(0x1000, 64)], [], false, 0, [], false, false, 3, none, none, 0⟩] }, 0, BitVec.ofNat 128 (16 * 2 ^ 122 + 6 * 2 ^ 108 + 0 * 2 ^ 95 + 1 * 2 ^ 52 + 0), [], ⟨0, 6, 0, 0x1000, 64, .dropped 3, [], [(0x1000, 64)], [], false, 0, [], false, false, 3, none, none, 0⟩, by decide +kernel⟩,
   ⟨st DA, 1, 0x1FFFFFF, [7], 0x1FFFFFF, by decide +kernel⟩,
   ⟨st { DA with slices := [(3, { sl with st := .faultStop })], portReads := [⟨15, 6, 0, 0x1000, 64, .dropped 3, [], [(0x1000, 64)], [], false, 0, [], false, false, 3, none, none, 0⟩] }, 15, 6, 0, ⟨15, 6, 0, 0x1000, 64, .dropped 3, [], [(0x1000, 64)], [], false, 0, [], false, false, 3, none, none, 0⟩, by decide +kernel, by decide +kernel, by decide +kernel, (fun q p h => by simp [useQpn] at h), by decide +kernel, 3, by decide +kernel⟩,
   ⟨st { DA with portReads := [⟨15, 6, 0, 0x1000, 64, .dropped 3, [], [(0x1000, 64)], [], false, 0, [], false, false, 3, none, none, 0⟩] }, 15, 6, 1, ⟨15, 6, 0, 0x1000, 64, .dropped 3, [], [(0x1000, 64)], [], false, 0, [], false, false, 3, none, none, 0⟩, by decide +kernel, by decide +kernel, by decide +kernel, (fun q p h => by simp [useQpn] at h), by decide +kernel⟩,
   ⟨st { DA with portReads := [⟨15, 6, 0, 0x1000, 64, .dropped 3, [], [(0x1000, 64)], [], false, 0, [], false, false, 3, none, none, 0⟩] }, 6, ⟨15, 6, 0, 0x1000, 64, .dropped 3, [], [(0x1000, 64)], [], false, 0, [], false, false, 3, none, none, 0⟩, by decide +kernel⟩,
   ⟨st D, by decide +kernel⟩,
   ⟨st D, by decide +kernel⟩,
   ⟨st { D with host := { io with up := false } }, by decide +kernel⟩,
   ⟨st D, 7, by decide +kernel⟩⟩

theorem wit_SchedulerCommandsComplete :
    (∃ s : State, ∃ h : Cmd, ∃ kind : Nat, ∃ object : Nat, ∃ tc : Nat, ∃ rate : Nat, ∃ burst : Nat, ∃ reset : Nat, Takes s 0x0601 h false ∧
      kind < 2 ∧ tc < 8 ∧ object < (if kind = 0 then 64 else 512) ∧ rate ≤ 128000 ∧ 8248 ≤ burst ∧ burst ≤ 16777216 ∧ reset < 2) ∧
    (∃ s : State, ∃ h : Cmd, ∃ n : Nat, ∃ p : CcProfile, Takes s 0x0602 h false ∧ profileBad n p = none) ∧
    (∃ s : State, ∃ h : Cmd, ∃ cir : Nat, ∃ pir : Nat, ∃ cbs : Nat, ∃ pbs : Nat, Takes s 0x0603 h true ∧ cir ≤ pir ∧ pir ≤ 128000 ∧ 8248 ≤ cbs ∧
      cbs ≤ 67108864 ∧ 8248 ≤ pbs ∧ pbs ≤ 67108864) ∧
    (∃ s : State, ∃ h : Cmd, ∃ n : Nat, ∃ cycle : Nat, ∃ l : List U64, Takes s 0x0609 h false ∧ gateBad s.dev n cycle l = none) ∧
    (∃ s : State, ∃ n : Nat, ∃ base : Nat, ∃ cycle : Nat, ∃ t : Nat, ∃ l : List U64, alive s.ao = true ∧
      (getPort s.dev n).gatePending = some (l, base, cycle, t)) ∧
    (∃ s : State, ∃ n : Nat, alive s.ao = true ∧ (getPort s.dev n).gateActive ≠ []) ∧
    (∃ s : State, ∃ n : Nat, alive s.ao = true ∧ n < 64) ∧
    (∃ s : State, ∃ h : Cmd, ∃ r : RingP, Takes s 0x060A h true ∧ r.space < 2 ∧ 6 ≤ r.lg ∧ r.lg ≤ 16 ∧ (getSlice s.dev h.slice).feedbackQ = none ∧
      ringStatus s.dev h.slice r.space r.base r.lg 32 = csOk) ∧
    (∃ s : State, ∃ h : Cmd, ∃ cons : U32, ∃ r : Ring, Takes s 0x060B h true ∧ (getSlice s.dev h.slice).feedbackQ = some r ∧ cons ≠ r.cons ∧
      (cons - r.cons).toNat < 2 ^ 31 ∧ (cons - r.cons).toNat ≤ (r.prod - r.cons).toNat) ∧
    (∃ s : State, ∃ n : Nat, ∃ tc, ∃ q, ∃ e, alive s.ao = true ∧ dataOn s.dev = true ∧ n < 64 ∧ nextPacket s.dev n = some (tc, q, e)) ∧
    (∃ s : State, ∃ n : Nat, alive s.ao = true ∧ dataOn s.dev = true ∧ n < 64 ∧ nextPacket s.dev n = none) :=
  ⟨⟨st D, H0, 1, 511, 7, 128000, 8248, 1, by decide +kernel⟩,
   ⟨st D, H0, 15, CcProfile.reset, by decide +kernel⟩,
   ⟨st D, HD, 0, 0, 8248, 8248, by decide +kernel⟩,
   ⟨st DN, H0, 0, 1000, [0xFF000000000003E8], by decide +kernel⟩,
   ⟨st (setPort 0 { lane with gatePending := some ([0xFF000000000003E8], 0, 1000, 9) } DN), 0, 0, 1000, 9, [0xFF000000000003E8], by decide +kernel⟩,
   ⟨st (setPort 0 { lane with gateActive := [0xFF000000000003E8] } DN), 0, by decide +kernel⟩,
   ⟨st D, 63, by decide +kernel⟩,
   ⟨st D, H, ⟨1, 0x80000000, 16, 0⟩, by decide +kernel⟩,
   ⟨st { D with slices := [(3, { sl with feedbackQ := some ⟨1, 0x80000000, 6, 4, 0⟩ })] }, H, 4, ⟨1, 0x80000000, 6, 4, 0⟩, by decide +kernel⟩,
   ⟨st (setPort 0 { lane with queue := [⟨pk 0 0 0 none [1], 0, 0, some 3, 0, 5, true, none⟩] } DN), 0, 0, 3, ⟨pk 0 0 0 none [1], 0, 0, some 3, 0, 5, true, none⟩, by decide +kernel⟩,
   ⟨st DN, 0, by decide +kernel⟩⟩

theorem wit_TelemetryCommandsComplete :
    (∃ s : State, ∃ h : Cmd, ∃ mon : Nat, ∃ kind : Nat, ∃ object : Nat, ∃ tc : Nat, ∃ mode : Nat, ∃ step : Nat, ∃ k : Nat, Takes s 0x0604 h true ∧
      mon < 4096 ∧ kind < 3 ∧ tc < 8 ∧ mode < 2 ∧ 1 ≤ step ∧ step ≤ 1048576 ∧ tget s.dev.monitors mon = none ∧
      monSlice s.dev kind object = some k ∧ k = h.slice ∧ quotaFull s.dev h.slice 12 = false) ∧
    (∃ s : State, ∃ h : Cmd, ∃ mon : Nat, ∃ m : Monitor, Takes s 0x0605 h false ∧ mon < 4096 ∧ tget s.dev.monitors mon = some m ∧
      m.owner = some h.slice ∧ sliceGoing s.dev h.slice = false) ∧
    (∃ s : State, ∃ h : Cmd, ∃ mon : Nat, ∃ clear : Nat, ∃ m : Monitor, Takes s 0x0606 h false ∧ mon < 4096 ∧ clear < 2 ∧
      tget s.dev.monitors mon = some m ∧ m.owner = some h.slice) ∧
    (∃ s : State, alive s.ao = true) ∧
    (∃ s : State, ∃ h : Cmd, ∃ r : RingP, ∃ v : Nat, Takes s 0x0901 h false ∧ h.aq < 8 ∧ r.space = 0 ∧ 6 ≤ r.lg ∧ r.lg ≤ 16 ∧ v < 2048 ∧
      (getEvq s.dev 0).en = false ∧ ringAligned r.base r.lg 32 = true) ∧
    (∃ s : State, ∃ h : Cmd, ∃ q : Nat, ∃ cons : U32, Takes s 0x0902 h (decide (q ≠ 0)) ∧ q ≤ 512 ∧ evqAllowed h q = true ∧
      (getEvq s.dev q).en = true ∧ cons ≠ (getEvq s.dev q).ring.cons ∧ (cons - (getEvq s.dev q).ring.cons).toNat < 2 ^ 31 ∧
      (cons - (getEvq s.dev q).ring.cons).toNat ≤ ((getEvq s.dev q).ring.prod - (getEvq s.dev q).ring.cons).toNat) ∧
    (∃ s : State, ∃ h : Cmd, ∃ e : Nat, ∃ kind : Nat, ∃ object : Nat, ∃ level : Nat, Takes s 0x0903 h true ∧ e < 16384 ∧ kind < 10 ∧
      object < 2 ^ 20 ∧ level < 2 ^ 32 ∧ e / 32 = h.slice ∧ deviceKind kind = false ∧ markObject s.dev kind object = some (some h.slice)) ∧
    (∃ s : State, ∃ h : Cmd, ∃ e : Nat, Takes s 0x0904 h true ∧ e < 16384 ∧ e / 32 = h.slice) ∧
    (∃ s : State, ∃ h : Cmd, ∃ e : Nat, ∃ w : Watermark, Takes s 0x0905 h true ∧ e < 16384 ∧ e / 32 = h.slice ∧ tget s.dev.watermarks e = some w ∧
      (let l := wmLevel s.dev w.kind w.object; l < w.level)) ∧
    (∃ s : State, ∃ h : Cmd, ∃ e : Nat, ∃ w : Watermark, Takes s 0x0905 h true ∧ e < 16384 ∧ e / 32 = h.slice ∧ tget s.dev.watermarks e = some w ∧
      (let l := wmLevel s.dev w.kind w.object; w.level ≤ l)) ∧
    (∃ s : State, ∃ h : Cmd, ∃ e : Nat, Takes s 0x0906 h true ∧ e < 16384 ∧ e / 32 = h.slice) ∧
    (∃ s : State, ∃ k : Nat, alive s.ao = true ∧ k < 82) :=
  ⟨⟨st D, H, 4095, 2, 9, 7, 1, 1048576, 3, by decide +kernel⟩,
   ⟨st { D with monitors := [(1, ⟨some 3, 0, 5, 0, false, 1, [], [], 0, 0⟩)] }, H, 1, ⟨some 3, 0, 5, 0, false, 1, [], [], 0, 0⟩, by decide +kernel⟩,
   ⟨st { D with monitors := [(1, ⟨some 3, 0, 5, 0, false, 1, [], [], 0, 0⟩)] }, H, 1, 1, ⟨some 3, 0, 5, 0, false, 1, [], [], 0, 0⟩, by decide +kernel⟩,
   ⟨st D, by decide +kernel⟩,
   ⟨st D, H0, ⟨0, 0x50000, 16, 0⟩, 2047, by decide +kernel⟩,
   ⟨st { D with eventQ := [(4, { EventQ.reset with en := true, ring := ⟨0, 0x50000, 6, 4, 0⟩ })] }, H, 4, 4, by decide +kernel⟩,
   ⟨st D, H, 127, 2, 9, 2 ^ 32 - 1, by decide +kernel⟩,
   ⟨st D, H, 96, by decide +kernel⟩,
   ⟨st { D with watermarks := [(96, ⟨1, 0, 0, true, false, 0, 5, 0⟩)] }, H, 96, ⟨1, 0, 0, true, false, 0, 5, 0⟩, by decide +kernel⟩,
   ⟨st { D with watermarks := [(96, ⟨0, 0, 0, true, false, 0, 5, 0⟩)] }, H, 96, ⟨0, 0, 0, true, false, 0, 5, 0⟩, by decide +kernel⟩,
   ⟨st D, H, 127, by decide +kernel⟩,
   ⟨st D, 81, by decide +kernel⟩⟩

theorem wit_SliceCommandsComplete :
    (∃ s : State, ∃ h : Cmd, ∃ p : SliceCreateP, Takes s 0x0701 h false ∧ sliceCreateBad p = none ∧ (getSlice s.dev h.slice).st = .free ∧
      setValid s.dev p.routeSet = true ∧ (p.latCrit = 1 ∨ p.limits.getD 7 0 = 0) ∧
      (∀ q, q < 13 → totalHolds s.dev h.slice q (p.limits.getD q 0) = true)) ∧
    (∃ s : State, ∃ h : Cmd, ∃ p : SliceModifyP, Takes s 0x0702 h false ∧ sliceModifyBad p = none ∧ (getSlice s.dev h.slice).st ≠ .free ∧
      sliceGoing s.dev h.slice = false ∧ (p.mask.getLsbD 9 = false ∨ p.xltHa = false ∨ s.dev.pasidEn = true)) ∧
    (∃ s : State, ∃ h : Cmd, ∃ l : List (Option Nat), ∃ b : QuotaRead, Takes s 0x0703 h true ∧ sliceQuotaBad l b = none ∧
      ((getSlice s.dev h.slice).latCrit = true ∨ ((l[7]?).getD none).getD 0 = 0) ∧
      (∀ q, q < 13 → quotaRefused s.dev h.slice q (newLimit s.dev h.slice l q) = false)) ∧
    (∃ s : State, ∃ h : Cmd, ∃ p : SliceBindP, Takes s 0x0704 h true ∧ sliceBindBad p = none ∧
      (p.mask.getLsbD 2 = false ∨ setValid s.dev p.routeSet = true) ∧
      (p.mask.getLsbD 1 = false ∨ ∀ q ∈ s.dev.qps, q.2.slice = h.slice → p.classMask.testBit q.2.p.tc = true) ∧
      (∀ a ∈ portsLost p (getSlice s.dev h.slice), spaceUsed s.dev h.slice (2 + a) = false) ∧
      (p.mask.getLsbD 4 = false ∨ p.latCrit ≠ 0 ∨ ∀ q ∈ s.dev.qps, q.2.slice = h.slice → q.2.pinned = false)) ∧
    (∃ s : State, ∃ h : Cmd, ∃ base : Nat, ∃ length : Nat, Takes s 0x0705 h true ∧ extentBad base length = none ∧
      extentTaken s.dev h.slice base length = false ∧ (getSlice s.dev h.slice).extents.length + (getSlice s.dev h.slice).removing.length < 64 ∧
      quotaUsed s.dev h.slice 3 + length / 0x200000 ≤ quotaLimit s.dev h.slice 3) ∧
    (∃ s : State, ∃ h : Cmd, ∃ base : Nat, ∃ length : Nat, Takes s 0x0706 h true ∧ extentBad base length = none ∧
      (getSlice s.dev h.slice).extents.contains (base, length) = true ∧ (∀ x ∈ placedIn s.dev h.slice, meets base length x = false) ∧
      (closedEpochs s.dev h.slice).length < 4 ∧
      (let x := getSlice s.dev h.slice; (let d := (invalidate h.slice 1 0 allPages { s.dev with slices := tset s.dev.slices h.slice { x with extents := x.extents.erase (base, length), removing := x.removing ++ [(base, length)] } }).2; holdersOf d h.slice x.epoch = []))) ∧
    (∃ s : State, ∃ h : Cmd, ∃ base : Nat, ∃ length : Nat, Takes s 0x0706 h true ∧ extentBad base length = none ∧
      (getSlice s.dev h.slice).extents.contains (base, length) = true ∧ (∀ x ∈ placedIn s.dev h.slice, meets base length x = false) ∧
      (closedEpochs s.dev h.slice).length < 4 ∧
      (let x := getSlice s.dev h.slice; (let d := (invalidate h.slice 1 0 allPages { s.dev with slices := tset s.dev.slices h.slice { x with extents := x.extents.erase (base, length), removing := x.removing ++ [(base, length)] } }).2; holdersOf d h.slice x.epoch ≠ []))) ∧
    (∃ s : State, ∃ h : Cmd, ∃ report : Nat, Takes s 0x0707 h true ∧ report % 64 = 0 ∧ resetOrdered s.dev h.slice = false) ∧
    (∃ s : State, ∃ h : Cmd, ∃ report : Nat, Takes s 0x0708 h true ∧ report % 64 = 0 ∧ resetOrdered s.dev h.slice = false) ∧
    (∃ s : State, ∃ k : Nat, ∃ report : Nat, ∃ t : Nat, ∃ h : Cmd, ∃ op : Nat, alive s.ao = true ∧
      s.dev.waits = [(h, op, .sliceReset k report (some t))]) ∧
    (∃ s : State, ∃ k : Nat, ∃ report : Nat, ∃ t : Nat, ∃ h : Cmd, ∃ op : Nat, alive s.ao = true ∧
      s.dev.waits = [(h, op, .sliceDestroy k report (some t))]) ∧
    (∃ s : State, ∃ a : Nat, ∃ n : Nat, alive s.ao = true ∧ (s.dev.zeroing.find? fun e => e.1 == a) = some (a, n)) :=
  ⟨⟨st { D with routing := { Routing.reset with routeSets := [(0, 0x800000000000000000)] } }, ⟨0, 0, 4, 0, none⟩, ⟨9, 255, 1, 0, 4095, 0, 1, 1, 1, 1, [1, 1, 1, 1, 1, 1, 1, 0, 1, 1, 1, 1, 1], ⟨0x1000, false, false⟩⟩, by decide +kernel⟩,
   ⟨st D, H, ⟨0xFFE, 10000000, 1000, 60000000, 1000000, 1000, 100, 255, true, true, true, true⟩, by decide +kernel⟩,
   ⟨st D, HD, [some 2, some 1, none, none, none, none, none, none, none, none, none, none, some 4096], ⟨0x1000, false, false⟩, by decide +kernel⟩,
   ⟨st { D with routing := { Routing.reset with routeSets := [(63, 0x800000000000000000)] } }, HD, ⟨0x1F, 0xFF, 1, 63, 4095, 0⟩, by decide +kernel⟩,
   ⟨st D, HD, 0x90000000, 0x200000, by decide +kernel⟩,
   ⟨st D, HD, 0x80000000, 0x4000000, by decide +kernel⟩,
   ⟨st { D with xlt := { Xlt.reset with holders := [⟨1, 3, 0, none, .qp, 5, 1⟩] } }, HD, 0x80000000, 0x4000000, by decide +kernel⟩,
   ⟨st D, HD, 64, by decide +kernel⟩,
   ⟨st D, HD, 64, by decide +kernel⟩,
   ⟨st { D with waits := [(H, 0x0707, .sliceReset 3 64 (some 5))] }, 3, 64, 5, H, 0x0707, by decide +kernel⟩,
   ⟨st { D with waits := [(HD, 0x0708, .sliceDestroy 3 64 (some 5))] }, 3, 64, 5, HD, 0x0708, by decide +kernel⟩,
   ⟨st { D with zeroing := [(0x80000000, 0x200000)] }, 0x80000000, 0x200000, by decide +kernel⟩⟩

/-- Slice 3 with nothing in it, and the image of it. -/
def DEmpty : Dev := { D with qps := [], cqs := [] }
def snap0 : Snapshot := (snapImage (some 3) DEmpty).1

theorem wit_RecoveryComplete :
    (∃ s : State, ∃ h : Cmd, Takes s 0x0802 h true ∧ sliceGoing s.dev h.slice = false) ∧
    (∃ s : State, ∃ h : Cmd, ∃ i : Snapshot, Takes s 0x0803 h false ∧ importRefusal s.dev i = none) ∧
    (∃ s : State, ∃ h : Cmd, Takes s 0x0804 h true ∧ (∀ p ∈ s.dev.qps, p.2.slice = h.slice → keyMissing s.dev p.2 = false)) ∧
    (∃ s : State, ∃ core : Nat, ∃ e : EventRec, ∃ r : List EventRec, alive s.ao = true ∧ tgetD s.dev.triage core [] = e :: r) ∧
    (∃ s : State, ∃ n : Nat, ∃ t : Nat, alive s.ao = true ∧ (getPort s.dev n).retrainDue = some t ∧ s.dev.cores ≠ 0) ∧
    (∃ s : State, ∃ k : Nat, ∃ t : Nat, ∃ x : KeySlot, alive s.ao = true ∧ tget s.dev.keySlots k = some x ∧ x.waitOver = false ∧
      sliceLive s.dev x.owner = true ∧ x.stoppedSince = some t) ∧
    (∃ s : State, ∃ k : Nat, ∃ t : Nat, ∃ x : KeySlot, ∃ key : FabKey, alive s.ao = true ∧ tget s.dev.keySlots k = some x ∧ x.prev = some (key, t)) :=
  ⟨⟨st D, HD, by decide +kernel⟩,
   ⟨st DEmpty, H0, snap0, by decide +kernel⟩,
   ⟨st D, HD, by decide +kernel⟩,
   ⟨st { D with triage := [(2, [⟨1, 1, none, 0, 0, false, 0, 0, 0, 0, 0⟩])] }, 2, ⟨1, 1, none, 0, 0, false, 0, 0, 0, 0, 0⟩, [], by decide +kernel⟩,
   ⟨st { DN with ports := [(0, { lane with retrainDue := some 9 })] }, 0, 9, by decide +kernel⟩,
   ⟨st { D with keySlots := [(8, ⟨3, true, some ⟨8, 7, 6⟩, none, none, 0, 0, some 9, false, 0, none, false⟩)] }, 8, 9, ⟨3, true, some ⟨8, 7, 6⟩, none, none, 0, 0, some 9, false, 0, none, false⟩, by decide +kernel⟩,
   ⟨st { D with keySlots := [(8, ⟨3, true, some ⟨8, 7, 6⟩, none, some (⟨5, 7, 6⟩, 9), 0, 0, none, false, 0, none, false⟩)] }, 8, 9, ⟨3, true, some ⟨8, 7, 6⟩, none, some (⟨5, 7, 6⟩, 9), 0, 0, none, false, 0, none, false⟩, ⟨5, 7, 6⟩, by decide +kernel⟩⟩

/-- A key for slot 8 of slice 3, DIR RX, wrapped by AES-256 Key Wrap under the key of bytes 0 to 31 (OpenSSL's id-aes256-wrap). -/
def kek0 : BitVec 256 := BitVec.ofNat 256 (leNat ((List.range 32).map (BitVec.ofNat 8)))
def wrapped : WrappedKey := ⟨0, 0x1000, ⟨[126, 238, 6, 147, 62, 220, 90, 44, 68, 201, 255, 69, 75, 151, 211, 142, 40, 182, 178, 123, 208, 117, 144, 66, 199, 214, 157,
  227, 173, 158, 28, 202, 64, 243, 183, 6, 146, 46, 0, 35, 23, 105, 254, 104, 209, 0, 128, 40, 90, 163, 57, 211, 248, 140, 203, 179], false, false⟩⟩
def plain : PlainKey := ⟨kek0, 7, 6, 0x201003⟩
/-- A bank that passes, and an adapter with session 1 open and handshake 2 begun. -/
def bank : BankImage := ⟨List.replicate 4 ⟨4, 0, true, true, 0⟩, ⟨1, 0, 0, [], [], [], [], [], [], []⟩⟩
def DSec : Dev := { D with sec := { Security.reset with selftestOk := true, sessions := [1], handshakes := [2], attestKey := true, serviceKeys := [(3, 5)] } }

theorem wit_SecurityCommandsComplete :
    (∃ s : State, ∃ h : Cmd, ∃ slot : Nat, ∃ dir : Nat, ∃ pos : Nat, ∃ k : WrappedKey, ∃ p : PlainKey, Takes s 0x0A01 h true ∧ slot < 4096 ∧
      dir < 2 ∧ pos < 2 ∧ s.dev.sec.mgmtReset = false ∧ unwraps s.dev h.slice k = some p ∧ installRefusal s.dev h.slice slot dir pos p = none) ∧
    (∃ s : State, ∃ h : Cmd, ∃ slot : Nat, ∃ y : KeySlot, Takes s 0x0A02 h true ∧ slot < 4096 ∧ tget s.dev.keySlots slot = some y ∧
      y.owner = h.slice ∧ slotNamed s.dev slot = false) ∧
    (∃ s : State, ∃ h : Cmd, ∃ slot : Nat, ∃ y : KeySlot, Takes s 0x0A03 h true ∧ slot < 4096 ∧ tget s.dev.keySlots slot = some y ∧
      y.owner = h.slice) ∧
    (∃ s : State, ∃ i : Nat, ∃ slice : Nat, alive s.ao = true ∧ inSession s.dev (some i) = true ∧ s.dev.dataStopped = false ∧ slice < 512 ∧
      (getSlice s.dev slice).st ≠ .free ∧ sliceGoing s.dev slice = false) ∧
    (∃ s : State, ∃ i : Nat, ∃ off : Nat, ∃ n : Nat, ∃ b : BankImage, alive s.ao = true ∧ inSession s.dev (some i) = true ∧
      s.dev.dataStopped = false ∧ n ≤ 65536 ∧ off + n ≤ 31 * 2 ^ 20 ∧ bankPasses s.ao.minSvn b = true) ∧
    (∃ s : State, ∃ i : Nat, alive s.ao = true ∧ inSession s.dev (some i) = true ∧ s.dev.dataStopped = false) ∧
    (∃ s : State, ∃ i : Nat, alive s.ao = true ∧ inSession s.dev (some i) = true ∧ s.dev.dataStopped = false) ∧
    (∃ s : State, ∃ i : Nat, alive s.ao = true ∧ mgmtUp s.dev = true ∧ i ∈ s.dev.sec.handshakes) ∧
    (∃ s : State, alive s.ao = true ∧ mgmtUp s.dev = true ∧ s.dev.sec.attestKey = true ∧ s.dev.sec.unlocked = false) ∧
    (∃ s : State, ∃ i : Nat, ∃ k : Nat, alive s.ao = true ∧ inSession s.dev (some i) = true ∧ 0 < k) ∧
    (∃ s : State, ∃ n : Nat, ∃ l : List (BitVec 128), ∃ k : BitVec 256, alive s.ao = true ∧ mgmtUp s.dev = true ∧
      (s.dev.sec.serviceKeys.find? fun p => p.1 == n) = some (n, k) ∧ 1 ≤ l.length ∧ l.length ≤ 256) ∧
    (∃ s : State, alive s.ao = true ∧ mgmtUp s.dev = true) :=
  ⟨⟨st { D with slices := [(3, { sl with kek := some kek0 })] }, H, 8, 1, 1, wrapped, plain, by decide +kernel⟩,
   ⟨st { D with keySlots := [(8, ⟨3, true, some ⟨8, 7, 6⟩, none, none, 0, 0, none, false, 0, none, false⟩)] }, H, 8, ⟨3, true, some ⟨8, 7, 6⟩, none, none, 0, 0, none, false, 0, none, false⟩, by decide +kernel⟩,
   ⟨st { D with keySlots := [(8, ⟨3, true, some ⟨8, 7, 6⟩, none, none, 0, 0, none, false, 0, none, false⟩)] }, H, 8, ⟨3, true, some ⟨8, 7, 6⟩, none, none, 0, 0, none, false, 0, none, false⟩, by decide +kernel⟩,
   ⟨st DSec, 1, 3, by decide +kernel⟩,
   ⟨st DSec, 1, 31 * 2 ^ 20 - 65536, 65536, bank, by decide +kernel⟩,
   ⟨st DSec, 1, by decide +kernel⟩,
   ⟨st DSec, 1, by decide +kernel⟩,
   ⟨st DSec, 2, by decide +kernel⟩,
   ⟨st DSec, by decide +kernel⟩,
   ⟨st DSec, 1, 5, by decide +kernel⟩,
   ⟨st DSec, 3, List.replicate 256 0, 5, by decide +kernel⟩,
   ⟨st DSec, by decide +kernel⟩⟩

theorem wit_ResetsComplete :
    (∃ s : State, s.ao.phase = .held) ∧
    (∃ s : State, s.ao.phase = .booting) ∧
    (∃ s : State, s.ao.phase = .perstHeld ∧ s.ao.booted = false) ∧
    (∃ s : State, s.ao.phase = .perstHeld ∧ s.ao.booted = true) ∧
    (∃ s : State, ∃ n : Nat, ∃ image : BankImage, s.ao.phase = .recovery ∧ s.dev.sec.selftestOk = true ∧ n < 2 ∧
      bankPasses s.ao.minSvn image = true) ∧
    (∃ s : State, alive s.ao = true ∧ s.dev.sec.mgmtReset = false) ∧
    (∃ s : State, alive s.ao = true ∧ s.dev.sec.mgmtReset = true) ∧
    (∃ s : State, alive s.ao = true ∧ s.dev.transitReset = false ∧ (∀ p ∈ s.dev.slices, p.2.st = .free)) ∧
    (∃ s : State, alive s.ao = true ∧ s.dev.transitReset = true) ∧
    (∃ s : State, s.ao.thermTrip = false ∧ s.ao.thermAlert = false) ∧
    (∃ s : State, s.ao.phase ≠ .held ∧ s.ao.phase ≠ .powerLoss) ∧
    (∃ s : State, ∃ acc : Bool, ∃ g : Nat, alive s.ao = true ∧ refclkNamed acc g = true ∧ s.dev.refLost.contains (acc, g) = false) ∧
    (∃ s : State, ∃ acc : Bool, ∃ g : Nat, alive s.ao = true ∧ refclkNamed acc g = true ∧ s.dev.refLost.contains (acc, g) = true) ∧
    (∃ s : State, ∃ t : Nat, s.ao.phase ≠ .held ∧ s.ao.thermAlert = false ∧ alertPoint s.dev ≤ t) ∧
    (∃ s : State, ∃ t : Nat, ∃ dram : List Nat, s.ao.phase ≠ .held ∧ s.ao.phase ≠ .powerLoss ∧ s.ao.thermTrip = false ∧
      (tripPoint s.dev ≤ t ∨ ∃ x ∈ dram, 105 < x)) ∧
    (∃ s : State, s.ao.phase ≠ .held) :=
  ⟨⟨State.reset, by decide +kernel⟩,
   ⟨⟨[], { Ao.reset with phase := .booting }, Dev.reset⟩, by decide +kernel⟩,
   ⟨⟨[], { Ao.reset with phase := .perstHeld }, Dev.reset⟩, by decide +kernel⟩,
   ⟨⟨[], { Ao.reset with phase := .perstHeld, booted := true, banks := [bank, bank] }, Dev.reset⟩, by decide +kernel⟩,
   ⟨⟨[], { Ao.reset with phase := .recovery }, DSec⟩, 1, bank, by decide +kernel⟩,
   ⟨st D, by decide +kernel⟩,
   ⟨st { DSec with sec := { DSec.sec with mgmtReset := true } }, by decide +kernel⟩,
   ⟨st { D with slices := [(3, Slice.free)] }, by decide +kernel⟩,
   ⟨st { D with transitReset := true }, by decide +kernel⟩,
   ⟨st D, by decide +kernel⟩,
   ⟨st D, by decide +kernel⟩,
   ⟨st D, true, 1, by decide +kernel⟩,
   ⟨st { D with refLost := [(true, 1)] }, true, 1, by decide +kernel⟩,
   ⟨st D, 90, by decide +kernel⟩,
   ⟨st D, 105, [], by decide +kernel⟩,
   ⟨st D, by decide +kernel⟩⟩

theorem wit_RegistersAndStacksComplete :
    (∃ s : State, ∃ off : Nat, ∃ size : Nat, alive s.ao = true ∧ s.dev.ready = true ∧ (size = 4 ∨ size = 8) ∧ off % size = 0 ∧ off < 0x04000000) ∧
    (∃ s : State, ∃ off : Nat, ∃ size : Nat, alive s.ao = true ∧ s.dev.ready = true ∧ (¬(size = 4 ∨ size = 8) ∨ off % size ≠ 0)) ∧
    (∃ s : State, ∃ off : Nat, alive s.ao = true ∧ s.dev.ready = true ∧ off % 8 = 0 ∧ off / 0x400000 = 0xC) ∧
    (∃ s : State, ∃ v : U64, alive s.ao = true ∧ s.dev.ready = true ∧ 8000 ≤ v.toNat % 2 ^ 32 ∧ v.toNat % 2 ^ 32 ≤ 4000000) ∧
    (∃ s : State, ∃ line : Nat, ∃ k, alive s.ao = true ∧ line * 32 < smemBytes ∧ poisonedLine s.dev line = false ∧ (k = 2 ∨ k = 3)) ∧
    (∃ s : State, ∃ line : Nat, alive s.ao = true ∧ line * 32 < smemBytes ∧ poisonedLine s.dev line = false ∧ s.dev.scrubHours ≠ 0 ∧
      (getPower s.dev (.stack (smemMap (line * 32)).1)).st ≠ .meringue) ∧
    (∃ s : State, ∃ k : Nat, alive s.ao = true ∧ k < 4) :=
  ⟨⟨st D, 0x03FFFFF8, 8, by decide +kernel⟩,
   ⟨st D, 1, 4, by decide +kernel⟩,
   ⟨st D, 0x03000000, by decide +kernel⟩,
   ⟨st D, 8000, by decide +kernel⟩,
   ⟨st D, 0x4000000, 3, by decide +kernel⟩,
   ⟨st D, 0x4000000, by decide +kernel⟩,
   ⟨st D, 3, by decide +kernel⟩⟩

theorem wit_IdleStepTicks :
    (∃ s : State, s.pending = [] ∧ (∀ p ∈ s.dev.ports, ∀ x ∈ p.2.leaving, s.dev.now + 1 < x.2.2)) :=
  ⟨State.reset, by decide +kernel⟩

theorem wit_BootRuleKept :
    (∃ s : State, ∃ t : State, bootRule s.ao ∧ step s = .next t) :=
  ⟨⟨[.resetSequenceDone], { Ao.reset with phase := .booting, banks := [bank, bank] }, DSec⟩, _, by decide +kernel, rfl⟩

theorem wit_PowerLossEndsWithPor :
    (∃ i : Instr, ∃ s : State, ∃ t : State, exec i s = .next t ∧ s.ao.phase = .powerLoss ∧ i ≠ .porFall) ∧
    (∃ i : Instr, ∃ s : State, ∃ t : State, exec i s = .next t ∧ i = .porFall) ∧
    (∃ i : Instr, ∃ s : State, ∃ t : State, exec i s = .next t ∧ s.ao.phase = .held ∧ t.ao.phase ≠ .held) ∧
    (∃ i : Instr, ∃ s : State, ∃ t : State, exec i s = .next t ∧ s.ao.thermTrip = true ∧ i ≠ .porFall) ∧
    (∃ i : Instr, ∃ s : State, ∃ t : State, ∃ j, exec i s = .next t ∧ j < 4) ∧
    (∃ i : Instr, ∃ s : State, ∃ t : State, exec i s = .next t ∧ s.ao.minSvn ≠ t.ao.minSvn) :=
  ⟨⟨.sysclkLoss, ⟨[], { Ao.reset with phase := .powerLoss }, Dev.reset⟩, _, rfl, by decide +kernel⟩,
   ⟨.porFall, ⟨[], { Ao.reset with phase := .powerLoss }, Dev.reset⟩, _, rfl, by decide +kernel⟩,
   ⟨.powerOn true true bank bank, State.reset, _, rfl, by decide +kernel⟩,
   ⟨.sysclkLoss, ⟨[], { Ao.reset with phase := .powerLoss, thermTrip := true }, Dev.reset⟩, _, rfl, by decide +kernel⟩,
   ⟨.resetSequenceDone, ⟨[.resetSequenceDone], { Ao.reset with phase := .booting, banks := [bank, bank] }, DSec⟩, _, 3, rfl, by decide +kernel⟩,
   ⟨.resetSequenceDone, ⟨[.resetSequenceDone], { Ao.reset with phase := .booting, banks := [bank, bank] }, DSec⟩, _, rfl, by decide +kernel⟩⟩

theorem wit_StackMemoryReadsBack :
    (∃ a : Nat, ∃ x : Nat, ∃ bs : List Byte, (x < a ∨ a + bs.length ≤ x)) ∧
    (∃ m : List Host.Cell, Memory.wf m = true) ∧
    (∃ m : List Host.Cell, ∃ l : List Host.Cell, Memory.wf m = true ∧ Memory.wf l = true ∧ (∀ x, memGet m x = memGet l x)) :=
  ⟨⟨5, 4, [7], by decide +kernel⟩,
   ⟨[(5, 7)], by decide +kernel⟩,
   ⟨[(5, 7)], [(5, 7)], by decide +kernel, by decide +kernel, fun _ => rfl⟩⟩

theorem wit_AddressMapFollowsR381 :
    (∃ a : Nat, ∃ b : Nat, smemMap a = smemMap b) ∧
    (∃ k : Nat, ∃ c : Nat, k < 4 ∧ c < 16) ∧
    (∃ a : Nat, ∃ b : Nat, a / 2048 = b / 2048) ∧
    (∃ a : Nat, ∃ b : Nat, a / 128 = b / 128) ∧
    (∃ k : Nat, ∃ c : Nat, k < 4 ∧ c < 16) :=
  ⟨⟨1, 1, by decide +kernel⟩,
   ⟨3, 15, by decide +kernel⟩,
   ⟨2047, 0, by decide +kernel⟩,
   ⟨127, 0, by decide +kernel⟩,
   ⟨3, 15, by decide +kernel⟩⟩

theorem wit_LapsCarryTheOtherPhase :
    (∃ lg : Nat, lg < 32) ∧
    (∃ i : U32, ∃ lg : Nat, ∃ k : Nat, lg < 32 ∧ i.toNat % 2 ^ lg + k < 2 ^ lg) :=
  ⟨⟨31, by decide +kernel⟩,
   ⟨60, 6, 3, by decide +kernel⟩⟩

theorem wit_CommonOperationsFrame :
    (∃ n, n < 64) ∧
    (∃ d : Dev, (∀ n, (getAq d n).space ≠ 1)) ∧
    (∃ n, n < 64) ∧
    (∃ d : Dev, (∀ q, (getEvq d q).ring.space ≠ 1)) :=
  ⟨⟨63, by decide +kernel⟩,
   ⟨Dev.reset, fun _ => by show (0 : Nat) ≠ 1; decide⟩,
   ⟨63, by decide +kernel⟩,
   ⟨Dev.reset, fun _ => by show (0 : Nat) ≠ 1; decide⟩⟩


/-! ## Ill-formed commands are refused -/

/-- Each operand that has a check, too wide for its field or outside its numbering, one at a time. -/
theorem test_wf_refuses_0 : ([
    .aqCreate H (2 ^ 70) 0 0 0 0 0,
    .aqCreate H 0 (2 ^ 70) 0 0 0 0,
    .aqCreate H 0 0 (2 ^ 70) 0 0 0,
    .aqCreate H 0 0 0 (2 ^ 70) 0 0,
    .aqCreate H 0 0 0 0 (2 ^ 70) 0,
    .aqCreate H 0 0 0 0 0 (2 ^ 70),
    .aqDestroy H (2 ^ 70),
    .devModeSet H (2 ^ 70) 0,
    .devModeSet H 0 (2 ^ 70),
    .devQuery H (2 ^ 70) 0 0 0,
    .devQuery H 0 (2 ^ 70) 0 0,
    .devQuery H 0 0 (2 ^ 70) 0] : List Instr).all (fun i => !i.wf) = true := by decide +kernel

theorem test_wf_refuses_1 : ([
    .devQuery H 0 0 0 (2 ^ 70),
    .selfTest H (2 ^ 70) 0 0 0 0,
    .selfTest H 0 (2 ^ 70) 0 0 0,
    .selfTest H 0 0 (2 ^ 70) 0 0,
    .selfTest H 0 0 0 (2 ^ 70) 0,
    .selfTest H 0 0 0 0 (2 ^ 70),
    .selfTestDone (2 ^ 70) 0 0 0 false,
    .selfTestDone 0 (2 ^ 70) 0 0 false,
    .qpDestroy H (2 ^ 70),
    .qpQuery H (2 ^ 70) 0 0,
    .qpQuery H 0 (2 ^ 70) 0,
    .qpQuery H 0 0 (2 ^ 70)] : List Instr).all (fun i => !i.wf) = true := by decide +kernel

theorem test_wf_refuses_2 : ([
    .qpPin H (2 ^ 70),
    .qpUnpin H (2 ^ 70),
    .wqInvalidate H (2 ^ 70) 0,
    .wqInvalidate H 0 (2 ^ 70),
    .cqCreate H (2 ^ 70) ⟨0,0,0,0⟩ 0,
    .cqCreate H 0 ⟨256, 0, 0, 0⟩ 0,
    .cqCreate H 0 ⟨0,0,0,0⟩ (2 ^ 70),
    .cqModify H (2 ^ 70) 0,
    .cqModify H 0 (2 ^ 70),
    .cqDestroy H (2 ^ 70),
    .cqQuery H (2 ^ 70),
    .winCreate H (2 ^ 70) 0 0 0] : List Instr).all (fun i => !i.wf) = true := by decide +kernel

theorem test_wf_refuses_3 : ([
    .winCreate H 0 (2 ^ 70) 0 0,
    .winCreate H 0 0 (2 ^ 70) 0,
    .winCreate H 0 0 0 (2 ^ 70),
    .winQuery H (2 ^ 70),
    .xltRootSet H (2 ^ 70) 0,
    .xltRootSet H 0 (2 ^ 70),
    .xltInval H (2 ^ 70) 0 0 0,
    .xltInval H 0 (2 ^ 70) 0 0,
    .xltInval H 0 0 (2 ^ 70) 0,
    .xltInval H 0 0 0 (2 ^ 70),
    .xltInvalWait H (2 ^ 70),
    .invalHoldersDone (2 ^ 70) none] : List Instr).all (fun i => !i.wf) = true := by decide +kernel

theorem test_wf_refuses_4 : ([
    .invalTimeoutExpiry (2 ^ 70) none,
    .xltResolve H (List.replicate 256 (0, 0)) 0,
    .fqCreate H ⟨256, 0, 0, 0⟩,
    .txeLoad H (2 ^ 70) 0 0 ⟨0, 0, true, false, []⟩,
    .txeLoad H 0 (2 ^ 70) 0 ⟨0, 0, true, false, []⟩,
    .txeLoad H 0 0 (2 ^ 70) ⟨0, 0, true, false, []⟩,
    .txeLoad H 0 0 0 ⟨2 ^ 64, 0, true, false, []⟩,
    .txeLoad H 0 0 0 ⟨0, 2 ^ 32, true, false, []⟩,
    .txePlanLoad H (List.replicate 256 ⟨0, 0, 0, ⟨0, 0, true, false, []⟩⟩),
    .txePlanLoad H [⟨0, 0, 256, ⟨0, 0, true, false, []⟩⟩],
    .txeUnload H (2 ^ 70),
    .txeAuxWrite H (2 ^ 70) 0 [],
    .txeAuxWrite H 0 (2 ^ 70) [],
    .txeAuxWrite H 0 0 (List.replicate 65 0),
    .txeSeed H (2 ^ 70) 0] : List Instr).all (fun i => !i.wf) = true := by decide +kernel

theorem test_wf_refuses_5 : ([
    .collDestroy H (2 ^ 70),
    .collReset H (2 ^ 70),
    .stageReplay H (2 ^ 70) 0,
    .stageQuery H (2 ^ 70),
    .trigArm H (2 ^ 70) 0,
    .trigDestroy H (2 ^ 70),
    .portRetrain H (2 ^ 70),
    .routesetSet H (2 ^ 70) 0,
    .epMap H (2 ^ 70) 0,
    .shaperSet H (2 ^ 70) 0 0 0 0 0,
    .shaperSet H 0 (2 ^ 70) 0 0 0 0,
    .shaperSet H 0 0 (2 ^ 70) 0 0 0] : List Instr).all (fun i => !i.wf) = true := by decide +kernel

theorem test_wf_refuses_6 : ([
    .shaperSet H 0 0 0 (2 ^ 70) 0 0,
    .shaperSet H 0 0 0 0 (2 ^ 70) 0,
    .shaperSet H 0 0 0 0 0 (2 ^ 70),
    .meterSet H (2 ^ 70) 0 0 0,
    .meterSet H 0 (2 ^ 70) 0 0,
    .meterSet H 0 0 (2 ^ 70) 0,
    .meterSet H 0 0 0 (2 ^ 70),
    .histAttach H (2 ^ 70) 0 0 0 0 0,
    .histAttach H 0 (2 ^ 70) 0 0 0 0,
    .histAttach H 0 0 (2 ^ 70) 0 0 0,
    .histAttach H 0 0 0 (2 ^ 70) 0 0,
    .histAttach H 0 0 0 0 (2 ^ 70) 0] : List Instr).all (fun i => !i.wf) = true := by decide +kernel

theorem test_wf_refuses_7 : ([
    .histAttach H 0 0 0 0 0 (2 ^ 70),
    .histDetach H (2 ^ 70),
    .histRead H (2 ^ 70) 0,
    .histRead H 0 (2 ^ 70),
    .timeSet H (2 ^ 70),
    .timeAdj H (2 ^ 63),
    .gateSet H (2 ^ 70) 0 0 [],
    .gateSet H 0 (2 ^ 70) 0 [],
    .gateSet H 0 0 (2 ^ 70) [],
    .gateListActivate (2 ^ 70),
    .gateIntervalAdvance (2 ^ 70),
    .fbrCreate H ⟨256, 0, 0, 0⟩] : List Instr).all (fun i => !i.wf) = true := by decide +kernel

theorem test_wf_refuses_8 : ([
    .sliceQuota H [] ⟨0, false, false⟩,
    .sliceQuota H (List.replicate 13 none) ⟨2 ^ 64, false, false⟩,
    .sliceSmemAdd H (2 ^ 70) 0,
    .sliceSmemAdd H 0 (2 ^ 70),
    .sliceSmemRemove H (2 ^ 70) 0,
    .sliceSmemRemove H 0 (2 ^ 70),
    .sliceReset H (2 ^ 70),
    .sliceResetDrained (2 ^ 70),
    .sliceDestroy H (2 ^ 70),
    .extentZeroDone (2 ^ 70),
    .hostResume H (2 ^ 70) 0 0,
    .hostResume H 0 (2 ^ 70) 0,
    .hostResume H 0 0 (2 ^ 70)] : List Instr).all (fun i => !i.wf) = true := by decide +kernel

theorem test_wf_refuses_9 : ([
    .snapExport H (2 ^ 70) 0,
    .snapExport H 0 (2 ^ 70),
    .snapThaw H (2 ^ 70),
    .evqCreate H (2 ^ 70) ⟨0,0,0,0⟩ 0,
    .evqCreate H 0 ⟨256, 0, 0, 0⟩ 0,
    .evqCreate H 0 ⟨0,0,0,0⟩ (2 ^ 70),
    .evqAck H (2 ^ 70) 0 0,
    .evqAck H 0 0 (2 ^ 70),
    .wmSet H (2 ^ 70) 0 0 0,
    .wmSet H 0 (2 ^ 70) 0 0,
    .wmSet H 0 0 (2 ^ 70) 0,
    .wmSet H 0 0 0 (2 ^ 70)] : List Instr).all (fun i => !i.wf) = true := by decide +kernel

theorem test_wf_refuses_10 : ([
    .wmRead H (2 ^ 70),
    .wmAck H (2 ^ 70),
    .wmClear H (2 ^ 70),
    .keyInstall H (2 ^ 70) 0 0 wrapped,
    .keyInstall H 0 (2 ^ 70) 0 wrapped,
    .keyInstall H 0 0 (2 ^ 70) wrapped,
    .keyInstall H 0 0 0 { wrapped with space := 2 },
    .keyInstall H 0 0 0 { wrapped with addr := 2 ^ 64 },
    .keyFree H (2 ^ 70),
    .keyQuery H (2 ^ 70),
    .kekSet ⟨none, 2 ^ 70, none⟩ (2 ^ 70) 0,
    .kekSet ⟨none, 1, none⟩ 2 0,
    .fwUpdate ⟨none, 0, none⟩ (2 ^ 70) 0 none,
    .fwUpdate ⟨none, 0, none⟩ 0 (2 ^ 70) none,
    .fwUpdate ⟨none, 512, none⟩ 0 0 none,
    .secZeroise ⟨none, 512, none⟩,
    .spdmRequest (2 ^ 70) 0] : List Instr).all (fun i => !i.wf) = true := by decide +kernel

theorem test_wf_refuses_11 : ([
    .spdmRequest 0 (2 ^ 70),
    .rawBlockRequest false (2 ^ 70) [],
    .cmdAqProd (2 ^ 70) 0,
    .cmdAqRcons (2 ^ 70) 0,
    .commandFetchReturn (2 ^ 70) [],
    .commandReread (2 ^ 70),
    .commandTimeout (2 ^ 70) 0,
    .schGateCtlWrite (2 ^ 70) 0,
    .fabVcThreshWrite (2 ^ 70) false 0,
    .errFirstClear (2 ^ 70),
    .errNextClear (2 ^ 70),
    .registerWrite (2 ^ 70) 0 0 false] : List Instr).all (fun i => !i.wf) = true := by decide +kernel

theorem test_wf_refuses_12 : ([
    .registerWrite 0 (2 ^ 70) 0 false,
    .bar4Write (2 ^ 70) [] false,
    .bar4Read (2 ^ 70) 0,
    .bar4Read 0 (2 ^ 70),
    .doorbell (2 ^ 70) 0 0 false,
    .doorbell 0 (2 ^ 70) 0 false,
    .cqConsumed (2 ^ 70) 0 0,
    .cqConsumed 0 (2 ^ 70) 0,
    .cqArm (2 ^ 70) 0 0,
    .cqArm 0 (2 ^ 70) 0,
    .pushPageWrite (2 ^ 70) 0 0 0 [],
    .pushPageWrite 0 (2 ^ 70) 0 0 []] : List Instr).all (fun i => !i.wf) = true := by decide +kernel

theorem test_wf_refuses_13 : ([
    .pushPageWrite 0 0 (2 ^ 70) 0 [],
    .pushPageWrite 0 0 0 (2 ^ 70) [],
    .pushPageWrite 0 0 0 0 (List.replicate 4097 0),
    .pushTrigger (2 ^ 70) 0 0 0,
    .pushTrigger 0 (2 ^ 70) 0 0,
    .pushTrigger 0 0 (2 ^ 70) 0,
    .entryFetchReturn (2 ^ 70) false [],
    .entryReread (2 ^ 70) false,
    .entryStart (2 ^ 70),
    .packetBuild (2 ^ 70) ⟨[], false, false⟩,
    .egressPacketSelect (2 ^ 70),
    .rxRequestPacket (2 ^ 70) (pk 0 0 0 none [])] : List Instr).all (fun i => !i.wf) = true := by decide +kernel

theorem test_wf_refuses_14 : ([
    .rxAck (2 ^ 70) (pk 0 0 0 none []),
    .rxNak (2 ^ 70) (pk 0 0 0 none []),
    .rxResponse (2 ^ 70) (pk 0 0 0 none []),
    .cqStallTimeout (2 ^ 70),
    .ackTimerExpiry (2 ^ 70),
    .rtoExpiry (2 ^ 70),
    .nakDelayExpiry (2 ^ 70) 0,
    .busyLimitExpiry (2 ^ 70),
    .pageWaitLimitExpiry (2 ^ 70),
    .contextFetchDone (2 ^ 70) false false,
    .windowFetchDone (2 ^ 70) false false,
    .walkDone (2 ^ 70) 0 0] : List Instr).all (fun i => !i.wf) = true := by decide +kernel

theorem test_wf_refuses_15 : ([
    .walkDone 0 (2 ^ 70) 0,
    .walkDone 0 0 (2 ^ 70),
    .crumbBatchTimer (2 ^ 70),
    .faultTimeoutExpiry (2 ^ 70) false false,
    .failedRecordExpiry (2 ^ 70) 0 0,
    .failedRecordExpiry 0 (2 ^ 70) 0,
    .failedRecordExpiry 0 0 (2 ^ 70),
    .atsCompletion (2 ^ 70) 0 false false false 0 0,
    .atsCompletion 0 (2 ^ 70) false false false 0 0,
    .atsCompletion 0 0 false false false (2 ^ 70) 0,
    .atsCompletion 0 0 false false false 0 (2 ^ 70),
    .prgResponse (2 ^ 70) 0 0] : List Instr).all (fun i => !i.wf) = true := by decide +kernel

theorem test_wf_refuses_16 : ([
    .prgResponse 0 (2 ^ 70) 0,
    .prgResponse 0 0 (2 ^ 70),
    .atsInvalidateRequest (2 ^ 70) 0 0 false 0,
    .atsInvalidateRequest 0 0 0 false (2 ^ 70),
    .accumulateCommit (2 ^ 70) 0,
    .collStepStart (2 ^ 70),
    .stepTimeoutExpiry (2 ^ 70),
    .prevGraceExpiry (2 ^ 70),
    .keyWaitExpiry (2 ^ 70),
    .rateTableRead (2 ^ 70),
    .feedbackIntervalEnd (2 ^ 70),
    .portTrained (2 ^ 70) ⟨false, 0, false⟩ 0] : List Instr).all (fun i => !i.wf) = true := by decide +kernel

theorem test_wf_refuses_17 : ([
    .portTrained 0 ⟨false, 2 ^ 70, false⟩ 0,
    .portTrained 0 ⟨false, 0, false⟩ (2 ^ 70),
    .flitReceive 0 ⟨[], none⟩,
    .flitReceive 72 ⟨List.replicate 264 0, none⟩,
    .portDown (2 ^ 70) 0,
    .portDown 0 (2 ^ 70),
    .replayReq (2 ^ 70) 0,
    .replayMiss (2 ^ 70) 0,
    .replayReqTimeout (2 ^ 70),
    .replayBufferExpiry (2 ^ 70),
    .abort (2 ^ 70) 0,
    .abort 0 (2 ^ 70),
    .flow (2 ^ 70) 0,
    .flowRefreshTimer (2 ^ 70),
    .laneFailed (2 ^ 70) 0] : List Instr).all (fun i => !i.wf) = true := by decide +kernel

theorem test_wf_refuses_18 : ([
    .laneFailed 0 (2 ^ 70),
    .narrowComplete (2 ^ 70) 0 0,
    .narrowComplete 0 (2 ^ 70) 0,
    .routeUpdate (2 ^ 70) ⟨0,0,0,0,[]⟩,
    .routeUpdate 0 ⟨0, 0, 0, 0, List.replicate 121 0⟩,
    .transitPacket (2 ^ 70) 0 (pk 0 0 0 none []) false,
    .transitPacket 0 (2 ^ 70) (pk 0 0 0 none []) false,
    .timeFlitSend (2 ^ 70),
    .timeFlitReceive (2 ^ 70) ⟨0,0,0,0,0,0⟩ 0 false,
    .timeFlitReceive 0 ⟨4, 0, 0, 0, 0, 0⟩ 0 false,
    .ptpMessage (2 ^ 70) 0 0,
    .ethFrameReceive (2 ^ 70) ef (pk 0 0 0 none [])] : List Instr).all (fun i => !i.wf) = true := by decide +kernel

theorem test_wf_refuses_19 : ([
    .ethFrameReceive 0 { ef with priority := 8 } (pk 0 0 0 none []),
    .ethFrameReceive 0 { ef with ecn := 4 } (pk 0 0 0 none []),
    .pfcFrameReceive (2 ^ 70) 0 [],
    .pfcFrameReceive 0 (2 ^ 70) [],
    .pfcFrameReceive 0 0 (List.replicate 49 0),
    .pfcPauseExpiry (2 ^ 70) 0,
    .pfcPauseExpiry 0 (2 ^ 70),
    .pfcXoffRefresh (2 ^ 70) 0,
    .pfcXoffRefresh 0 (2 ^ 70),
    .zalTransaction (2 ^ 70) 0 [],
    .zalTransaction 0 0 (List.replicate 4097 0),
    .accUpstreamRequest (2 ^ 70) false 0 [],
    .accUpstreamRequest 0 false (2 ^ 70) []] : List Instr).all (fun i => !i.wf) = true := by decide +kernel

theorem test_wf_refuses_20 : ([
    .portReadCompletion (2 ^ 70) 0 0 ⟨[], false, false⟩,
    .portReadCompletion 0 (2 ^ 70) 0 ⟨[], false, false⟩,
    .portReadCompletion 0 0 0 ⟨List.replicate 4097 0, false, false⟩,
    .hostReadTimeout (2 ^ 70),
    .writeLogAck (2 ^ 70) 0,
    .hostLinkLoss (2 ^ 70),
    .hostLinkUp ⟨2 ^ 70, 16, true⟩,
    .hostLinkUp ⟨15, 17, true⟩,
    .hostHotReset (2 ^ 70),
    .railFault (2 ^ 70),
    .refclkLoss false (2 ^ 70),
    .thermTrip 0 (List.replicate 49 0),
    .sensorReport ⟨0, List.replicate 49 0, []⟩] : List Instr).all (fun i => !i.wf) = true := by decide +kernel

theorem test_wf_refuses_21 : ([
    .coreHung (2 ^ 70),
    .coreRestarted (2 ^ 70),
    .eventTriage (2 ^ 70),
    .triageRetrainTimer (2 ^ 70),
    .patrolScrub (2 ^ 70) 0,
    .patrolScrub 0 37,
    .smemRefresh (2 ^ 70) 0 none,
    .smemRefresh 0 (2 ^ 70) none,
    .powerIdleTimer (.engine 24),
    .souffle (.engine 24),
    .souffleDone (.engine 24),
    .parkStart (.engine 24),
    .parkTimeout (.engine 24)] : List Instr).all (fun i => !i.wf) = true := by decide +kernel

theorem test_wf_refuses_22 : ([
    .parkedPortSignal (.engine 24),
    .unparkTimeout (.engine 24),
    .refclkRestored false (2 ^ 70),
    .portParked (.engine 24),
    .spdmHeartbeatLost (2 ^ 70),
    .recoveryBankWrite (2 ^ 70) bank,
    .selfTestQuiesceTimeout (2 ^ 70),
    .stackReadReturn (2 ^ 70) 0,
    .stackReadReturn 0 37] : List Instr).all (fun i => !i.wf) = true := by decide +kernel

def bigP : List Bool :=
  [QpCreateP.ok ⟨2 ^ 32, 0, 0, 4, 0, 0, 0, 4, 0⟩, QpCreateP.ok ⟨0, 256, 0, 4, 0, 0, 0, 4, 0⟩, QpCreateP.ok ⟨0, 0, 2 ^ 64, 4, 0, 0, 0, 4, 0⟩,
   QpCreateP.ok ⟨0, 0, 0, 256, 0, 0, 0, 4, 0⟩, QpCreateP.ok ⟨0, 0, 0, 4, 0, 256, 0, 4, 0⟩, QpCreateP.ok ⟨0, 0, 0, 4, 0, 0, 2 ^ 64, 4, 0⟩,
   QpCreateP.ok ⟨0, 0, 0, 4, 0, 0, 0, 256, 0⟩, QpModifyP.ok ⟨2 ^ 32, 0, 0, 0, 0, 0, 0, 0, 0, 0, true, 0, 0, 0, 0, 0, 0, 0, 0, 0, false⟩,
   QpModifyP.ok ⟨0, 256, 0, 0, 0, 0, 0, 0, 0, 0, true, 0, 0, 0, 0, 0, 0, 0, 0, 0, false⟩,
   QpModifyP.ok ⟨0, 0, 0, 0, 0, 0, 0, 0, 0, 0, true, 0, 0, 0, 0, 0, 0, 0, 2 ^ 16, 0, false⟩,
   CollP.ok { cp with group := 65536 }, CollP.ok { cp with channels := 256 }, CollP.ok { cp with members := 2 ^ 64 }, MoeP.ok { mo with k := 256 },
   MoeP.ok { mo with combSlot := 65536 }, StageP.ok { sp with role := 256 }, StageP.ok { sp with log := 2 ^ 64 }, TrigP.ok ⟨65536, 0, 0, 0, 0, 0, 0, 0⟩,
   TrigP.ok ⟨0, 0, 0, 0, 0, 0, 65536, 0⟩, NeighP.ok ⟨2 ^ 32, 0, 0, 0, 0, 0⟩, NeighP.ok ⟨0, 0, 0, 0, 65536, 0⟩, CcProfile.ok { CcProfile.reset with beta := 65536 },
   SliceCreateP.ok ⟨0, 0, 0, 0, 0, 0, 0, 0, 0, 0, [], ⟨0, false, false⟩⟩, SliceCreateP.ok ⟨0, 256, 0, 0, 0, 0, 0, 0, 0, 0, [], ⟨0, true, false⟩⟩,
   SliceModifyP.ok ⟨0, 0, 0, 0, 0, 0, 0, 256, false, false, false, false⟩, SliceBindP.ok ⟨0, 256, 0, 0, 0, 0⟩, PwrSetP.ok ⟨256, 0, 0, 0, 0, 0, 0⟩,
   Codeword.ok ⟨List.replicate 263 0, none⟩, EthFrame.ok { ef with etherType := 65536 }, EthFrame.ok { ef with nextHeader := 256 },
   EthFrame.ok { ef with udpPort := 65536 }]
theorem test_wf_refuses_parameters : bigP.all (fun b => !b) = true := by decide +kernel

theorem test_wf_refuses_header : Cmd.ok ⟨520, 0, 0, 0, none⟩ = false ∧ Cmd.ok ⟨0, 0, 512, 0, none⟩ = false ∧ Cmd.ok ⟨519, 0, 511, 0, none⟩ = true := by
  decide

theorem test_wf_accepts : ([.qpPin H 0xFFFFFFFF, .doorbell 15 511 0 true, .souffle (.stack 3), .collCreate H cp, .flow 71 0] : List Instr).all Instr.wf = true := by
  decide +kernel

/-! ## Small tests: what one command does, by the manual's own examples and tables -/

/-- The adapter after a command. -/
def dv (r : Res) : Dev :=
  match r with
  | .next t => t.dev
  | _ => Dev.reset

/-- STATUS and DETAIL of the replies that left for admin queue 11 or 0 (Table 14.4). -/
def sts (r : Res) : List (Nat × Nat) :=
  (dv r).out.filterMap fun o => match o with
    | .reply _ _ _ _ b => some (fld b 15 0, fld b 127 112)
    | _ => none

/-- The Glaze of the nine ASCII bytes "123456789" and of nothing (R395). -/
theorem test_glaze : glaze [0x31, 0x32, 0x33, 0x34, 0x35, 0x36, 0x37, 0x38, 0x39] = 0x995DC9BBDF1939FA ∧ glaze [] = 0 := by decide +kernel

/-- Table 2.12: the send queue of 16 entries across the wrap of its index, its steps 2, 4, 7. -/
def wrapQ (p c : U32) : Dev := setPort 0 lane (setQp 5 { QL with sq := { QL.sq with ring := ⟨0, 0x10000, 4, p, c⟩ } } D)
def prodOf (d : Dev) : Option U32 := (getQp d 5).map fun q => q.sq.ring.prod
theorem test_wrap_accepted :
    prodOf (dv (exec (.doorbell 15 3 0x0000000500000004 true) (st (wrapQ 0xFFFFFFF8 0xFFFFFFF8)))) = some 4 := by decide +kernel
theorem test_wrap_late_doorbell :
    let d := dv (exec (.doorbell 15 3 0x0000000500000002 true) (st (wrapQ 8 0xFFFFFFF8)))
    prodOf d = some 8 ∧ (d.counters ≠ []) := by decide +kernel
theorem test_wrap_overflow :
    let d := dv (exec (.doorbell 15 3 0x0000000500000020 true) (st { wrapQ 9 0xFFFFFFFE with evtHa := true }))
    prodOf d = some 9 := by decide +kernel

/-- The program of the stage hand-off to MXFP8 (chapter 5): two VMXQ from BF16, granules of 256 and 132 bytes, 2 cycles. -/
def mxq : List Byte := natLe (0x03 * 2 ^ 56 + 1 * 2 ^ 52 + 8 * 2 ^ 48 + 66 * 2 ^ 37 + 64 * 2 ^ 30) 8
def mxImage : List Byte :=
  natLe (0x5A585450 * 2 ^ 480 + 2 ^ 464 + 3 * 2 ^ 448 + 256 * 2 ^ 416 + 132 * 2 ^ 400 + 2 * 2 ^ 288 + 2 ^ 275) 64 ++ mxq ++ mxq ++ natLe (0x5F * 2 ^ 56) 8
theorem test_mxfp8_image : (checkImage ⟨0x1000, mxImage.length, true, false, mxImage⟩).isRight = true := by decide +kernel

/-- Table 3.13 at 16.0 µs: the timer of the lost ACK expires; retries 1, RTO 32 µs. -/
theorem test_rto_doubles :
    let d := dv (exec (.rtoExpiry 5) (st (setQp 5 { QL with rqr := { QL.rqr with rtoDue := some 16000, out := [outPkt] } } D)))
    d.now = 16000 ∧ (getQp d 5).map (fun q => (q.rqr.retries, q.rqr.rto)) = some (1, 32000) := by decide +kernel

/-- R290: under a RATE of 10,000 with RESET 1 a packet of 8,216 bytes waits 821.6 ns. -/
theorem test_shaper_wait :
    let d := dv (exec (.shaperSet H0 0 0 0 10000 8248 1) (st D))
    shaperOpen { d with now := 821 } 0 8216 = false ∧ shaperOpen { d with now := 822 } 0 8216 = true := by decide +kernel

/-- Table 7.2: x^32 modulo the Light generator, x^10 in the field of Full FEC, and an inverse there. -/
theorem test_fec_fields : lightRem (2 ^ 32) 33 = 2 ^ 23 + 2 ^ 21 + 2 ^ 11 + 2 ^ 2 + 1 ∧ gfTwice 512 = 2 ^ 3 + 1 ∧ gfMul 513 (gfInv 513) = 1 := by decide +kernel

/-- Table 5.4: infinities and values out of range go to the largest finite value with their sign, in INT8 127. -/
theorem test_int_special :
    (toInt 8 none (.inf true)).val = intNum (-127) ∧ (toInt 8 none (.fin true 200 0)).val = intNum (-127) ∧
      (toInt 8 none (.fin false 200 0)).val = intNum 127 := by decide +kernel

theorem test_decode_has_no_rows : decodeTableWord 32 5 = none := rfl
theorem test_idle_tick : (dv (step (st D))).now = 1 ∧ (dv (step State.reset)).ports = [] := by decide +kernel
theorem test_step_takes_the_front :
    step { st D with pending := [.rtgSwap H0, .schTimeNsRead] } = exec (.rtgSwap H0) { st D with pending := [.schTimeNsRead] } := rfl
theorem test_held_in_reset : (dv (exec (.rtgSwap H0) State.reset)).routing.swaps = 0 := by decide +kernel
theorem test_rtg_swap :
    let d := dv (exec (.rtgSwap H0) (st D))
    d.routing.bank = true ∧ d.routing.swaps = 1 := by decide +kernel
theorem test_qp_create_reset :
    (getQp (dv (exec (.qpCreate H ⟨7, 0, 0x10000, 4, 3, 0, 0x10000, 4, 9⟩) (st D))) 7).map (fun q => (q.st, q.sq.ring.prod, q.rq.ring.cons)) = some (.reset, 3, 9) := by
  decide +kernel
theorem test_qp_create_lg : sts (exec (.qpCreate H ⟨7, 0, 0x10000, 3, 0, 0, 0x10000, 4, 0⟩) (st D)) = [(5, 24)] := by decide +kernel
theorem test_qp_destroy_live : (getQp (dv (exec (.qpDestroy H 5) (st D))) 5).isSome = true := by decide +kernel
theorem test_cq_create_stall : sts (exec (.cqCreate H 10 ⟨0, 0x20000, 6, 0⟩ 999) (st D)) = [(5, 32)] := by decide +kernel
theorem test_win_create_no_length : (sts (exec (.winCreate H 15 0 0 0) (st D))).map (·.1) = [5] := by decide +kernel
theorem test_xlt_inval_opens_epoch : (getSlice (dv (exec (.xltInval H 0 1 0 0) (st D))) 3).epoch = 1 := by decide +kernel
theorem test_time_set : (dv (exec (.timeSet H0 5) (st { D with evtHa := true }))).time.time = 5 * 2 ^ 16 := by decide +kernel
theorem test_win_ctl : (dv (exec (.hifWinCtlWrite 0x3000000000700000) (st D))).winTarget = 3 ∧ (dv (exec (.hifWinCtlWrite 0xA000000000700000) (st D))).winTarget = 0 := by
  decide +kernel
theorem test_bar4_write : memGet (dv (exec (.bar4Write 4 [0xAB] false) (st { D with winTarget := 1, winBase := 0x800 }))).mem 0x80000004 = 0xAB := by
  decide +kernel
theorem test_poison_by_ep : (dv (exec (.bar4Write 4 [0xAB] true) (st { D with winTarget := 1, winBase := 0x800 }))).poison = [0x80000000 / 32] := by
  decide +kernel
theorem test_flow_flit : (getPort (dv (exec (.flow 0 0x41) (st DN))) 0).peerOff = 0x41 := by decide +kernel
theorem test_trigger_credit_saturates :
    (getQp (addCredit 5 (setQp 5 { QL with rqr := { QL.rqr with credits := 65535 } } D)) 5).map (fun q => q.rqr.credits) = some 65535 := by decide +kernel
theorem test_power_loss : (match exec .sysclkLoss (st D) with | .next t => t.ao.phase | _ => .held) = .powerLoss := by decide +kernel
theorem test_por : (match exec .porFall (st D) with | .next t => t.ao.phase | _ => .running) = .held := by decide +kernel
theorem test_first_command_over_ready : sts (exec (.rtgSwap H0) (st { D with ready := false })) = [] := by decide +kernel
theorem test_reserved_field : sts (exec (.rtgSwap { H0 with rsvd := some 8 }) (st D)) = [(5, 8)] := by decide +kernel
theorem test_slice_queue_refused : (sts (exec (.rtgSwap H) (st D))).map (·.1) = [6] := by decide +kernel

end Sys2Proof.Tests
end

section
/-!
PROOF. Control cores and the device's own commands (01, 14, 15, 16): a command that the common checks let through, a hung core, the modes,
the queries and the self-tests.
-/
namespace Sys2Proof.Machine

/-! ## A command that is taken -/

/-- No field is out of range exactly where each one is good. -/
theorem firstBad_eq_none_iff (l : List (Nat × Bool)) : firstBad l = none ↔ ∀ p ∈ l, p.2 = true := by
  simp [firstBad, List.find?_eq_none]

/-- A command that is taken, with its fields in range, answers with its own rule. -/
theorem run_command_of_takes {s : State} {op : Nat} {h : Cmd} {sl : Bool} {bad : Option Nat} (body : CmdInfo → Dev → Dev)
    (ht : Takes s op h sl) (hb : bad = none) : run (command op h sl bad body) s = after s (body (cmdRow op) s.dev) := by
  obtain ⟨ha, hc⟩ := ht
  rw [run_of_alive ha, command_of_good body hc hb]

/-- The same, where the levels are compared after the command. -/
theorem runLevels_command_of_takes {s : State} {op : Nat} {h : Cmd} {sl : Bool} {bad : Option Nat} (body : CmdInfo → Dev → Dev)
    (ht : Takes s op h sl) (hb : bad = none) :
    runLevels (command op h sl bad body) s = after s (settleAll (body (cmdRow op) s.dev)) := by
  obtain ⟨ha, hc⟩ := ht
  rw [runLevels_of_alive ha, command_of_good body hc hb]

/-! ## Control cores (R19, R20, R477) -/

/-- The bound of a started command ends it, where it has one. -/
theorem commandTimeout_of_started {n : Nat} {i : U32} {c : Started} {d : Dev}
    (hf : (d.started.find? fun c => c.queue == n && c.index == i) = some c) :
    commandTimeout n i d = atExpiry (boundEnd d c) (commandTimedOut c) d := by
  simp only [commandTimeout, hf]

/-! ## Queries (R514) -/

/-- A device queue may query everything. -/
theorem queryForbidden_of_deviceQueue {h : Cmd} (hq : h.aq < 8) (kind code index offset : Nat) :
    queryForbidden h kind code index offset = false := by
  simp [queryForbidden, hq]

/-- Only the two words of the fabric time do anything beyond giving their value when they are read. -/
theorem afterRead_of_ne {off : Nat} {d : Dev} (h0 : off ≠ 0x02000000) (h8 : off ≠ 0x02000008) : afterRead off d = d := by
  rw [afterRead, if_neg h0, if_neg h8]

/-- A query of a register that its queue may make replies the register, and does what its read does. -/
theorem devQueryBody_register {h : Cmd} {code index offset : Nat} {c : CmdInfo} {d : Dev} (hf : queryForbidden h 2 code index offset = false) :
    devQueryBody 2 code index offset h c d = reply c h csOk 0 (regRead d offset) (afterRead offset d) := by
  simp [devQueryBody, hf]

/-- DEV_QUERY reads what its KIND names, once its fields are in range. -/
theorem exec_devQuery_of_takes {s : State} {h : Cmd} {kind code index offset : Nat} (ht : Takes s 0x0004 h false)
    (hk : kind < 3) (ho : kind = 2 → offset % 8 = 0 ∧ offset < 0x04000000) :
    exec (.devQuery h kind code index offset) s = after s (devQueryBody kind code index offset h (cmdRow 0x0004) s.dev) := by
  refine run_command_of_takes (devQueryBody kind code index offset h) ht ((firstBad_eq_none_iff _).mpr ?_)
  by_cases h2 : kind = 2
  · simp [h2, ho h2]
  · simp [h2, hk]

/-! ## Self-tests (R502 to R504) -/

/-- SELF_TEST of KIND 0 scans the lanes of a link. -/
theorem exec_selfTest_scan {s : State} {h : Cmd} {lane target base length : Nat} (ht : Takes s 0x0005 h false) :
    exec (.selfTest h 0 lane target base length) s = after s (scanBody lane target h (cmdRow 0x0005) s.dev) :=
  run_command_of_takes (fun c => scanBody lane target h c) ht rfl

/-- SELF_TEST of KIND 1 tests an engine. -/
theorem exec_selfTest_engine {s : State} {h : Cmd} {lane target base length : Nat} (ht : Takes s 0x0005 h false) :
    exec (.selfTest h 1 lane target base length) s = after s (engineTestBody target h (cmdRow 0x0005) s.dev) :=
  run_command_of_takes (fun c => engineTestBody target h c) ht rfl

/-- SELF_TEST of KIND 2 tests a range of the stacks. -/
theorem exec_selfTest_stack {s : State} {h : Cmd} {lane target base length : Nat} (ht : Takes s 0x0005 h false) :
    exec (.selfTest h 2 lane target base length) s = after s (stackTestBody base length h (cmdRow 0x0005) s.dev) :=
  run_command_of_takes (fun c => stackTestBody base length h c) ht rfl

/-- A scan of a link that is up at its full width, and that no path pins, begins. -/
theorem scanBody_of_fullWidth {lane n : Nat} {h : Cmd} {c : CmdInfo} {d : Dev} (hs : scannable d n = true) (hl : hasLane d n lane = true)
    (hu : (getPort d n).up = true) (hp : linkParked d n = false) (hn : (getPort d n).narrowSince = none)
    (hw : (getPort d n).width = linkWidth d n) (hg : pinned d (.fab n) = false) :
    scanBody lane n h c d = waitOn h c.op (.scan n lane)
      (modPort n (fun p => { p with scanLane := some lane, narrowSince := some d.now }) (layIdle n d)) := by
  simp [scanBody, hs, hl, hu, hp, hn, hw, hg]

/-- The test of an engine that no program, guaranteed share or pinned path needs begins. -/
theorem engineTestBody_of_spare {e : Nat} {h : Cmd} {c : CmdInfo} {d : Dev} (he : e < 24) (hq : (getEngine d e).mode ≠ .quiescing)
    (ht : (getEngine d e).mode ≠ .selfTest) (hp : ∀ p ∈ d.programs, p.dead = false → p.engines ≠ [e]) (hs : sharesFit d e = true)
    (hg : pinned d (.engine e) = false) :
    engineTestBody e h c d = waitOn h c.op (.engineTest e d.now) (quiesce e d) := by
  have hsole : (d.programs.any fun p => !p.dead && p.engines == [e]) = false := by
    rw [List.any_eq_false]
    intro p hm
    cases hd : p.dead with
    | true => simp
    | false => simpa using hp p hm hd
  have h24 : ¬ 23 < e := by omega
  simp [engineTestBody, h24, hq, ht, hsole, hs, hg]

/-- The test of a range that nothing claims begins. -/
theorem stackTestBody_of_unclaimed {base length : Nat} {h : Cmd} {c : CmdInfo} {d : Dev} (hb : base % 0x200000 = 0)
    (hl : length % 0x200000 = 0) (hpos : 0 < length) (hmax : length ≤ 0x4000000) (hend : base + length ≤ smemBytes)
    (hu : unclaimed d base length = true) :
    stackTestBody base length h c d = waitOn h c.op (.stackTest base length) { d with zeroing := d.zeroing ++ [(base, length)] } := by
  have hlen : ¬(length % 0x200000 ≠ 0 ∨ length = 0 ∨ 0x4000000 < length) := by omega
  rw [stackTestBody, if_neg (by omega), if_neg hlen, if_neg (by omega), hu]
  rfl

/-- The end of an engine's test puts it out of service, with an event, or back into it. -/
theorem engineDone_of_selfTest {e : Nat} {d : Dev} (hm : (getEngine d e).mode = .selfTest) (code : Nat) (failed : Bool) :
    engineDone e code failed d =
      if failed then
        engineReply e csOk code (blockError (bankEngine e) 0x0502 2 none (latch (bankEngine e) 0x0502 2 none code 0 0 (setMode e .failed d)))
      else engineReply e csOk 0 (setMode e .service d) := by
  simp [engineDone, hm]

/-- The passing of time leaves the engines alone. -/
theorem getEngine_advanceTo (e t : Nat) (d : Dev) : getEngine (advanceTo t d) e = getEngine d e := by
  unfold advanceTo
  split <;> rfl

/-- An engine that has not become idle in time goes back into service. -/
theorem quiesceTimeout_of_quiescing {e : Nat} {d : Dev} (hm : (getEngine d e).mode = .quiescing) :
    quiesceTimeout e d = engineReply e csBusy 0 (setMode e .service (advanceTo ((getEngine d e).quiesceSince + 100000) d)) := by
  simp [quiesceTimeout, hm, atExpiry_some]

end Sys2Proof.Machine

open Sys2Proof Sys2Proof.Machine

/-- Settles O37: the started command's bound is a timer, which runs or does not; a hang and a restart each have one guard, which the clause gives. -/
theorem controlCoresComplete : Obligations.ControlCoresComplete := by
  unfold Obligations.ControlCoresComplete
  refine ⟨fun s n i c ha hf hb => ?noBound, fun s n t i c ha hf hb => ?bound, fun s k ha hk hc => ?hung, fun s k ha hk hh => ?restarted⟩
  case noBound =>
    show runLevels (commandTimeout n i) s = _
    rw [runLevels_of_alive ha, commandTimeout_of_started hf, hb, atExpiry_none]
  case bound =>
    show runLevels (commandTimeout n i) s = _
    rw [runLevels_of_alive ha, commandTimeout_of_started hf, hb, atExpiry_some]
  case hung =>
    show runLevels (coreHung k) s = _
    have hruns : (!(decide (k < 6) && s.dev.cores.getLsbD k)) = false := by simp [hk, hc]
    rw [runLevels_of_alive ha, coreHung, hruns]
    rfl
  case restarted =>
    show runLevels (coreRestarted k) s = _
    rw [runLevels_of_alive ha, coreRestarted, if_pos ⟨hk, hh⟩]

/-- Settles O38: each clause's conditions are the guards of the row's own rule, past the checks of every command. -/
theorem deviceCommandsComplete : Obligations.DeviceCommandsComplete := by
  unfold Obligations.DeviceCommandsComplete
  have hop : (cmdRow 0x0005).op = 0x0005 := cmdRow_op _ rfl
  refine ⟨fun s h r e ht hr he => ?mode, fun s h code index ht hq => ⟨?ident, ?counter⟩, fun s h code index off ht hq h8 hlt hne hne8 => ?register,
    fun s ha => ?time, fun s h lane n base length ht hs hl hu hp hn hw hg => ?scan, fun s h lane e base length ht he hq hm hp hs hg => ?engine,
    fun s h lane target base length ht hb hl hpos hmax hend hu => ?stack, fun s e code b ha hm => ⟨?failed, ?passed⟩, fun s e ha hm => ?quiesce⟩
  case mode =>
    exact runLevels_command_of_takes (devModeSetBody r e h) ht (by simp [firstBad_eq_none_iff, hr, he])
  case ident =>
    rw [exec_devQuery_of_takes ht (by decide) (by simp), devQueryBody, queryForbidden_of_deviceQueue hq]
    rfl
  case counter =>
    rw [exec_devQuery_of_takes ht (by decide) (by simp), devQueryBody, queryForbidden_of_deviceQueue hq]
    rfl
  case register =>
    rw [exec_devQuery_of_takes ht (by decide) fun _ => ⟨h8, hlt⟩, devQueryBody_register (queryForbidden_of_deviceQueue hq _ _ _ _),
      afterRead_of_ne hne hne8]
  case time =>
    show execSchTimeNsRead s = _
    rw [execSchTimeNsRead, run_of_alive ha]
    rfl
  case scan =>
    rw [exec_selfTest_scan ht, scanBody_of_fullWidth hs hl hu hp hn hw hg, hop]
    rfl
  case engine => rw [exec_selfTest_engine ht, engineTestBody_of_spare he hq hm hp hs hg, hop]
  case stack => rw [exec_selfTest_stack ht, stackTestBody_of_unclaimed hb hl hpos hmax hend hu, hop]
  case failed =>
    show runLevels (engineDone e code true) s = _
    rw [runLevels_of_alive ha, engineDone_of_selfTest hm]
    rfl
  case passed =>
    show runLevels (engineDone e code false) s = _
    rw [runLevels_of_alive ha, engineDone_of_selfTest hm]
    rfl
  case quiesce =>
    show runLevels (quiesceTimeout e) s = _
    rw [runLevels_of_alive ha, quiesceTimeout_of_quiescing hm, setMode, getEngine_advanceTo]

end

section
/-!
PROOF. Resets, power, clocks and temperature (11, 15, 16, 17): what each step of the power-on, reset and loss sequences does once its
guard is met.
-/
namespace Sys2Proof.Machine

/-! ## Boot and PERST# (R449, R450, R497, R498, R523) -/

/-- Once PERST# is high the configuration image is applied and the ports begin to train. -/
theorem configure_of_perst_high {s : State} (hp : s.ao.perst = false) :
    configure s = { s with
      ao := { s.ao with phase := .booting }
      dev := startTraining (applyImage (bankAt s.ao s.ao.bank).cfg s.dev) } := by
  simp [configure, hp]

/-- The reset sequence that ends starts the control cores and raises the minimum SVNs. -/
theorem sequenceDone_of_booting {s : State} (h : s.ao.phase = .booting) :
    sequenceDone s = { s with
      ao := { s.ao with phase := .running, minSvn := raiseSvn s.ao.minSvn (bankAt s.ao s.ao.bank) }
      dev := { s.dev with
        ready := true
        cores := 0x3F
        sec := { s.dev.sec with measures := s.dev.sec.measures.take 6 ++ raiseSvn s.ao.minSvn (bankAt s.ao s.ao.bank) } } } := by
  simp [sequenceDone, h]

/-- The rise of PERST# ends a wait for it: with the boot where none has been, else with the configuration. -/
theorem perstDeassert_of_perstHeld {s : State} (h : s.ao.phase = .perstHeld) :
    perstDeassert s =
      if s.ao.booted then configure { s with ao := { s.ao with perst := false } } else boot { s with ao := { s.ao with perst := false } } := by
  simp [perstDeassert, h]

/-- A bank that passes is taken by the recovery responder, and booted. -/
theorem recoveryWrite_of_passes {s : State} {n : Nat} {image : BankImage} (h : s.ao.phase = .recovery) (ht : s.dev.sec.selftestOk = true)
    (hn : n < 2) (hp : bankPasses s.ao.minSvn image = true) :
    recoveryWrite n image s =
      boot (onDev (emit (.mctp "RECOVERY_BANK accepted" [n])) { s with ao := { s.ao with banks := s.ao.banks.set n image } }) := by
  simp [recoveryWrite, h, ht, hn, hp]

/-! ## Management-plane and transit-only reset (R21, R273, R496, R499) -/

/-- A transit-only reset begins where no slice is there and none is under way. -/
theorem transitOnlyReset_of_no_slice {d : Dev} (hr : d.transitReset = false) (hs : ∀ p ∈ d.slices, p.2.st = .free) :
    transitOnlyReset d = startAll (dropFabric (supersedeRetrains { d with transitReset := true })) := by
  have hfree : (d.slices.any fun p => p.2.st != .free) = false := by
    rw [List.any_eq_false]
    intro p hp
    simp [hs p hp]
  simp [transitOnlyReset, hr, hfree]

/-- One that is under way is not started again. -/
theorem transitOnlyReset_of_under_way {d : Dev} (hr : d.transitReset = true) : transitOnlyReset d = bump 0x35 0 d := by
  simp [transitOnlyReset, hr]

/-! ## Loss of power (R522, R525, R531) -/

/-- The first cause takes the adapter from power to the state of R522. -/
theorem enterLoss_of_powered {s : State} (hh : s.ao.phase ≠ .held) (hl : s.ao.phase ≠ .powerLoss) (cause : String) (args : List Nat) :
    enterLoss cause args s = { s with
      ao := { s.ao with phase := .powerLoss, booted := false, causes := s.ao.causes ++ [cause] }
      dev := emit (.mctp cause args) { powerLost s.dev with grade := s.dev.grade } } := by
  rw [enterLoss, if_neg hh, if_neg hl]

/-- The trip point of the logic die, or of a DRAM die, asserts THERM_TRIP# and enters the state of R522. -/
theorem thermTripAt_of_hot {s : State} {t : Nat} {dram : List Nat} (hh : s.ao.phase ≠ .held) (ht : s.ao.thermTrip = false)
    (hot : tripPoint s.dev ≤ t ∨ ∃ x ∈ dram, 105 < x) :
    thermTripAt t dram s = enterLoss "THERM_TRIP" (t :: dram)
      { s with ao := { s.ao with thermTrip := true }, dev := emit (.pin "THERM_TRIP#" false) s.dev } := by
  have hcool : ¬(t < tripPoint s.dev ∧ dram.all (fun d => decide (d ≤ 105)) = true) := by
    rintro ⟨hlt, hall⟩
    rcases hot with hle | ⟨x, hx, hgt⟩
    · omega
    · have : x ≤ 105 := by simpa using List.all_eq_true.mp hall x hx
      omega
  rw [thermTripAt, if_neg (by simp only [hh, hcool, or_self, not_false_eq_true]), ht]
  rfl

/-- The alert point asserts THERM_ALERT#. -/
theorem thermAlertAt_of_hot {s : State} {t : Nat} (hh : s.ao.phase ≠ .held) (ha : s.ao.thermAlert = false) (hot : alertPoint s.dev ≤ t) :
    thermAlertAt t s = { s with
      ao := { s.ao with thermAlert := true }
      dev := emit (.mctp "THERM_ALERT" [t]) (emit (.pin "THERM_ALERT#" false) s.dev) } := by
  simp [thermAlertAt, hh, ha, hot]

/-! ## Reference clocks (R525) -/

/-- A clock that stops while the adapter runs takes its ports down. -/
theorem refclkStops_of_alive {s : State} {acc : Bool} {g : Nat} (ha : alive s.ao = true) (hn : refclkNamed acc g = true)
    (hl : s.dev.refLost.contains (acc, g) = false) :
    refclkStops acc g s = { s with dev := settleAll (startTriggered (refclkLoss acc g s.dev)) } := by
  rw [refclkStops, hn, hl, ha]
  rfl

/-- Ports that train leave the list of stopped clocks alone. -/
theorem trainNamed_refLost (l : List Nat) (d : Dev) :
    (l.foldl (fun d n => if portNamed d n then modPort n (fun p => { p with training := true }) d else d) d).refLost = d.refLost := by
  induction l generalizing d with
  | nil => rfl
  | cons n r ih =>
    rw [List.foldl_cons, ih]
    split <;> rfl

/-- A clock that is restored is no longer a stopped one. -/
theorem refclkBack_refLost {s : State} {acc : Bool} {g : Nat} (ha : alive s.ao = true) (hl : s.dev.refLost.contains (acc, g) = true) :
    ∃ d, refclkBack acc g s = { s with dev := d } ∧ d.refLost = s.dev.refLost.filter fun x => !(x == (acc, g)) := by
  rw [refclkBack, hl]
  refine ⟨_, rfl, ?_⟩
  simp only [ha, if_true]
  exact trainNamed_refLost _ _

end Sys2Proof.Machine

open Sys2Proof Sys2Proof.Machine

/-- Settles O48: each clause's conditions are the guards of one step of the sequence, and the step's effect is the clause's next state. -/
theorem resetsComplete : Obligations.ResetsComplete := by
  unfold Obligations.ResetsComplete
  refine ⟨fun s high a b hh => ?powerOn, fun s hb => ?sequenceDone, fun s ha => ?perstAssert, fun s hp => ⟨fun hb => ?firstBoot, fun hb => ?booted⟩,
    fun s n image hr ht hn hp => ?recovery, fun s ha hm => ⟨?mgmtReset, ?watchdog⟩, fun s ha hm => ⟨?mgmtAgain, ?mgmtDone⟩,
    fun s ha hr hs => ?transit, fun s ha hr => ⟨?transitAgain, ?transitDone⟩, fun s ht hl => ?porFall, fun s rail hh hl => ⟨?rail, ?sysclk⟩,
    fun s acc g ha hn => ⟨fun hl => ?clockLoss, fun hl => ?clockBack⟩, fun s t hh ha hot => ?alert, fun s t dram hh hl ht hot => ?trip,
    fun s r hh => ?sensors⟩
  case powerOn =>
    show runAo (powerOn high true a b) s = _
    rw [runAo, powerOn, if_neg (not_not_intro hh)]
    rfl
  case sequenceDone =>
    show ∃ d, runAo sequenceDone s = _ ∧ _
    rw [runAo, sequenceDone_of_booting hb]
    exact ⟨_, rfl, rfl, rfl, rfl⟩
  case perstAssert =>
    show runAo perstAssert s = _
    rw [runAo, perstAssert, if_pos ha]
  case firstBoot =>
    show runAo perstDeassert s = _
    rw [runAo, perstDeassert_of_perstHeld hp, hb]
    rfl
  case booted =>
    show runAo perstDeassert s = _
    rw [runAo, perstDeassert_of_perstHeld hp, if_pos hb, configure_of_perst_high rfl]
    rfl
  case recovery =>
    show runAo (recoveryWrite n image) s = _
    rw [runAo, recoveryWrite_of_passes hr ht hn hp]
    rfl
  case mgmtReset =>
    show run mgmtReset s = _
    rw [run_of_alive ha, mgmtReset, if_neg (Bool.eq_false_iff.mp hm)]
  case watchdog =>
    show execMgmtWatchdogExpiry s = _
    rw [execMgmtWatchdogExpiry, runLevels_of_alive ha, if_neg (Bool.eq_false_iff.mp hm)]
  case mgmtAgain =>
    show run mgmtReset s = _
    rw [run_of_alive ha, mgmtReset, if_pos hm]
  case mgmtDone =>
    show runRetire mgmtResetDone s = _
    rw [runRetire_of_alive ha, mgmtResetDone, if_pos hm]
  case transit =>
    show runLevels transitOnlyReset s = _
    rw [runLevels_of_alive ha, transitOnlyReset_of_no_slice hr hs]
  case transitAgain =>
    show runLevels transitOnlyReset s = _
    rw [runLevels_of_alive ha, transitOnlyReset_of_under_way hr]
  case transitDone =>
    show execTransitOnlyResetDone s = _
    rw [execTransitOnlyResetDone, run_of_alive ha, if_pos hr]
  case porFall =>
    show runAo porFall s = _
    rw [runAo, porFall, ht, hl]
    rfl
  case rail =>
    show runAo (enterLoss "RAIL_FAULT" [rail]) s = _
    rw [runAo, enterLoss_of_powered hh hl]
  case sysclk =>
    show runAo (enterLoss "SYSCLK_LOSS" []) s = _
    rw [runAo, enterLoss_of_powered hh hl]
  case clockLoss =>
    show runAo (refclkStops acc g) s = _
    rw [runAo, refclkStops_of_alive ha hn hl]
    rfl
  case clockBack =>
    obtain ⟨d, hd, hlost⟩ := refclkBack_refLost ha hl
    exact ⟨d, congrArg Host.Outcome.next hd, hlost⟩
  case alert =>
    show runAo (thermAlertAt t) s = _
    rw [runAo, thermAlertAt_of_hot hh ha hot]
  case trip =>
    show runAo (thermTripAt t dram) s = _
    rw [runAo, thermTripAt_of_hot hh ht hot, enterLoss_of_powered (by exact hh) (by exact hl)]
    rfl
  case sensors =>
    show runAo (sensorReport r) s = _
    rw [runAo, sensorReport, if_neg hh]
    rfl

end

section
/-!
PROOF. Rings and completion queues (02): the index of a ring across its wrap, and the commands on completion queues.
-/
namespace Sys2Proof.Machine

/-! ## Indices of a ring across its wrap (R28 to R30) -/

/-- An index moved on is read modulo 2^32. -/
theorem toNat_add_u32 (i : U32) (k : Nat) : (i + u32 k).toNat = (i.toNat + k) % 2 ^ 32 := by
  simp [u32, BitVec.toNat_add]

/-- The wrap of the index at 2^32 leaves the bits below it, so the phase of an index moved on is a bit of the sum. -/
theorem phaseOf_add_u32 (i : U32) (k : Nat) {lg : Nat} (h : lg < 32) : phaseOf (i + u32 k) lg = (i.toNat + k).testBit lg := by
  rw [phaseOf, toNat_add_u32, Nat.testBit_mod_two_pow, decide_eq_true h, Bool.true_and]

/-- A ring's size divides 2^32, so the slot of an index moved on does not see the wrap. -/
theorem slot_add_u32 (i : U32) (k : Nat) {lg : Nat} (h : lg < 32) : (i + u32 k).toNat % 2 ^ lg = (i.toNat + k) % 2 ^ lg := by
  rw [toNat_add_u32, Nat.mod_mod_of_dvd _ (Nat.pow_dvd_pow 2 h.le)]

/-! ## Commands on completion queues (R67, R482, R533, R538) -/

/-- A stall timeout in R67's range is one that the check lets through. -/
theorem stallOk_of_range {v : Nat} (h : v = 0 ∨ (1000 ≤ v ∧ v ≤ 10000000)) : stallOk v = true := by
  simpa [stallOk] using h

/-- CQ_CREATE of a number that is free, with a ring that is the slice's and room in its quota, makes a new queue. -/
theorem cqCreateBody_of_free {cqn stall : Nat} {r : RingP} {h : Cmd} {c : CmdInfo} {d : Dev} (hf : tget d.cqs cqn = none)
    (hr : ringStatus d h.slice r.space r.base r.lg 32 = csOk) (hq : quotaFull d h.slice 1 = false) :
    cqCreateBody cqn r stall h c d = ok c h (setCq cqn (newCq h.slice r stall) d) := by
  simp [cqCreateBody, hf, hr, hq]

/-- R538's two ways to name a completion queue. -/
theorem cqNamed_eq_true_iff (d : Dev) (cqn : Nat) : cqNamed d cqn = true ↔
    (∃ n q, (n, q) ∈ d.qps ∧ (q.p.scqn = cqn ∨ q.p.rcqn = cqn)) ∨ ∃ n t, (n, t) ∈ d.triggers ∧ t.p.kind = 1 ∧ t.p.source = cqn := by
  simp only [cqNamed, Bool.or_eq_true, List.any_eq_true, Bool.and_eq_true, beq_iff_eq, Prod.exists]

/-- CQ_DESTROY of a queue of its own slice reaches its rule. -/
theorem exec_cqDestroy_of_takes {s : State} {h : Cmd} {cqn : Nat} {x : Cq} (ht : TakesCq s 0x010A h cqn x) :
    exec (.cqDestroy h cqn) s = after s (settleAll (startTriggered (cqDestroyBody cqn h (cmdRow 0x010A) x s.dev))) := by
  obtain ⟨⟨ha, hc⟩, hn, hx, hs⟩ := ht
  have hgood : firstBad [(8, decide (cqn < 2 ^ 18))] = none := by simpa [firstBad_eq_none_iff] using hn
  show runRetire (cqDestroyEffect h cqn) s = _
  rw [runRetire_of_alive ha, cqDestroyEffect, command_of_good _ hc hgood, onCq_of_own _ hx hs]

end Sys2Proof.Machine

open Sys2Proof Sys2Proof.Machine

/-- Settles O59: adding the ring's size flips the bit that is the phase and no lower one, and within a lap that bit's quotient stays. -/
theorem lapsCarryTheOtherPhase : Obligations.LapsCarryTheOtherPhase := by
  unfold Obligations.LapsCarryTheOtherPhase
  refine ⟨fun i lg h => ?flips, fun i lg h => ?sameSlot, fun i lg k h hk => ?stays⟩
  case flips => rw [phaseOf_add_u32 i _ h, Nat.add_comm, Nat.testBit_two_pow_add_eq, phaseOf]
  case sameSlot => rw [slot_add_u32 i _ h, Nat.add_mod_right]
  case stays =>
    have hlt : k < 2 ^ lg := by omega
    have hquot : (i.toNat + k) / 2 ^ lg = i.toNat / 2 ^ lg := by
      rw [Nat.add_div_eq_of_add_mod_lt (by rwa [Nat.mod_eq_of_lt hlt]), Nat.div_eq_of_lt hlt, Nat.add_zero]
    rw [phaseOf_add_u32 i _ h, phaseOf, Nat.testBit_eq_decide_div_mod_eq, Nat.testBit_eq_decide_div_mod_eq, hquot]

/-- Settles O2: each clause's conditions are the guards of the row's own rule, past the checks of every command. -/
theorem completionQueueCommandsComplete : Obligations.CompletionQueueCommandsComplete := by
  unfold Obligations.CompletionQueueCommandsComplete
  refine ⟨fun s h cqn stall r ht hn hf hsp hlo hhi hst hr hq => ?create, fun s h cqn stall x ht hst => ?modify, fun s h cqn x ht => ?query⟩
  case create =>
    have hgood : firstBad [(8, decide (cqn < 2 ^ 18)), (12, spaceOk r.space), (24, decide (4 ≤ r.lg ∧ r.lg ≤ 20)),
        (32, stallOk stall)] = none := by
      simpa [firstBad_eq_none_iff, hsp, hlo, hhi, stallOk_of_range hst] using hn
    show runLevels (cqCreateEffect h cqn r stall) s = _
    rw [cqCreateEffect, runLevels_command_of_takes _ ht hgood, cqCreateBody_of_free hf hr hq]
    rfl
  case modify =>
    obtain ⟨ht, hn, hx, hs⟩ := ht
    have hgood : firstBad [(8, decide (cqn < 2 ^ 18)), (12, stallOk stall)] = none := by
      simpa [firstBad_eq_none_iff, stallOk_of_range hst] using hn
    show run (cqModifyEffect h cqn stall) s = _
    rw [cqModifyEffect, run_command_of_takes _ ht hgood, onCq_of_own _ hx hs]
    rfl
  case query =>
    obtain ⟨ht, hn, hx, hs⟩ := ht
    have hgood : firstBad [(8, decide (cqn < 2 ^ 18))] = none := by simpa [firstBad_eq_none_iff] using hn
    show run (cqQueryEffect h cqn) s = _
    rw [cqQueryEffect, run_command_of_takes _ ht hgood, onCq_of_own _ hx hs]
    rfl

/-- Settles O3: the rule's one test is whether the queue is named, which the two clauses answer. -/
theorem cqDestroyFollowsR538 : Obligations.CqDestroyFollowsR538 := by
  unfold Obligations.CqDestroyFollowsR538
  refine fun s h cqn x ht => ⟨fun hnamed => ?busy, fun hqps htrigs => ?freed⟩
  case busy =>
    rw [exec_cqDestroy_of_takes ht, cqDestroyBody, if_pos ((cqNamed_eq_true_iff _ _).mpr hnamed)]
    rfl
  case freed =>
    have hfree : ¬ cqNamed s.dev cqn = true := by
      rw [cqNamed_eq_true_iff]
      rintro (⟨n, q, hm, hq⟩ | ⟨n, t, hm, hk, hs⟩)
      · obtain ⟨hscq, hrcq⟩ := hqps n q hm
        exact hq.elim hscq hrcq
      · exact htrigs n t hm hk hs
    rw [exec_cqDestroy_of_takes ht, cqDestroyBody, if_neg hfree]
    rfl

end

section
/-!
PROOF. Doorbells and push pages (02): how R40 reads an index, what CQ_CONSUMED and CQ_ARM do, and the record of a push page with its
trigger.
-/
namespace Sys2Proof.Machine

/-! ## Doorbell words (R38 to R42, R52, R63, R64) -/

/-- A doorbell word at a page that takes it acts by its TYPE. -/
theorem doorbellWord_of_taken {port slice : Nat} {w : U64} {d : Dev} (hd : dataOn d = true) (ht : takesDoorbells d port slice = true) :
    doorbellWord port slice w d = takeWord slice w d := by
  rw [doorbellWord, hd, if_pos ht]
  rfl

/-- A command whose whole effect is a doorbell word that is taken. -/
theorem runRetire_doorbellWord {s : State} {port slice : Nat} {w : U64} (hc : Carries s) (ht : takesDoorbells s.dev port slice = true) :
    runRetire (doorbellWord port slice w) s = after s (settleAll (startTriggered (takeWord slice w s.dev))) := by
  obtain ⟨ha, hd⟩ := hc
  rw [runRetire_of_alive ha, doorbellWord_of_taken hd ht]

/-- TYPE 0 and 1 ring a send queue and a receive queue. -/
theorem takeWord_work {slice : Nat} {w : U64} (ht : dbType w < 2) (hr : dbRsvd w = false) (d : Dev) :
    takeWord slice w d = workDoorbell slice w d := by
  rw [takeWord, hr, if_neg (by simp only [Bool.false_eq_true, or_false]; omega), if_neg (by omega), if_neg (by omega)]

/-- TYPE 2 is CQ_CONSUMED. -/
theorem takeWord_consumed {slice : Nat} {w : U64} (ht : dbType w = 2) (hr : dbRsvd w = false) (d : Dev) :
    takeWord slice w d = consumedDoorbell slice w d := by
  rw [takeWord, hr, if_neg (by simp only [Bool.false_eq_true, or_false]; omega), if_pos ht]

/-- TYPE 3 is CQ_ARM. -/
theorem takeWord_arm {slice : Nat} {w : U64} (ht : dbType w = 3) (hr : dbRsvd w = false) (d : Dev) :
    takeWord slice w d = armDoorbell slice w d := by
  rw [takeWord, hr, if_neg (by simp only [Bool.false_eq_true, or_false]; omega), if_neg (by omega), if_pos ht]

/-- A doorbell of a queue pair of its own slice, not in RESET, goes by R40's reading of its index. -/
theorem workDoorbell_of_own {slice : Nat} {w : U64} {q : Qp} {d : Dev} (hq : getQp d (dbQn w) = some q) (hs : q.slice = slice)
    (hr : q.st ≠ .reset) :
    workDoorbell slice w d =
      let r := (wq q (dbType w == 1)).ring
      let c := checkIndex (dbIndex w) r.prod r.cons (2 ^ r.lg)
      if c = .tooFar then badDoorbell slice w d else ringQueue (dbQn w) (dbType w == 1) (dbInv w) (dbIndex w) c q d := by
  simp only [workDoorbell, hq, hs, ne_eq, not_true_eq_false, if_false, hr]
  cases checkIndex _ _ _ _ <;> rfl

/-- A forward index becomes the producer index, and the queue goes on. -/
theorem ringQueue_forward (qpn : Nat) (rq inv : Bool) (t : U32) (q : Qp) (d : Dev) :
    ringQueue qpn rq inv t .forward q d =
      let w := if inv then dropCached (wq q rq) (firstUnstarted q rq) else wq q rq
      (if q.st = .error then flushQp qpn else fetchQueue qpn rq)
        (setQp qpn (setWq q rq (resumeQueue (notePosted d { w with ring := { w.ring with prod := t } })))
          (if inv then addStale qpn rq q (countPost d) else countPost d)) := by
  rw [ite_apply]
  rfl

/-- The index that stands moves nothing, and the queue goes on. -/
theorem ringQueue_same (qpn : Nat) (rq inv : Bool) (t : U32) (q : Qp) (d : Dev) :
    ringQueue qpn rq inv t .same q d =
      (if q.st = .error then flushQp qpn else fetchQueue qpn rq)
        (setQp qpn (setWq q rq (resumeQueue (if inv then dropCached (wq q rq) (firstUnstarted q rq) else wq q rq)))
          (if inv then addStale qpn rq q d else d)) := by
  rw [ite_apply]
  rfl

/-- An index behind is counted, and the queue goes on. -/
theorem ringQueue_stale (qpn : Nat) (rq inv : Bool) (t : U32) (q : Qp) (d : Dev) :
    ringQueue qpn rq inv t .stale q d = ringQueue qpn rq inv t .same q (bump 0x06 q.slice d) := rfl

section
variable {slice : Nat} {w : U64} {x : Cq} {d : Dev} (hx : tget d.cqs (dbQn w) = some x) (hs : x.slice = slice) (he : x.error = false)
include hx hs he

/-- CQ_CONSUMED beyond the producer index is a bad doorbell. -/
theorem consumedDoorbell_tooFar (hc : checkIndex (dbIndex w) x.ring.cons x.ring.cons (ringUsed x.ring) = .tooFar) :
    consumedDoorbell slice w d = badDoorbell slice w d := by
  simp only [consumedDoorbell, hx, hs, ne_eq, not_true_eq_false, if_false, he, Bool.false_eq_true, hc]

/-- CQ_CONSUMED behind the consumer index is counted. -/
theorem consumedDoorbell_stale (hc : checkIndex (dbIndex w) x.ring.cons x.ring.cons (ringUsed x.ring) = .stale) :
    consumedDoorbell slice w d = bump 0x06 slice d := by
  simp only [consumedDoorbell, hx, hs, ne_eq, not_true_eq_false, if_false, he, Bool.false_eq_true, hc]

/-- CQ_CONSUMED moves the consumer index forward, and what waited for the room goes on. -/
theorem consumedDoorbell_forward (hc : checkIndex (dbIndex w) x.ring.cons x.ring.cons (ringUsed x.ring) = .forward) :
    consumedDoorbell slice w d =
      feedersGo (dbQn w) (pumpCq (dbQn w) (compareMarks (setCq (dbQn w) { x with
        ring := { x.ring with cons := dbIndex w }
        stallSince := x.stallSince.map fun _ => d.now
        writtenAt := x.writtenAt.drop (dbIndex w - x.ring.cons).toNat } d))) := by
  simp only [consumedDoorbell, hx, hs, ne_eq, not_true_eq_false, if_false, he, Bool.false_eq_true, hc]
  rfl

/-- CQ_ARM of a queue of its own slice that is not in ERROR notifies at once or arms. -/
theorem armDoorbell_of_own :
    armDoorbell slice w d =
      if seqLt (dbIndex w) x.ring.prod then
        sliceEvent slice 0x1 0 bankCore (dbQn w) (dbIndex w).toNat 0 (setCq (dbQn w) { x with armed := none } d)
      else setCq (dbQn w) { x with armed := some (dbIndex w) } d := by
  simp only [armDoorbell, hx, hs, ne_eq, not_true_eq_false, if_false, he, Bool.false_eq_true]

end

/-! ## Push pages (R43 to R48) -/

/-- The little-endian bytes of a value give it back, as far as they reach. -/
theorem leNat_natLe (v k : Nat) : leNat (natLe v k) = v % 256 ^ k := by
  induction k generalizing v with
  | zero => simp [natLe, leNat, Nat.mod_one]
  | succ k ih => rw [natLe, leNat, ih, Nat.pow_succ', Nat.mod_mul, BitVec.toNat_ofNat]

theorem natLe_length (v k : Nat) : (natLe v k).length = k := by
  induction k generalizing v with
  | zero => rfl
  | succ k ih => rw [natLe, List.length_cons, ih]

/-- The eight bytes of a doorbell word are that word. -/
theorem word_of_natLe (w : U64) : BitVec.ofNat 64 (leNat (natLe w.toNat 8)) = w := by
  rw [leNat_natLe, Nat.mod_eq_of_lt (by exact w.isLt), BitVec.ofNat_toNat, BitVec.setWidth_eq]

/-- The record of a page after a run of bytes from an offset upwards. -/
def recordRun (p : PushPage) (off : Nat) : List Byte → PushPage
  | [] => p
  | b :: r => recordRun (tset p off b) (off + 1) r

/-- A run of bytes recorded in one pass over the numbered bytes. -/
theorem foldl_zipIdx_eq_recordRun (l : List Byte) (p : PushPage) (base n : Nat) :
    (l.zipIdx n).foldl (fun p b => tset p (base + b.2) b.1) p = recordRun p (base + n) l := by
  induction l generalizing p n with
  | nil => rfl
  | cons b r ih => rw [List.zipIdx_cons, List.foldl_cons, ih]; rfl

/-- A run leaves what lies below it. -/
theorem tget_recordRun_of_lt (l : List Byte) (p : PushPage) {off i : Nat} (h : i < off) : tget (recordRun p off l) i = tget p i := by
  induction l generalizing p off with
  | nil => rfl
  | cons b r ih => rw [recordRun, ih _ (by omega), tget_tset_ne _ _ (by omega)]

/-- A run of bytes is written where its first byte is, and the rest. -/
theorem writtenRun_succ (p : PushPage) (a n : Nat) :
    writtenRun p a (n + 1) = (tget p a).bind fun b => (writtenRun p (a + 1) n).map (b :: ·) := by
  simp only [writtenRun, List.range_succ_eq_map, List.foldr_cons, List.foldr_map, Nat.add_zero, Nat.succ_eq_add_one,
    Nat.add_assoc, Nat.add_comm 1]
  cases tget p a with
  | none => rfl
  | some b =>
    generalize List.foldr _ _ _ = r
    cases r <;> rfl

/-- What a run recorded is written. -/
theorem writtenRun_recordRun (l : List Byte) (p : PushPage) (off : Nat) : writtenRun (recordRun p off l) off l.length = some l := by
  induction l generalizing p off with
  | nil => rfl
  | cons b r ih =>
    rw [List.length_cons, writtenRun_succ, recordRun, ih, tget_recordRun_of_lt _ _ (Nat.lt_succ_self off), tget_tset_self]
    rfl

/-- A run in which one byte is missing is not written. -/
theorem writtenRun_of_missing {p : PushPage} {a n i : Nat} (hlo : a ≤ i) (hhi : i < a + n) (hm : tget p i = none) :
    writtenRun p a n = none := by
  induction n generalizing a with
  | zero => omega
  | succ n ih =>
    rw [writtenRun_succ]
    rcases Nat.eq_or_lt_of_le hlo with rfl | hlt
    · rw [hm]; rfl
    · rw [ih (by omega) (by omega)]
      cases tget p a <;> rfl

/-- The adapter with the record of a page set. -/
def recorded (k : Nat) (p : PushPage) (d : Dev) : Dev := { d with pushPages := tset d.pushPages k p }

theorem pushBytes_recorded (k : Nat) (p : PushPage) (d : Dev) : pushBytes (recorded k p d) k = p := tgetD_tset_self _ _ _ _

/-- Only between the entry and the doorbell word does a byte that was not zero stay on record. -/
theorem recordByte_of_outside {p : PushPage} {off : Nat} (b : Byte) (h : ¬(0x40 ≤ off ∧ off < 0x78)) :
    recordByte p off b = tset p off b :=
  if_neg fun ⟨hlo, hhi, _⟩ => h ⟨hlo, hhi⟩

/-- A byte that the page stores outside the doorbell word is recorded. -/
theorem pushByte_of_outsideWord {slice k off : Nat} (b : Byte) (d : Dev) (hoff : off < 0x78 ∨ (0x100 ≤ off ∧ off < 0x200)) :
    pushByte slice k off b d = recorded k (recordByte (pushBytes d k) off b) d := by
  have hstored : off < 0x80 ∨ (0x100 ≤ off ∧ off < 0x200) := by omega
  have hword : ¬(0x78 ≤ off ∧ off < 0x80) := by omega
  simp only [pushByte, if_pos hstored, if_neg hword, recorded]

/-- A byte of the doorbell word is recorded, and triggers the page where every byte of the word is then on record. -/
theorem pushByte_of_word {slice k off : Nat} {run : Option (List Byte)} (b : Byte) (d : Dev) (hlo : 0x78 ≤ off) (hhi : off < 0x80)
    (hrun : writtenRun (tset (pushBytes d k) off b) 0x78 8 = run) :
    pushByte slice k off b d = (run.elim id fun l => triggerPush slice k (BitVec.ofNat 64 (leNat l)))
      (recorded k (tset (pushBytes d k) off b) d) := by
  have hout : ¬(0x40 ≤ off ∧ off < 0x78) := by omega
  simp only [pushByte, if_pos (Or.inl hhi), if_pos (And.intro hlo hhi), recordByte_of_outside b hout, hrun]
  cases run <;> rfl

/-- A trigger clears the record, so that of it only the last state counts. -/
theorem triggerPush_recorded_twice (slice k : Nat) (w : U64) (p p' : PushPage) (d : Dev) :
    triggerPush slice k w (recorded k p' (recorded k p d)) = triggerPush slice k w (recorded k p' d) := by
  simp only [triggerPush, pushBytes_recorded]
  simp only [recorded, tdel_tset]

/-- A run of bytes up to the end of the doorbell word, whose last byte was missing, triggers the page once, with its last byte. -/
theorem pushAll_word {slice k off : Nat} {l ws : List Byte} {d : Dev} (hne : l ≠ []) (hlo : 0x78 ≤ off) (hend : off + l.length = 0x80)
    (hm : tget (pushBytes d k) 0x7F = none) (hw : writtenRun (recordRun (pushBytes d k) off l) 0x78 8 = some ws) :
    pushAll slice k off l d =
      triggerPush slice k (BitVec.ofNat 64 (leNat ws)) (recorded k (recordRun (pushBytes d k) off l) d) := by
  induction l generalizing off d with
  | nil => exact absurd rfl hne
  | cons b r ih =>
    rw [List.length_cons] at hend
    cases r with
    | nil => exact pushByte_of_word b d hlo (by omega) hw
    | cons c r =>
      rw [List.length_cons] at hend
      have hm' : tget (tset (pushBytes d k) off b) 0x7F = none := by rw [tget_tset_ne _ _ (by omega), hm]
      have hpart : pushByte slice k off b d = recorded k (tset (pushBytes d k) off b) d :=
        pushByte_of_word b d hlo (by omega) (writtenRun_of_missing (by decide) (by decide) hm')
      rw [pushAll, hpart, ih (List.cons_ne_nil _ _) (by omega) (by rw [List.length_cons]; omega) (by rwa [pushBytes_recorded])
        (by rwa [pushBytes_recorded]), pushBytes_recorded, triggerPush_recorded_twice]
      rfl

/-- A write to a push page that takes it records its bytes. -/
theorem pushWrite_of_taken {port slice page off : Nat} {l : List Byte} {d : Dev} (hd : dataOn d = true)
    (ht : takesDoorbells d port slice = true) (h1 : 1 ≤ page) (h15 : page ≤ 15) :
    pushWrite port slice page off l d = pushAll slice (pushKey port slice page) off l d := by
  have hpage : ¬(page = 0 ∨ 15 < page) := by omega
  simp [pushWrite, hd, hpage, ht]

/-- PUSH_PAGE_WRITE of one byte of a page that takes it. -/
theorem exec_pushPageWrite_byte {s : State} {port slice page off : Nat} (b : Byte) (hc : Carries s)
    (ht : takesDoorbells s.dev port slice = true) (hs : slice < 512) (h1 : 1 ≤ page) (h15 : page ≤ 15) (hoff : off < 0x1000) :
    exec (.pushPageWrite port slice page off [b]) s =
      after s (settleAll (startTriggered (pushByte slice (pushKey port slice page) off b s.dev))) := by
  obtain ⟨ha, hd⟩ := hc
  show execPushPageWrite port slice page off [b] s = _
  rw [execPushPageWrite, runRetire_of_alive ha, if_neg (by omega), apertureWrite_byte b _ hs h1 h15 hoff, pushWrite_of_taken hd ht h1 h15,
    pushAll, pushAll]

end Sys2Proof.Machine

open Sys2Proof Sys2Proof.Machine

/-- Settles O4: the four clauses are the four readings that R40's check gives an index. -/
theorem doorbellFollowsR40 : Obligations.DoorbellFollowsR40 := by
  unfold Obligations.DoorbellFollowsR40
  intro s port slice w q hc ht hty hrs hq hs hst rq r ahead fwd w0 given
  have hexec : exec (.doorbell port slice w true) s = after s (settleAll (startTriggered (
      if checkIndex (dbIndex w) r.prod r.cons (2 ^ r.lg) = .tooFar then badDoorbell slice w s.dev
      else ringQueue (dbQn w) rq (dbInv w) (dbIndex w) (checkIndex (dbIndex w) r.prod r.cons (2 ^ r.lg)) q s.dev))) := by
    show runRetire (doorbellWord port slice w) s = _
    rw [runRetire_doorbellWord hc ht, takeWord_work hty hrs, workDoorbell_of_own hq hs hst]
  rw [hexec]
  refine ⟨fun ⟨⟨h0, h1⟩, h2⟩ => ?tooFar, fun ⟨⟨h0, h1⟩, h2⟩ => ?forward, fun h0 => ?same, fun h1 => ?stale⟩
  case tooFar =>
    rw [checkIndex_tooFar h0 h1 h2, if_pos rfl]
    rfl
  case forward =>
    rw [checkIndex_forward h0 h1 h2, if_neg (by decide), ringQueue_forward]
    rfl
  case same =>
    rw [checkIndex_same h0, if_neg (by decide), ringQueue_same]
  case stale =>
    rw [checkIndex_stale h1, if_neg (by decide), ringQueue_stale, ringQueue_same]

/-- Settles O5: CQ_CONSUMED by the readings of its index under R40, CQ_ARM by the order of INDEX and the producer index. -/
theorem completionDoorbells : Obligations.CompletionDoorbells := by
  unfold Obligations.CompletionDoorbells
  intro s port slice w x hc ht hrs hx hs he ahead used
  have hcons (hty : dbType w = 2) : exec (.cqConsumed port slice w) s =
      after s (settleAll (startTriggered (consumedDoorbell slice w s.dev))) := by
    show runRetire (doorbellWord port slice w) s = _
    rw [runRetire_doorbellWord hc ht, takeWord_consumed hty hrs]
  have harm (hty : dbType w = 3) : exec (.cqArm port slice w) s = after s (settleAll (startTriggered (armDoorbell slice w s.dev))) := by
    show runRetire (doorbellWord port slice w) s = _
    rw [runRetire_doorbellWord hc ht, takeWord_arm hty hrs]
  refine ⟨fun hty h0 h1 h2 => ?forward, fun hty h0 h1 h2 => ?tooFar, fun hty h1 => ?stale, fun hty hlt => ?notifies, fun hty hge => ?arms⟩
  case forward =>
    rw [hcons hty, consumedDoorbell_forward hx hs he (checkIndex_forward h0 h1 h2)]
    rfl
  case tooFar =>
    rw [hcons hty, consumedDoorbell_tooFar hx hs he (checkIndex_tooFar h0 h1 h2)]
    rfl
  case stale => rw [hcons hty, consumedDoorbell_stale hx hs he (checkIndex_stale h1)]
  case notifies =>
    rw [harm hty, armDoorbell_of_own hx hs he, if_pos ((seqLt_iff _ _).mpr ⟨hlt.1.symm, hlt.2⟩)]
    rfl
  case arms =>
    have hnot : ¬ seqLt (dbIndex w) x.ring.prod = true := fun h => hge (((seqLt_iff _ _).mp h).imp_left Ne.symm)
    rw [harm hty, armDoorbell_of_own hx hs he, if_neg hnot]
    rfl

/-- Settles O6: a byte of the page is recorded; the eight bytes of a trigger complete the doorbell word with their last one, which binds the
page's record and clears it. -/
theorem pushesComplete : Obligations.PushesComplete := by
  unfold Obligations.PushesComplete
  refine ⟨fun s port slice page off b hc ht hs h1 h15 hlo hhi => ?staging, fun s port slice page off b hc ht hs h1 h15 hlo hhi => ?between,
    fun s port slice page w hc ht h1 h15 => ?trigger⟩
  case staging =>
    rw [exec_pushPageWrite_byte b hc ht hs h1 h15 (by omega), pushByte_of_outsideWord b _ (.inr ⟨hlo, hhi⟩),
      recordByte_of_outside b (by omega)]
    rfl
  case between =>
    intro k p p'
    have hrec : recordByte (pushBytes s.dev k) off b = p' := by
      show (if _ then _ else _) = _
      simp only [hlo, hhi, true_and]
      rfl
    rw [exec_pushPageWrite_byte b hc ht hs h1 h15 (by omega), pushByte_of_outsideWord b _ (.inl hhi)]
    exact congrArg (fun x => after s (settleAll (startTriggered (recorded k x s.dev)))) hrec
  case trigger =>
    intro k p hm p' d
    obtain ⟨ha, hd⟩ := hc
    have hlen : (natLe w.toNat 8).length = 8 := natLe_length _ _
    have hp' : p' = recordRun p 0x78 (natLe w.toNat 8) := foldl_zipIdx_eq_recordRun _ _ _ 0
    have hword : writtenRun (recordRun p 0x78 (natLe w.toNat 8)) 0x78 8 = some (natLe w.toNat 8) := by
      have := writtenRun_recordRun (natLe w.toNat 8) p 0x78
      rwa [hlen] at this
    have hpush : pushAll slice k 0x78 (natLe w.toNat 8) s.dev = triggerPush slice k w (recorded k p' s.dev) := by
      rw [pushAll_word (by simp [natLe]) (le_refl _) (by rw [hlen]) (hm 0x7F (by decide) (by decide)) hword, word_of_natLe, hp']
      rfl
    show execPushTrigger port slice page w s = _
    rw [execPushTrigger, runRetire_of_alive ha, pushWrite_of_taken hd ht h1 h15, show pushKey port slice page = k from rfl, hpush, triggerPush,
      pushBytes_recorded]
    simp only [recorded, tdel_tset]
    rfl

end

section
/-!
PROOF. Work entries (02, 03): their reads and re-reads, with what an event leaves alone, and the start of the entry at the head.
-/
namespace Sys2Proof.Machine

/-! ## What an event leaves alone -/

/-- The adapter with what an event may change set aside: what a record's write may change, the event queues and the lists for triage. -/
def eventFrameOf (d : Dev) : Dev := { frameOf d with eventQ := [], triage := [] }

theorem eventFrame_of_frame {d t : Dev} (h : frameOf t = frameOf d) : eventFrameOf t = eventFrameOf d :=
  congrArg (fun x : Dev => { x with eventQ := [], triage := [] }) h

theorem setEvq_eventFrame (q : Nat) (x : EventQ) (d : Dev) : eventFrameOf (setEvq q x d) = eventFrameOf d := rfl

/-- An event's record, where it is written to its ring. -/
theorem writeEvent_eventFrame (q : Nat) (e : EventRec) (d : Dev) : eventFrameOf (writeEvent q e d) = eventFrameOf d := by
  unfold writeEvent
  simp only
  split
  all_goals simp only [eventFrame_of_frame (signal_frame _ _), setEvq_eventFrame, eventFrame_of_frame (emit_frame _ _), storeRecord, store,
    eventFrame_of_frame (storeFor_frame ..)]

theorem dropEvent_eventFrame (q : Nat) (e : EventRec) (d : Dev) : eventFrameOf (dropEvent q e d) = eventFrameOf d := by
  rw [dropEvent, eventFrame_of_frame (bump_frame _ _ _), setEvq_eventFrame]

/-- An event's record, wherever its queue keeps it. -/
theorem fileEvent_eventFrame (q : Nat) (e : EventRec) (d : Dev) : eventFrameOf (fileEvent q e d) = eventFrameOf d := by
  unfold fileEvent
  simp only
  repeat' split
  all_goals simp only [writeEvent_eventFrame, setEvq_eventFrame, dropEvent_eventFrame]

theorem placeEvent_eventFrame (q : Nat) (e : EventRec) (d : Dev) : eventFrameOf (placeEvent q e d) = eventFrameOf d := by
  unfold placeEvent
  simp only
  split
  · rw [eventFrame_of_frame (signal_frame _ _), fileEvent_eventFrame]
  · rw [fileEvent_eventFrame]

/-- A free choice uses one free value. -/
theorem choose_eventFrame {bound : Nat} {ok : Nat → Bool} {d t : Dev} {c : Option Nat} (h : choose bound ok d = (c, t)) :
    eventFrameOf t = eventFrameOf d := by
  obtain rfl : (choose bound ok d).2 = t := by rw [h]
  unfold choose
  simp only
  split <;> rfl

/-- A posted event is taken for triage or placed in its queue. -/
theorem postEvent_eventFrame (q : Nat) (e : Ev) (d : Dev) : eventFrameOf (postEvent q e d) = eventFrameOf d := by
  unfold postEvent
  simp only
  generalize ht : ite (q = 0 ∧ (getEvq d q).en = false ∧ 2 ≤ e.sev) _ _ = t
  have hframe : eventFrameOf t = eventFrameOf d := by
    subst ht
    split <;> rfl
  rw [← hframe]
  split
  · split
    · next h => exact (choose_eventFrame h :)
    · next h => rw [placeEvent_eventFrame, choose_eventFrame h]
  · exact placeEvent_eventFrame _ _ _

/-- An event that a rule raises, on whichever queues. -/
theorem raise_eventFrame (e : Ev) (d : Dev) : eventFrameOf (raise e d) = eventFrameOf d := by
  unfold raise
  repeat' split
  all_goals simp only [postEvent_eventFrame]

/-- An event leaves the slices alone. -/
theorem raise_slices (e : Ev) (d : Dev) : (raise e d).slices = d.slices := by
  show (eventFrameOf (raise e d)).slices = (eventFrameOf d).slices
  rw [raise_eventFrame]

/-- A read that came back refused is counted and latched, and leaves the slices alone. -/
theorem refusedRead_slices (port addr : Nat) (d : Dev) : (refusedRead port addr d).slices = d.slices := by
  simp only [refusedRead, cplError, latchEvent, blockError, raise_slices]
  simp only [latch, bump, bumpBy]
  split <;> rfl

theorem refusedIn_slices (slice sp a : Nat) (d : Dev) : (refusedIn slice sp a d).slices = d.slices := by
  unfold refusedIn
  split
  · rfl
  · exact refusedRead_slices _ _ _

theorem countRefused_slices (slice : Nat) (r : Ring) (first : U32) (l : List FetchedEntry) (d : Dev) :
    (countRefused slice r first l d).slices = d.slices := by
  unfold countRefused
  split
  · exact refusedIn_slices _ _ _ _
  · rfl

/-- The count of a refused read leaves the slices' states alone. -/
theorem sliceLive_countRefused (slice : Nat) (r : Ring) (first : U32) (l : List FetchedEntry) (d : Dev) (k : Nat) :
    sliceLive (countRefused slice r first l d) k = sliceLive d k := by
  rw [sliceLive, sliceLive, getSlice, getSlice, countRefused_slices]

theorem sliceLive_setQp (qpn : Nat) (q : Qp) (d : Dev) (k : Nat) : sliceLive (setQp qpn q d) k = sliceLive d k := rfl

/-! ## Reads of work entries (R49, R380) -/

/-- What the end of a command does around its effect depends on the effect's outcome alone. -/
theorem reopening_congr {f g : Dev → Dev} {d : Dev} (h : f d = g d) : reopening f d = reopening g d := by
  simp only [reopening, h]

/-- A change of a work queue of a queue pair that is there. -/
theorem modWq_of_get {qpn : Nat} {q : Qp} {d : Dev} (hq : getQp d qpn = some q) (rq : Bool) (f : WorkQueue → WorkQueue) :
    modWq qpn rq f d = setQp qpn (setWq q rq (f (wq q rq))) d := by
  have hq' : tget d.qps qpn = some q := hq
  rw [modWq, modQp, hq']

/-- The entries of an outstanding read of a queue that runs are taken, and the queue reads on. -/
theorem entryFetchReturnEffect_of_reading {qpn : Nat} {rq : Bool} {q : Qp} {i : U32} {n : Nat} {d : Dev}
    (hs : (d.staleReads.find? fun r => r.qpn == qpn && r.rq == rq) = none) (hq : getQp d qpn = some q)
    (hr : (wq q rq).reading = some (i, n)) (hl : sliceLive d q.slice = true) (hh : q.held = none) (hf : q.frozen = none)
    (es : List FetchedEntry) :
    entryFetchReturnEffect qpn rq es d =
      fetchQueue qpn rq (acceptEntries qpn rq (es.take n) i (countRefused q.slice (wq q rq).ring i (es.take n)
        (setQp qpn (setWq q rq { wq q rq with reading := none }) d))) := by
  simp only [entryFetchReturnEffect, hs, hq, hr, modWq_of_get hq, sliceLive_countRefused, sliceLive_setQp, hl, hh, hf,
    Option.isSome_none, Bool.not_true, Bool.or_self, Bool.false_eq_true, if_false]

/-- A read that its queue has given up returns first, and nothing of it is taken. -/
theorem entryFetchReturnEffect_of_stale {qpn : Nat} {rq : Bool} {r : StaleRead} {d : Dev}
    (hs : (d.staleReads.find? fun r => r.qpn == qpn && r.rq == rq) = some r) (es : List FetchedEntry) :
    entryFetchReturnEffect qpn rq es d =
      countRefused r.slice r.ring r.first (es.take r.count) { d with staleReads := d.staleReads.erase r } := by
  simp only [entryFetchReturnEffect, hs]

/-- Lookups that hit leave the queue pairs alone. -/
theorem touchTrans_qps (slice space a n : Nat) (acc : BitVec 3) (d : Dev) : (touchTrans slice space a n acc d).qps = d.qps := by
  refine foldl_keep (P := fun d t : Dev => t.qps = d.qps) (fun _ => rfl) (fun _ _ _ h h' => h'.trans h) _ (fun t p => ?_) _ d
  split <;> rfl

/-- The passing of time leaves the queue pairs alone. -/
theorem advanceTo_qps (t : Nat) (d : Dev) : (advanceTo t d).qps = d.qps := by
  unfold advanceTo
  split <;> rfl

/-- A read of entries of a queue pair that is there goes out, and the queue awaits it. -/
theorem startFetch_of_get {qpn : Nat} {q : Qp} {d : Dev} (hq : getQp d qpn = some q) (rq : Bool) (slice n : Nat) (w : WorkQueue) :
    startFetch qpn rq slice n w d = issueFetch qpn rq slice w.ring.space w.next n
      (setQp qpn (setWq q rq { w with reading := some (w.next, n), readNo := d.readNo }) { d with readNo := d.readNo + 1 }) := by
  have hq' : getQp { d with readNo := d.readNo + 1 } qpn = some q := hq
  rw [startFetch, modWq_of_get hq']

/-- The re-read of an entry that the queue has come to, and whose page is translated, goes out. -/
theorem reread_of_translated {qpn : Nat} {rq : Bool} {q : Qp} {l : List (Nat × Nat)} {d : Dev} (hn : (wq q rq).next = (wq q rq).rereadAt)
    (hr : (wq q rq).reading = none)
    (ht : translate d q.slice (wq q rq).ring.space (entryAddr (wq q rq).ring (wq q rq).next) 64 accRead = .inl l) :
    reread qpn rq q d = startFetch qpn rq q.slice 1 { wq q rq with rereadDue := none, rereads := (wq q rq).rereads + 1 }
      (touchTrans q.slice (wq q rq).ring.space (entryAddr (wq q rq).ring (wq q rq).next) 64 accRead d) := by
  have hidle : ¬((wq q rq).next ≠ (wq q rq).rereadAt ∨ (wq q rq).reading.isSome = true) := by simp [hn, hr]
  simp only [reread, if_neg hidle, ht]

/-- The timer of a re-read acts where the queue may read. -/
theorem entryRereadEffect_of_due {qpn : Nat} {rq : Bool} {q : Qp} {t : Nat} {d : Dev} (hq : getQp d qpn = some q)
    (hd : (wq q rq).rereadDue = some t) (hl : sliceLive d q.slice = true) (hh : q.held = none) (hf : q.frozen = none)
    (hc : canRead d (wq q rq).ring.space = true) : entryRereadEffect qpn rq d = reread qpn rq q (advanceTo t d) := by
  simp [entryRereadEffect, hq, hl, hh, hf, hc, hd, atExpiry_some]

/-! ## The start of a send entry (R35, R50, R89) -/

/-- A space that the entry names and that takes no write is what keeps it: none does. -/
theorem noSpaceShut_of_all_canWrite {d : Dev} {slice : Nat} {e : CachedEntry} (h : (entrySpaces e).all (fun sp => canWrite d sp) = true) :
    ((entrySpaces e).any fun sp => spaceBound d slice sp && !canWrite d sp) = false := by
  rw [List.any_eq_false]
  intro sp hm
  rw [List.all_eq_true.mp h sp hm, Bool.not_true, Bool.and_false]
  exact Bool.false_ne_true

/-- Past every check of its start, the entry at the head goes by its opcode. -/
theorem startEntry_of_startable {qpn : Nat} {q : Qp} {e : CachedEntry} {d : Dev} (hq : getQp d qpn = some q)
    (hm : mayStartSend d qpn q = true) (he : cachedAt q.sq (firstUnstarted q false) = some e) (htp : e.tablePending = false)
    (hc : q.cached = true) (hp : e.poisoned = false) (hh : entryHeld q e = false) (hs : sendCode d qpn q.slice e = none)
    (htb : e.tablePoisoned = false) (hl : localBad d q.slice e = false) (hw : (entrySpaces e).all (fun sp => canWrite d sp) = true)
    (ha : localAtomicBad d qpn e.raw = false)
    (hk : ¬(opUsesWkey (weOp e.raw) = true ∧ (2 ^ 48 ≤ weOff e.raw ∨ 2 ^ 48 < weOff e.raw + weLen e.raw))) :
    startEntry qpn d = startByOp qpn q e d := by
  have hwindow : (opUsesWkey (weOp e.raw) && decide (2 ^ 48 ≤ weOff e.raw ∨ 2 ^ 48 < weOff e.raw + weLen e.raw)) = false := by
    rw [← Bool.not_eq_true, Bool.and_eq_true, decide_eq_true_iff]
    exact hk
  simp only [startEntry, hq, hm, he, htp, hc, hp, hh, hs, htb, hl, noSpaceShut_of_all_canWrite hw, hwindow, ha, Bool.not_true,
    Bool.false_eq_true, if_false]

/-- The owner-defined opcodes and the transform lie above the plain ones. -/
theorem ne_of_plain {op : Nat} (h : op < 8) : op ≠ opTransform ∧ op ≠ opCollective ∧ op ≠ opMoe ∧ op ≠ opStageSend := by
  simp only [opTransform, opCollective, opMoe, opStageSend]
  omega

/-- An entry of a plain opcode binds no program. -/
theorem txProgram_of_plain {d : Dev} {slice : Nat} {e : BitVec 512} (h : weOp e < 8) : txProgram d slice e = none := by
  obtain ⟨htransform, -, -, hstage⟩ := ne_of_plain h
  simp [txProgram, usesTx, htransform, hstage]

/-- The packets of a message of `n` bytes at the queue pair's path MTU (R89). -/
theorem pktsOf_mtuOf (q : Qp) (n : Nat) :
    pktsOf (mtuOf q) n = Nat.max 1 ((n + if q.p.mtu8k then 8191 else 4095) / (if q.p.mtu8k then 8192 else 4096)) := by
  rw [pktsOf, ceilDiv, mtuOf]
  split <;> rfl

/-- An entry of a plain opcode other than NOP starts as a message. -/
theorem startByOp_of_plain {qpn : Nat} {q : Qp} {e : CachedEntry} {d : Dev} (h : weOp e.raw < 8) (hn : weOp e.raw ≠ opNop) :
    startByOp qpn q e d = startMessage qpn q e none d := by
  obtain ⟨-, hcollective, hmoe, hstage⟩ := ne_of_plain h
  rw [startByOp, if_neg hn, if_neg hcollective, if_neg hmoe, if_neg hstage]

/-- A message of a plain opcode puts its own bytes on the wire, in the packets that they need; an atomic's is one packet. -/
theorem startMessage_of_plain {qpn : Nat} {q : Qp} {e : CachedEntry} {d : Dev} (h : weOp e.raw < 8) :
    startMessage qpn q e none d = takeEntry qpn
      (newSend e (if weOp e.raw = opFetchAdd ∨ weOp e.raw = opCmpSwap then 1
          else Nat.max 1 ((weLen e.raw + if q.p.mtu8k then 8191 else 4095) / (if q.p.mtu8k then 8192 else 4096)))
        (weLen e.raw) q.rqr.sendSeq none none) d := by
  have hwire : wireBytes d q.slice e.raw = weLen e.raw := by rw [wireBytes, txProgram_of_plain h]
  rw [startMessage, hwire, txProgram_of_plain h, pktsOf_mtuOf]
  rfl

end Sys2Proof.Machine

open Sys2Proof Sys2Proof.Machine

/-- Settles O7: a return goes to the read that was given up, or else to the one that is outstanding; a re-read is a read of one entry at the
moment of its timer. -/
theorem entryReadsComplete : Obligations.EntryReadsComplete := by
  unfold Obligations.EntryReadsComplete
  refine ⟨fun s qpn rq es q i n ha hq hr hl hh hf hs => ?taken, fun s qpn rq es r ha hs => ?givenUp,
    fun s qpn rq q t l ha hq hd hl hh hf hc hn hr ht => ?reread⟩
  case taken =>
    show runLevels (reopening (entryFetchReturnEffect qpn rq es)) s = _
    rw [runLevels_of_alive ha]
    exact congrArg (fun d => after s (settleAll d)) (reopening_congr (entryFetchReturnEffect_of_reading hs hq hr hl hh hf es))
  case givenUp =>
    show runLevels (reopening (entryFetchReturnEffect qpn rq es)) s = _
    rw [runLevels_of_alive ha]
    exact congrArg (fun d => after s (settleAll d)) (reopening_congr (entryFetchReturnEffect_of_stale hs es))
  case reread =>
    have hq' (a m : Nat) : getQp (touchTrans q.slice (wq q rq).ring.space a m accRead (advanceTo t s.dev)) qpn = some q := by
      rw [getQp, touchTrans_qps, advanceTo_qps]
      exact hq
    show runLevels (entryRereadEffect qpn rq) s = _
    rw [runLevels_of_alive ha, entryRereadEffect_of_due hq hd hl hh hf hc, reread_of_translated hn hr ht, startFetch_of_get (hq' _ _)]

/-- Settles O8: past the checks, the opcode decides: a NOP ends as it starts, and every other plain opcode starts a message. -/
theorem entryStartCompletes : Obligations.EntryStartCompletes := by
  unfold Obligations.EntryStartCompletes
  intro s qpn q e ha hq hm he htp hc hp hh hs htb hl hw hat
  have hstart (hk : ¬(opUsesWkey (weOp e.raw) = true ∧ (2 ^ 48 ≤ weOff e.raw ∨ 2 ^ 48 < weOff e.raw + weLen e.raw))) :
      exec (.entryStart qpn) s = after s (settleAll (startByOp qpn q e s.dev)) := by
    show runLevels (startEntry qpn) s = _
    rw [runLevels_of_alive ha, startEntry_of_startable hq hm he htp hc hp hh hs htb hl hw hat hk]
  refine ⟨fun hnop => ?nop, fun hlt hne hk => ?message⟩
  case nop =>
    have hwkey : opUsesWkey (weOp e.raw) = false := by rw [hnop]; decide
    rw [hstart fun h => by simp [hwkey] at h, startByOp, if_pos hnop, startDone]
  case message => rw [hstart hk, startByOp_of_plain hlt hne, startMessage_of_plain hlt]

end

section
/-!
PROOF. Admin queues (02, 14): their creation and end, the doorbells of their rings, and the reading of commands.
-/
namespace Sys2Proof.Machine

/-! ## Creation and end of admin queues (R456, R457, R481) -/

/-- A new device queue has its rings where R27 lets them lie. -/
theorem aqRings_of_device {n lg cbase rbase : Nat} (d : Dev) (hn : n < 8) (hc : ringAligned cbase lg 64 = true)
    (hr : ringAligned rbase lg 32 = true) : aqRings d n lg 0 cbase rbase = none := by
  simp [aqRings, hn, hc, hr]

/-- AQ_CREATE of a device queue that is off makes it anew, for the device's PASID. -/
theorem aqCreate_of_device {h : Cmd} {n lg cbase rbase vector : Nat} {d : Dev} (ha : accepts d 0x0001 h false = true) (h1 : 1 ≤ n)
    (h8 : n < 8) (hlo : 4 ≤ lg) (hhi : lg ≤ 12) (hv : vector < 2048) (hc : ringAligned cbase lg 64 = true)
    (hr : ringAligned rbase lg 32 = true) (hen : (getAq d n).en = false) (hcl : (getAq d n).closing = false) :
    aqCreate h n lg 0 cbase rbase vector d =
      ok (cmdRow 0x0001) h (setAq n (newAq lg 0 vector (getAq d 0).pasid (getAq d 0).pasidV cbase rbase) d) := by
  have h520 : n < 520 := by omega
  have hnot : ¬ 8 ≤ n := by omega
  rw [aqCreate, command_of_good _ ha (by simp [firstBad_eq_none_iff, h1, h520, hlo, hhi, hv])]
  simp only [hen, hcl, Bool.or_self, Bool.false_eq_true, if_false, hnot, false_and, aqRings_of_device d h8 hc hr, if_pos h8, decide_false,
    Bool.false_or]

/-- AQ_DESTROY of another device queue stops it, and replies once it has closed. -/
theorem aqDestroy_of_device {h : Cmd} {n : Nat} {d : Dev} (ha : accepts d 0x0002 h false = true) (h8 : n < 8) (hne : n ≠ h.aq)
    (hen : (getAq d n).en = true) :
    aqDestroy h n d = closeQueues (waitOn h 0x0002 (.adminQueue n) (stopQueue n d)) := by
  have h520 : n < 520 := by omega
  have hnot : ¬ 8 ≤ n := by omega
  rw [aqDestroy, decide_eq_false hnot, command_of_good _ ha (by simp [firstBad_eq_none_iff, h520])]
  simp only [if_neg hne, hen, Bool.true_or, Bool.not_true, Bool.false_eq_true, if_false, hnot, false_and, cmdRow_op 0x0002 rfl]

/-- A write of CMD_AQ_CTL that sets EN with good fields enables queue 0 anew. -/
theorem aq0Write_enable {v : U64} {d : Dev} (hr : d.ready = true) (hen : (getAq d 0).en = false) (hcl : (getAq d 0).closing = false)
    (hv : bit v 63 = true) (hlg : 4 ≤ fld v 59 56 ∧ fld v 59 56 ≤ 12) (hs : fld v 55 52 = 0)
    (hc : ringAligned (getAq d 0).cbase (fld v 59 56) 64 = true) (hb : ringAligned (getAq d 0).rbase (fld v 59 56) 32 = true) :
    aq0Write v d = setAq 0
      (newAq (fld v 59 56) 0 (fld v 51 41) (fld v 40 21) (bit v 20) (getAq d 0).cbase (getAq d 0).rbase) d := by
  have hok : aqLgOk v = true := decide_eq_true hlg
  simp only [aq0Write, hcl, hr, hen, aqCtl, hok, hs, hv, hc, hb, Bool.not_true, Bool.or_self, Bool.false_eq_true, if_false, if_true,
    decide_true, Bool.and_self]

/-- A write of CMD_AQ_CTL that clears EN stops queue 0. -/
theorem aq0Write_disable {v : U64} {d : Dev} (hr : d.ready = true) (hen : (getAq d 0).en = true) (hcl : (getAq d 0).closing = false)
    (hv : bit v 63 = false) : aq0Write v d = startAll (closeQueues (stopQueue 0 d)) := by
  simp only [aq0Write, hcl, hr, hen, hv, Bool.not_true, Bool.or_self, Bool.false_eq_true, if_false, if_true]

/-- Bit 63 of a word in which it is set. -/
theorem bit_top_or_top (v : U64) : bit (v ||| ((1 : U64) <<< 63)) 63 = true := by
  simp [bit]

/-- Bit 63 of a word in which it is cleared. -/
theorem bit_top_and_not_top (v : U64) : bit (v &&& ~~~((1 : U64) <<< 63)) 63 = false := by
  simp [bit]

/-! ## The indices of the command ring and of the reply ring (R40, R63, R458) -/

/-- A queue that has been rung resumes, with a fresh allowance of re-reads where it had stopped. -/
def resumedAq (a : AdminQ) : AdminQ := { a with stopped := false, rereads := if a.stopped then 0 else a.rereads }

section
variable {n : Nat} {v : U64} {d : Dev} (ho : (!(getAq d n).en || (getAq d n).closing) = false)
include ho

/-- CMD_AQ_PROD forward, within the ring: the index moves, and the queue reads. -/
theorem aqProd_forward (h0 : 0 < Machine.dist (u32 (fld v 31 0)) (getAq d n).cprod)
    (h1 : Machine.dist (u32 (fld v 31 0)) (getAq d n).cprod < 2 ^ 31)
    (h2 : Machine.dist (u32 (fld v 31 0)) (getAq d n).cnext ≤ 2 ^ (getAq d n).lg) :
    aqProd n v d = fetchCommands n (setAq n { resumedAq (getAq d n) with cprod := u32 (fld v 31 0) } d) := by
  simp only [aqProd, ho, if_neg h0.ne', if_neg h1.not_ge, if_neg h2.not_gt, Bool.false_eq_true, if_false]
  rfl

/-- CMD_AQ_PROD with the index that stands: the queue reads. -/
theorem aqProd_same (h0 : Machine.dist (u32 (fld v 31 0)) (getAq d n).cprod = 0) :
    aqProd n v d = fetchCommands n (setAq n (resumedAq (getAq d n)) d) := by
  simp only [aqProd, ho, if_pos h0, Bool.false_eq_true, if_false]
  rfl

/-- CMD_AQ_PROD behind: counted, and the queue reads. -/
theorem aqProd_stale (h1 : 2 ^ 31 ≤ Machine.dist (u32 (fld v 31 0)) (getAq d n).cprod) :
    aqProd n v d = fetchCommands n (bump 0x31 n (setAq n (resumedAq (getAq d n)) d)) := by
  have h0 : Machine.dist (u32 (fld v 31 0)) (getAq d n).cprod ≠ 0 := by omega
  simp only [aqProd, ho, if_neg h0, if_pos h1, Bool.false_eq_true, if_false]
  rfl

/-- CMD_AQ_PROD beyond the ring: counted, and nothing else. -/
theorem aqProd_tooFar (h0 : 0 < Machine.dist (u32 (fld v 31 0)) (getAq d n).cprod)
    (h1 : Machine.dist (u32 (fld v 31 0)) (getAq d n).cprod < 2 ^ 31)
    (h2 : 2 ^ (getAq d n).lg < Machine.dist (u32 (fld v 31 0)) (getAq d n).cnext) : aqProd n v d = bump 0x31 n d := by
  simp only [aqProd, ho, if_neg h0.ne', if_neg h1.not_ge, if_pos h2, Bool.false_eq_true, if_false]

end

/-- CMD_AQ_RCONS up to the producer index: replies that waited for room are written, and what they kept goes on. -/
theorem aqRcons_forward {n : Nat} {v : U64} {d : Dev} (he : (getAq d n).en = true)
    (h1 : Machine.dist (u32 (fld v 31 0)) (getAq d n).rcons < 2 ^ 31)
    (h2 : Machine.dist (u32 (fld v 31 0)) (getAq d n).rcons ≤ Machine.dist (getAq d n).rprod (getAq d n).rcons) :
    aqRcons n v d = startAll (
      let t := closeQueues (pumpReplies n (setAq n { getAq d n with rcons := u32 (fld v 31 0) } d))
      if bit v 63 then armReplies n t else t) := by
  have hin : ¬(Machine.dist (u32 (fld v 31 0)) (getAq d n).rcons < 2 ^ 31
      ∧ Machine.dist (getAq d n).rprod (getAq d n).rcons < Machine.dist (u32 (fld v 31 0)) (getAq d n).rcons) := fun h => h2.not_gt h.2
  simp only [aqRcons, he, if_neg hin, if_neg h1.not_ge, Bool.not_true, Bool.false_eq_true, if_false]

/-! ## Reading of commands (R458) -/

/-- The packets of a read of a queue that reads are taken, and the queue reads on. -/
theorem commandsReturn_of_reading {n : Nat} {d : Dev} (hn : n < 520) (hr : aqReads d n = true) (hs : (getAq d n).stopped = false)
    (hd : (getAq d n).rereadDue = none) (ho : (getAq d n).reading.isSome = true) (l : List (BitVec 512)) :
    commandsReturn n l d = fetchCommands n (startAll (takePackets n l (setAq n { getAq d n with reading := none } d))) := by
  have hout : (decide (n < 520) && (getAq d n).reading.isSome) = true := by rw [decide_eq_true hn, ho]; rfl
  let t := setAq n { getAq d n with reading := none } d
  have ht : getAq t n = { getAq d n with reading := none } := getAq_setAq _ _ _
  have hgo : (aqReads t n && !(getAq t n).stopped && (getAq t n).rereadDue.isNone) = true := by
    rw [show aqReads t n = true by rw [aqReads, ht]; exact hr, ht, hs, hd]
    rfl
  rw [commandsReturn, if_pos hout]
  exact if_pos hgo

/-- The timer of a command's re-read acts where the queue may read. -/
theorem commandReread_of_due {n t : Nat} {d : Dev} (hr : aqReads d n = true) (hd : (getAq d n).rereadDue = some t)
    (hc : canRead d (getAq d n).space = true) (ho : (getAq d n).reading = none) :
    commandReread n d = fetchCommands n
      (setAq n { getAq d n with rereadDue := none, rereads := (getAq d n).rereads + 1 } (advanceTo t d)) := by
  simp only [commandReread, hr, hc, ho, hd, Option.isNone_none, Bool.and_self, Bool.not_true, Bool.false_eq_true, if_false, atExpiry_some]

end Sys2Proof.Machine

open Sys2Proof Sys2Proof.Machine

/-- Settles O36: each clause's conditions are the guards of one branch of the row's own rule. -/
theorem adminQueuesComplete : Obligations.AdminQueuesComplete := by
  unfold Obligations.AdminQueuesComplete
  refine ⟨fun s h n lg cbase rbase vector ht h1 h8 hlo hhi hv hc hr hen hcl => ?create, fun s h n ht h8 hne hen => ?destroy,
    fun s n v ha hn hen hcl => ?prod, fun s n v ha hn hen h1 h2 => ?rcons, fun s n l ha hn hr hs hd ho => ?fetchReturn,
    fun s n t ha hr hd hc ho => ?reread, fun s v ha hr hen hcl hlo hhi hs hc hb => ?enable, fun s v ha hr hen hcl => ?disable⟩
  case create =>
    obtain ⟨ha, hacc⟩ := ht
    show runLevels (aqCreate h n lg 0 cbase rbase vector) s = _
    rw [runLevels_of_alive ha, aqCreate_of_device hacc h1 h8 hlo hhi hv hc hr hen hcl]
    rfl
  case destroy =>
    obtain ⟨ha, hacc⟩ := ht
    show execAqDestroy h n s = _
    rw [execAqDestroy, runLevels_of_alive ha, aqDestroy_of_device hacc h8 hne hen]
    rfl
  case prod =>
    intro a ahead again
    have hopen : (!(getAq s.dev n).en || (getAq s.dev n).closing) = false := by rw [hen, hcl]; rfl
    have hexec : exec (.cmdAqProd n v) s = after s (settleAll (aqProd n v s.dev)) := by
      show execCmdAqProd n v s = _
      rw [execCmdAqProd, runLevels_of_alive ha, if_pos hn]
    rw [hexec]
    refine ⟨fun h0 h1 h2 => ?forward, fun h0 => ?same, fun h1 => ?stale, fun h0 h1 h2 => ?tooFar⟩
    case forward =>
      rw [aqProd_forward hopen h0 h1 h2]
      rfl
    case same =>
      rw [aqProd_same hopen h0]
      rfl
    case stale =>
      rw [aqProd_stale hopen h1]
      rfl
    case tooFar => rw [aqProd_tooFar hopen h0 h1 h2]
  case rcons =>
    show execCmdAqRcons n v s = _
    rw [execCmdAqRcons, runLevels_of_alive ha, if_pos hn, aqRcons_forward hen h1 h2]
    rfl
  case fetchReturn =>
    show runLevels (reopening (commandsReturn n l)) s = _
    rw [runLevels_of_alive ha]
    exact congrArg (fun d => after s (settleAll d)) (reopening_congr (commandsReturn_of_reading hn hr hs hd ho l))
  case reread =>
    show runLevels (commandReread n) s = _
    rw [runLevels_of_alive ha, commandReread_of_due hr hd hc ho]
    rfl
  case enable =>
    have hlg : fld (v ||| ((1 : U64) <<< 63)) 59 56 = fld v 59 56 := fld_or_top (by decide)
    show runLevels (aq0Write (v ||| ((1 : U64) <<< 63))) s = _
    rw [runLevels_of_alive ha, aq0Write_enable hr hen hcl (bit_top_or_top v) (by rw [hlg]; exact ⟨hlo, hhi⟩)
      ((fld_or_top (by decide)).trans hs) (by rw [hlg]; exact hc) (by rw [hlg]; exact hb), hlg, fld_or_top (by decide),
      fld_or_top (by decide), bit_or_top (by decide)]
    rfl
  case disable =>
    show runLevels (aq0Write (v &&& ~~~((1 : U64) <<< 63))) s = _
    rw [runLevels_of_alive ha, aq0Write_disable hr hen hcl (bit_top_and_not_top v)]
    rfl

end

section
/-!
PROOF. Commands on queue pairs (03): what QP_CREATE, QP_MODIFY, QP_DESTROY, QP_QUERY, QP_PIN, QP_UNPIN and WQ_INVALIDATE do once nothing
refuses them.
-/
namespace Sys2Proof.Machine

/-- A command on a queue pair of its own slice, with its fields in range, answers with its own rule. -/
theorem runLevels_onQp_of_takes {s : State} {op : Nat} {h : Cmd} {qpn : Nat} {q : Qp} {bad : Option Nat} (body : CmdInfo → Qp → Dev → Dev)
    (ht : TakesQp s op h qpn q) (hb : bad = none) :
    runLevels (command op h true bad fun c => onQp c h qpn (body c)) s = after s (settleAll (body (cmdRow op) q s.dev)) := by
  obtain ⟨ht, -, hq, hs⟩ := ht
  rw [runLevels_command_of_takes _ ht hb, onQp_of_own _ hq hs]

/-- The QPN of a command that is taken is in range. -/
theorem qpn_lt_of_takesQp {s : State} {op : Nat} {h : Cmd} {qpn : Nat} {q : Qp} (ht : TakesQp s op h qpn q) : qpn < 2 ^ 20 := by
  obtain ⟨-, hn, -, -⟩ := ht
  exact hn

/-- The check of a command whose one field is its QPN. -/
theorem firstBad_qpn_of_takesQp {s : State} {op : Nat} {h : Cmd} {qpn : Nat} {q : Qp} (ht : TakesQp s op h qpn q) :
    firstBad [(8, decide (qpn < 2 ^ 20))] = none := by
  simpa [firstBad_eq_none_iff] using qpn_lt_of_takesQp ht

/-- QP_CREATE of a QPN that is free and out of quarantine, with rings that are the slice's and room in its quota. -/
theorem qpCreateBody_of_free {p : QpCreateP} {h : Cmd} {c : CmdInfo} {d : Dev} (hf : getQp d p.qpn = none) (hq : inQuarantine d p.qpn = false)
    (hsq : ringStatus d h.slice p.sqSpace p.sqBase p.sqLg 64 = csOk) (hrq : ringStatus d h.slice p.rqSpace p.rqBase p.rqLg 64 = csOk)
    (hquota : quotaFull d h.slice 0 = false) :
    qpCreateBody p h c d = reply c h csOk 0 (packResult [((nextGen d p.qpn).toNat, 1)]) (qpAdd h.slice p d) := by
  simp [qpCreateBody, hf, hq, hsq, hrq, hquota]

/-- A NEW_STATE above 4 names no state (Table 14.5). -/
theorem stateOf_of_gt {n : Nat} (h : 4 < n) : stateOf n = none := by
  obtain ⟨m, rfl⟩ : ∃ m, n = m + 5 := ⟨n - 5, by omega⟩
  rfl

/-- QP_QUERY writes its record where the record lies in the slice's memory. -/
theorem qpQueryBody_of_space {space addr : Nat} {h : Cmd} {c : CmdInfo} {q : Qp} {d : Dev}
    (hs : space = 0 ∨ (space = 1 ∧ inAllocation d h.slice addr 64 = true)) :
    qpQueryBody space addr h c q d = ok c h (emit (.qpStatus space addr (encQpStatus q))
      (store space addr (natLe (encQpStatus q).toNat 64) false true h.slice none d)) := by
  have hin : ¬(space = 1 ∧ inAllocation d h.slice addr 64 = false) := by
    rcases hs with h0 | ⟨-, hin⟩
    · simp [h0]
    · simp [hin]
  rw [qpQueryBody, if_neg hin]

/-- QP_PIN of a context that is pinned, or that has room to be. -/
theorem qpPinBody_of_room {qpn : Nat} {h : Cmd} {c : CmdInfo} {q : Qp} {d : Dev} (hr : q.pinned = true ∨
    ((getSlice d h.slice).latCrit = true ∧ pinnedIn d (qpn % 4) < 2048 ∧ quotaFull d h.slice 7 = false)) :
    qpPinBody qpn h c q d =
      ok c h (if q.pinned then d else modQp qpn (fun q => { q with pinned := true }) (cacheContext qpn d)) := by
  cases hp : q.pinned with
  | true => simp [qpPinBody, hp]
  | false =>
    obtain ⟨hc, hn, hq⟩ := hr.resolve_left (by simp [hp])
    have hroom : ¬ 2048 ≤ pinnedIn d (pipeOf qpn) := hn.not_ge
    simp [qpPinBody, hp, hc, hroom, hq]

end Sys2Proof.Machine

open Sys2Proof Sys2Proof.Machine

/-- Settles O1: each clause's conditions are the guards of the row's own rule, past the checks of every command. -/
theorem queuePairCommandsComplete : Obligations.QueuePairCommandsComplete := by
  unfold Obligations.QueuePairCommandsComplete
  refine ⟨fun s h p ht hb hf hq hsq hrq hquota => ?create, fun s h p q ht hb hr => ?modify, fun s h qpn q ht hst => ?destroy,
    fun s h qpn space addr q ht ha hs => ?query, fun s h qpn q ht hr => ?pin, fun s h qpn q ht => ?unpin,
    fun s h qpn queue q ht hle => ?invalidate⟩
  case create =>
    show runLevels (qpCreateEffect h p) s = _
    rw [qpCreateEffect, runLevels_command_of_takes _ ht hb, qpCreateBody_of_free hf hq hsq hrq hquota]
    rfl
  case modify =>
    show runLevels (qpModifyEffect h p) s = _
    rw [qpModifyEffect, runLevels_onQp_of_takes _ ht hb, qpModifyBody, hr]
    rcases Nat.lt_or_ge 4 p.newState with hgt | hle
    · rw [stateOf_of_gt hgt, if_neg (by omega), if_neg (by omega), if_neg (by omega), if_neg (by omega), if_neg (by omega)]
      rfl
    · interval_cases p.newState <;> rfl
  case destroy =>
    show runLevels (qpDestroyEffect h qpn) s = _
    rw [qpDestroyEffect, runLevels_onQp_of_takes _ ht (firstBad_qpn_of_takesQp ht), qpDestroyBody, if_neg (not_not.mpr hst)]
    rfl
  case query =>
    have hsp : space ≤ 1 := by omega
    have hgood : firstBad [(8, decide (qpn < 2 ^ 20)), (12, decide (space ≤ 1)), (16, decide (addr % 64 = 0))] = none := by
      simpa [firstBad_eq_none_iff, hsp, ha] using qpn_lt_of_takesQp ht
    show runLevels (qpQueryEffect h qpn space addr) s = _
    rw [qpQueryEffect, runLevels_onQp_of_takes _ ht hgood, qpQueryBody_of_space hs]
  case pin =>
    show runLevels (qpPinEffect h qpn) s = _
    rw [qpPinEffect, runLevels_onQp_of_takes _ ht (firstBad_qpn_of_takesQp ht), qpPinBody_of_room hr]
  case unpin =>
    show runLevels (qpUnpinEffect h qpn) s = _
    rw [qpUnpinEffect, runLevels_onQp_of_takes _ ht (firstBad_qpn_of_takesQp ht)]
    rfl
  case invalidate =>
    have hgood : firstBad [(8, decide (qpn < 2 ^ 20)), (12, decide (queue ≤ 1))] = none := by
      simpa [firstBad_eq_none_iff, hle] using qpn_lt_of_takesQp ht
    show runLevels (wqInvalidateEffect h qpn queue) s = _
    rw [wqInvalidateEffect, runLevels_onQp_of_takes _ ht hgood]
    rfl

end

section
/-!
PROOF. What a queue pair sends and when it sends again (03): the order in which PACKET_BUILD builds, and the timers of queue pairs and
completion queues.
-/
namespace Sys2Proof.Machine

/-! ## PACKET_BUILD (R88, R89, R104, R206, R297) -/

/-- PACKET_BUILD of a queue pair that may send and has a packet to build: its rate-table entry is read again where it is stale, its context
is used, and a resend goes before a new packet. -/
theorem packetBuild_of_sender {qpn : Nat} {q q' : Qp} {src : ReadData} {d : Dev} (hq : getQp d qpn = some q)
    (hl : sliceLive d q.slice = true) (hd : dataOn d = true) (hn : quiet d q = false) (hst : q.st = .live ∨ q.st = .drain)
    (hc : q.cached = true) (hp : hasPacket d qpn q = true)
    (hq' : getQp (cacheContext qpn (if rateStale d q then rateRead qpn d else d)) qpn = some q') :
    packetBuild qpn src d =
      let t := cacheContext qpn (if rateStale d q then rateRead qpn d else d)
      (nextResend q').elim (buildNew qpn q' src t) fun o => resendOut qpn q' o src t := by
  have hsends : (q.st == .live || q.st == .drain) = true := by simpa using hst
  simp only [packetBuild, hq, hl, hd, hn, hsends, hp, hc, hq', Bool.not_true, Bool.or_self, Bool.false_eq_true, if_false]
  cases nextResend q' <;> rfl

/-- A message that has begun goes on before any other (R88). -/
theorem buildNew_of_partBuilt {qpn : Nat} {q : Qp} {e : SendEntry} {src : ReadData} {d : Dev} (hp : partBuilt q = some e) :
    buildNew qpn q src d = buildEntry qpn q e src d := by
  simp only [buildNew, hp]

/-- The sequencer's messages come before the entries (R206). -/
theorem buildNew_of_nextSeq {qpn : Nat} {q : Qp} {m : SeqMsg} {src : ReadData} {d : Dev} (hp : partBuilt q = none)
    (hm : nextSeq d qpn = some m) : buildNew qpn q src d = buildSeq qpn q m src d := by
  simp only [buildNew, hp, hm]

/-- With nothing begun and no message of the sequencer, the oldest entry with packets to build is next (R89). -/
theorem buildNew_of_nextEntry {qpn : Nat} {q : Qp} {e : SendEntry} {src : ReadData} {d : Dev} (hp : partBuilt q = none)
    (hm : nextSeq d qpn = none) (he : nextEntry q = some e) : buildNew qpn q src d = buildEntry qpn q e src d := by
  simp only [buildNew, hp, hm, he]

/-! ## Timers of a queue pair (R98, R104 to R106, R141) -/

/-- The passing of time leaves the queue pairs alone. -/
theorem getQp_advanceTo (t qpn : Nat) (d : Dev) : getQp (advanceTo t d) qpn = getQp d qpn := by
  rw [getQp, getQp, advanceTo_qps]

/-- A change of a queue pair that is there. -/
theorem modQp_of_get {qpn : Nat} {q : Qp} {d : Dev} (hq : getQp d qpn = some q) (f : Qp → Qp) : modQp qpn f d = setQp qpn (f q) d := by
  have hq' : tget d.qps qpn = some q := hq
  rw [modQp, hq']

/-- A clock that runs acts at its moment. -/
theorem onClock_of_running {qpn t : Nat} {q : Qp} {due : Qp → Option Nat} {d : Dev} (hq : getQp d qpn = some q)
    (hc : clocksRun d q = true) (ht : due q = some t) (f : Qp → Dev → Dev) : onClock qpn due f d = f q (advanceTo t d) := by
  simp only [onClock, hq, hc, if_true, ht, atExpiry_some]

/-- What the expiry of the retransmission timer leaves in hardware mode: the timer is off, the sample is abandoned, and W is W_MIN (R104,
R292, R293). -/
def rtoExpired (q : Qp) : Qp := { q with
  rqr := { q.rqr with rtoDue := none }
  cc := { q.cc with sample := none, w := q.cc.prof.wMin, epochEnd := q.rqr.nextPsn, unlimited := false } }

/-- In hardware mode R104's steps 3 and 4 follow on what the expiry leaves. -/
theorem rtoEffect_of_hardware {qpn t : Nat} {q q1 : Qp} {d : Dev} (hq : getQp d qpn = some q) (hc : clocksRun d q = true)
    (ht : q.rqr.rtoDue = some t) (hh : ccHostAssisted (advanceTo t d) q = false)
    (hq1 : getQp (cacheContext qpn (setQp qpn (rtoExpired q) (advanceTo t d))) qpn = some q1) :
    rtoEffect qpn d = timeoutStep qpn q1 (cacheContext qpn (setQp qpn (rtoExpired q) (advanceTo t d))) := by
  have hmode : ccHostAssisted (advanceTo t d) { q with rqr := { q.rqr with rtoDue := none }, cc := { q.cc with sample := none } } = false := hh
  rw [rtoEffect, onClock_of_running hq hc ht]
  unfold rtoExpired at hq1 ⊢
  simp only [hmode, Bool.false_eq_true, if_false, hq1]

/-- The delayed ACK leaves at the end of its timer. -/
theorem ackTimerEffect_of_running {qpn t : Nat} {q : Qp} {d : Dev} (hq : getQp d qpn = some q) (ht : q.rsp.ackFirstAt = some t) :
    ackTimerEffect qpn d = sendAck qpn (setQp qpn { q with rsp := { q.rsp with ackCause := t } } (advanceTo (t + q.p.ackTimer) d)) := by
  have hdue : ackTimerDue q = some (t + q.p.ackTimer) := by rw [ackTimerDue, ht]; rfl
  have hq' : getQp (advanceTo (t + q.p.ackTimer) d) qpn = some q := (getQp_advanceTo _ _ _).trans hq
  simp only [ackTimerEffect, hq, hdue, atExpiry_some, modRsp, modQp_of_get hq', ht, Option.getD_some]

/-- The DELAY of a NAK ends for a packet that waits it out: it is to be resent, and the timer restarts. -/
theorem nakDelayEffect_of_waiting {qpn t : Nat} {psn : U32} {q : Qp} {o : OutPkt} {d : Dev} (hq : getQp d qpn = some q)
    (ho : (q.rqr.out.find? fun o => o.psn == psn && o.head) = some o) (ht : o.delayUntil = some t) :
    nakDelayEffect qpn psn d = setQp qpn (rearm (advanceTo t d)
      (modGroup o (fun x => { x with delayUntil := none, resend := x.head }) q)) (advanceTo t d) := by
  simp only [nakDelayEffect, hq, ho, ht, atExpiry_some]

/-! ## The stall timer of a completion queue (R67, R68) -/

/-- The stall timer of a queue that may be written fails the queue at its moment. -/
theorem cqStallEffect_of_running {c t : Nat} {x : Cq} {d : Dev} (hx : tget d.cqs c = some x) (hw : canWrite d x.ring.space = true)
    (hs : (getSlice d x.slice).st ≠ .faultStop) (ht : x.stallSince = some t) :
    cqStallEffect c d = failCq c x (advanceTo (t + x.stallTimeout * 1000) d) := by
  simp [cqStallEffect, hx, hw, hs, ht, atExpiry_some]

end Sys2Proof.Machine

open Sys2Proof Sys2Proof.Machine

/-- Settles O9: a resend, else the message that has begun, else the sequencer's, else an entry: the branches of the row's own rule. -/
theorem packetBuildCompletes : Obligations.PacketBuildCompletes := by
  unfold Obligations.PacketBuildCompletes
  intro s qpn q q' src hcar hq hl hn hst hc hp d hq'
  obtain ⟨ha, hd⟩ := hcar
  have hpacket : hasPacket s.dev qpn q = true := by simpa only [hasPacket, Bool.or_eq_true, or_assoc] using hp
  have hexec : exec (.packetBuild qpn src) s = after s (settleAll (startTriggered
      ((nextResend q').elim (buildNew qpn q' src d) fun o => resendOut qpn q' o src d))) := by
    show runRetire (packetBuild qpn src) s = _
    rw [runRetire_of_alive ha, packetBuild_of_sender hq hl hd hn hst hc hpacket hq']
  refine ⟨fun o hr => ?resend, fun e hr hpart => ?begun, fun m hr hpart hm => ?sequencer, fun e hr hpart hm he => ?entry⟩
  case resend => rw [hexec, hr, Option.elim_some]
  case begun => rw [hexec, hr, Option.elim_none, buildNew_of_partBuilt hpart]
  case sequencer => rw [hexec, hr, Option.elim_none, buildNew_of_nextSeq hpart hm]
  case entry => rw [hexec, hr, Option.elim_none, buildNew_of_nextEntry hpart hm he]

/-- Settles O12: step 3's test of the retry count is the one branch, past the state that the expiry itself leaves. -/
theorem retransmissionTimerFollowsR104 : Obligations.RetransmissionTimerFollowsR104 := by
  unfold Obligations.RetransmissionTimerFollowsR104
  intro s qpn t q ha hq hc ht hh d d1 q1 hq1 oldest
  have hexec : exec (.rtoExpiry qpn) s = after s (settleAll (startTriggered (timeoutStep qpn q1 d1))) := by
    show runRetire (rtoEffect qpn) s = _
    rw [runRetire_of_alive ha, rtoEffect_of_hardware hq hc ht hh hq1]
    rfl
  refine ⟨fun hlimit => ?fails, fun hbelow => ?again⟩
  case fails =>
    rw [hexec, timeoutStep, if_pos hlimit.ge]
    rfl
  case again =>
    rw [hexec, timeoutStep, if_neg hbelow.not_ge]
    rfl

/-- Settles O13: every row is the expiry of a timer that runs, and acts at that timer's moment. -/
theorem transportTimersAct : Obligations.TransportTimersAct := by
  unfold Obligations.TransportTimersAct
  refine ⟨fun s qpn t q ha hq ht => ?ack, fun s qpn t psn q o ha hq ho ht => ?nakDelay, fun s qpn t q ha hq hc ht => ?busy,
    fun s qpn t q ha hq hc ht => ?pageWait, fun s c t x ha hx hw hs ht => ?stall⟩
  case ack =>
    show runLevels (ackTimerEffect qpn) s = _
    rw [runLevels_of_alive ha, ackTimerEffect_of_running hq ht]
  case nakDelay =>
    show runLevels (fun d => nakDelayEffect qpn psn (resendUnsent qpn psn d)) s = _
    rw [runLevels_of_alive ha, nakDelayEffect_of_waiting hq ho ht]
    rfl
  case busy =>
    show runRetire (busyLimitEffect qpn) s = _
    rw [runRetire_of_alive ha, busyLimitEffect, onClock_of_running hq hc (by rw [ht]; rfl)]
    rfl
  case pageWait =>
    show runRetire (pageWaitLimitEffect qpn) s = _
    rw [runRetire_of_alive ha, pageWaitLimitEffect, onClock_of_running hq hc ht]
    rfl
  case stall =>
    show runRetire (cqStallEffect c) s = _
    rw [runRetire_of_alive ha, cqStallEffect_of_running hx hw hs ht]
    rfl

end

section
/-!
PROOF. What arrives for a queue pair (03): the way of a packet to the queue pair that takes it, how a request is classified by its PSN, and
what ACKs, NAKs and responses act on.
-/
namespace Sys2Proof.Machine

/-! ## The queue pair that takes a packet (Table 3.1, R78, R86, R365, R411) -/

/-- Queue pair `q` takes packet `p` in plain text: it is in LIVE or DRAIN in a slice that is LIVE, neither held nor frozen, its context is
on-die with no packet parked for it, and the packet carries its generation. -/
structure TakesPacket (d : Dev) (qpn : Nat) (q : Qp) (p : Packet) : Prop where
  found : getQp d qpn = some q
  live : sliceLive d q.slice = true
  running : q.st = .live ∨ q.st = .drain
  cached : q.cached = true
  noneParked : ((parkedIn d (qpn % 4)).any fun x => x.qpn == qpn && x.why == .context) = false
  noKey : q.p.rxKey = none
  plain : phEnc p.hdr = false
  notHeld : q.held = none
  notFrozen : q.frozen = none
  generation : phGen p.hdr = q.gen

/-- A packet in plain text for a queue pair without a key is looked at as it is (R439). -/
theorem authentic_of_plain {qpn : Nat} {q : Qp} {p : Packet} {d : Dev} (hk : q.p.rxKey = none) (he : phEnc p.hdr = false) :
    authentic qpn q p d = (some p, d) := by
  simp [authentic, hk, he]

/-- No opcode is both of the request class and of the response class (Table 3.5). -/
theorem pkIsResp_of_pkIsReq {op : Nat} (h : pkIsReq op = true) : pkIsResp op = false := by
  simp only [pkIsReq, pkIsResp, Bool.or_eq_true, Bool.and_eq_true, decide_eq_true_eq, Bool.and_eq_false_iff, decide_eq_false_iff_not] at h ⊢
  omega

section
variable {d : Dev} {qpn link since : Nat} {q : Qp} {p : Packet} (ht : TakesPacket d qpn q p)
include ht

/-- The state of its slice. -/
theorem TakesPacket.slice_st : (getSlice d q.slice).st = .live := by
  simpa [sliceLive] using ht.live

/-- Its slice is not on its way out (R338). -/
theorem TakesPacket.sliceGoing_false : sliceGoing d q.slice = false := by
  simp [sliceGoing, ht.slice_st]

/-- Its state is one that takes responses (Table 3.1). -/
theorem TakesPacket.liveOrDrain : (q.st == .live || q.st == .drain) = true := by
  simpa using ht.running

/-- It drops no request (Table 3.1, R338). -/
theorem TakesPacket.dropsRequests_false : dropsRequests d q = false := by
  rcases ht.running with hst | hst <;> simp [dropsRequests, ht.sliceGoing_false, hst]

/-- A request that the queue pair takes is classified once its context is marked as used (R76, R90, R91). -/
theorem rxOnDie_of_takesPacket (hg : glazeOf p ≠ .bad) :
    rxOnDie qpn link p since d = runDeferreds qpn (rxClassify qpn link p since (cacheContext qpn d)) := by
  have hinit : q.st ≠ .init := by rcases ht.running with hst | hst <;> simp [hst]
  simp [rxOnDie, ht.found, ht.dropsRequests_false, authentic_of_plain ht.noKey ht.plain, hg, ht.slice_st, ht.notHeld, ht.notFrozen, hinit,
    ht.generation]

/-- A response-class packet acts once the context is marked as used; an authentic response ends the run of failures first (R446). -/
theorem rxRespOnDie_of_takesPacket (hg : respGlaze p = .good) :
    rxRespOnDie qpn link p since d =
      if phOp p.hdr = pkAck then rxAck qpn p since (cacheContext qpn d)
      else if phOp p.hdr = pkNak then rxNak qpn p (cacheContext qpn d)
      else rxResponse qpn link p (cacheContext qpn (setQp qpn { q with rqr := { q.rqr with authFails := 0 } } d)) := by
  have hauth : respAuthentic qpn q p d = (some p, if phOp p.hdr = pkAck ∨ phOp p.hdr = pkNak then d
      else setQp qpn { q with rqr := { q.rqr with authFails := 0 } } d) := by
    rw [respAuthentic, ht.plain, authentic_of_plain ht.noKey ht.plain]
    split
    · rfl
    · simp only [modQp_of_get ht.found]
  simp only [rxRespOnDie, ht.found, ht.notHeld, ht.notFrozen, ht.liveOrDrain, hauth, ht.generation, hg]
  by_cases hack : phOp p.hdr = pkAck
  · simp [hack]
  · by_cases hnak : phOp p.hdr = pkNak <;> simp [hack, hnak]

end

/-! ## The way of a packet from its link (R84, R87, R261, R266) -/

/-- A well-formed request for a queue pair of a pipeline whose response queue is full is dropped and counted (R261). -/
theorem rxRequest_of_respFull {link : Nat} {q : Qp} {p : Packet} {d : Dev} (hd : dataOn d = true) (hr : pkIsReq (phOp p.hdr) = true)
    (hm : reqMalformed p = false) (hdst : phDst p.hdr = d.routing.selfEpid) (hq : getQp d (phDqpn p.hdr) = some q)
    (hf : respFull d (phDqpn p.hdr % 4) = true) : rxRequest link p d = bump 0x1D (phDqpn p.hdr % 4) d := by
  simp [rxRequest, hd, forUs, hdst, pkIsResp_of_pkIsReq hr, hm, hq, pipeOf, hf]

/-- A well-formed request reaches the queue pair that takes it. -/
theorem rxRequest_of_takesPacket {link : Nat} {q : Qp} {p : Packet} {d : Dev} (ht : TakesPacket d (phDqpn p.hdr) q p)
    (hd : dataOn d = true) (hr : pkIsReq (phOp p.hdr) = true) (hm : reqMalformed p = false) (hdst : phDst p.hdr = d.routing.selfEpid)
    (hg : glazeOf p ≠ .bad) (hf : respFull d (phDqpn p.hdr % 4) = false) :
    rxRequest link p d =
      runDeferreds (phDqpn p.hdr) (rxClassify (phDqpn p.hdr) link p (timeNs d) (cacheContext (phDqpn p.hdr) d)) := by
  have hknown : rxKnown (phDqpn p.hdr) link q p d = rxOnDie (phDqpn p.hdr) link p (timeNs d) d := by
    rw [rxKnown, ht.dropsRequests_false, ht.cached, pipeOf, ht.noneParked]
    rfl
  simp [rxRequest, hd, forUs, hdst, pkIsResp_of_pkIsReq hr, hm, ht.found, pipeOf, hf, hknown, rxOnDie_of_takesPacket ht hg]

/-- A well-formed response-class packet of the row's kind reaches the queue pair that takes it. -/
theorem rxResp_of_takesPacket {kind : Nat → Bool} {link : Nat} {q : Qp} {p : Packet} {d : Dev} (ht : TakesPacket d (phDqpn p.hdr) q p)
    (hd : dataOn d = true) (hm : respMalformed p = false) (hdst : phDst p.hdr = d.routing.selfEpid) (hk : kind (phOp p.hdr) = true) :
    rxResp kind link p d = rxRespOnDie (phDqpn p.hdr) link p (timeNs d) d := by
  have hknown : rxRespKnown (phDqpn p.hdr) link q p d = rxRespOnDie (phDqpn p.hdr) link p (timeNs d) d := by
    simp [rxRespKnown, ht.slice_st, ht.sliceGoing_false, ht.liveOrDrain, ht.cached, pipeOf, ht.noneParked]
  simp [rxResp, hd, forUs, hdst, hk, hm, ht.found, hknown]

/-! ## The class of a request (R88, R90, R93, R100) -/

/-- A request takes at least one PSN (R88). -/
theorem one_le_reqSpan (q : Qp) (p : Packet) : 1 ≤ reqSpan q p := by
  rw [reqSpan]
  split
  · exact Nat.le_max_left _ _
  · exact le_refl 1

/-- A request other than READ_REQ takes one PSN (R88). -/
theorem reqSpan_of_data {q : Qp} {p : Packet} (hr : phOp p.hdr ≠ pkReadReq) : reqSpan q p = 1 := by
  rw [reqSpan, if_neg fun ⟨hread, _⟩ => hr hread]

/-- Data asks for no response. -/
theorem isFetch_of_data {p : Packet} (hr : phOp p.hdr ≠ pkReadReq) (ha : pkAtomic (phOp p.hdr) = false) : isFetch p = false := by
  simp [isFetch, pkFetches, hr, ha]

/-- The first packet of a READ_REQ is executed. -/
theorem isFetch_of_read {p : Packet} (hr : phOp p.hdr = pkReadReq) (hi : phIndex p.hdr = 0) : isFetch p = true := by
  simp [isFetch, pkFetches, hr, hi]

section
variable {qpn link since : Nat} {q : Qp} {p : Packet} {d : Dev} (hq : getQp d qpn = some q)
include hq

/-- Data that is a duplicate is acknowledged again, without effect (R100). -/
theorem rxClassify_of_duplicate (ha : acceptedPsn q.rsp (phPsn p.hdr) = true) (hr : phOp p.hdr ≠ pkReadReq)
    (hat : pkAtomic (phOp p.hdr) = false) : rxClassify qpn link p since d = ackNow qpn d := by
  simp [rxClassify, hq, ha, rxDuplicate, hr, hat]

/-- A request outside the window of 512 PSNs is answered with a SEQ NAK (R90). -/
theorem rxClassify_of_outside (ha : acceptedPsn q.rsp (phPsn p.hdr) = false) (hn : inFlight d qpn q (phPsn p.hdr) = false)
    (hw : 512 ≤ (phPsn p.hdr - q.rsp.epsn).toNat) (hk : (isFetch p && keyStopped d q) = false) :
    rxClassify qpn link p since d = sendNak qpn nakSeq 0 (phPsn p.hdr) d := by
  have hout : 512 < Machine.dist (phPsn p.hdr) q.rsp.epsn + reqSpan q p ∨ 64 < reqSpan q p :=
    .inl (Nat.add_le_add hw (one_le_reqSpan q p))
  simp only [rxClassify, hq, ha, hk, hn, if_pos hout, Bool.false_eq_true, if_false]

/-- The first packet of a new message opens it, with what waited for its descriptor, and its own data is placed (R93). -/
theorem rxClassify_of_first {desc : BitVec 128} (ha : acceptedPsn q.rsp (phPsn p.hdr) = false)
    (hn : inFlight d qpn q (phPsn p.hdr) = false) (hw : (phPsn p.hdr - q.rsp.epsn).toNat < 512) (hr : phOp p.hdr ≠ pkReadReq)
    (hat : pkAtomic (phOp p.hdr) = false) (hi : phIndex p.hdr = 0) (hd : p.desc = some desc) (hm : findMsg q (phPsn p.hdr) = none) :
    rxClassify qpn link p since d = placeData qpn link p since (placeWaiting qpn (phPsn p.hdr) (setQp qpn { q with rsp := { q.rsp with
      msgs := q.rsp.msgs ++ [newMsg (phPsn p.hdr) (phOp p.hdr) desc (parkedLen d qpn q (phPsn p.hdr)) d.now] } } d)) := by
  have hin : ¬(512 < Machine.dist (phPsn p.hdr) q.rsp.epsn + reqSpan q p ∨ 64 < reqSpan q p) := by
    rw [reqSpan_of_data hr, Machine.dist]
    omega
  have hfirst : phPsn p.hdr - u32 0 = phPsn p.hdr := by simp [u32]
  simp only [rxClassify, hq, ha, isFetch_of_data hr hat, hn, if_neg hin, hi, hfirst, hm, hd, modRsp, modQp_of_get hq, Bool.false_and,
    Bool.false_eq_true, if_false, if_true]

/-- A new READ_REQ of at most 64 PSNs inside the window waits for its turn (R92). -/
theorem rxClassify_of_read (ha : acceptedPsn q.rsp (phPsn p.hdr) = false) (hn : inFlight d qpn q (phPsn p.hdr) = false)
    (hr : phOp p.hdr = pkReadReq) (hi : phIndex p.hdr = 0) (hs : readSpan q (dsLen (p.desc.getD 0)) ≤ 64)
    (hw : (phPsn p.hdr - q.rsp.epsn).toNat + readSpan q (dsLen (p.desc.getD 0)) ≤ 512) (hk : keyStopped d q = false) :
    rxClassify qpn link p since d = setQp qpn { q with rsp := { q.rsp with deferred := q.rsp.deferred ++ [p] } } d := by
  have hspan : reqSpan q p = readSpan q (dsLen (p.desc.getD 0)) := if_pos ⟨hr, hi⟩
  have hin : ¬(512 < Machine.dist (phPsn p.hdr) q.rsp.epsn + reqSpan q p ∨ 64 < reqSpan q p) := by
    rw [hspan, Machine.dist]
    omega
  simp only [rxClassify, hq, ha, isFetch_of_read hr hi, hk, hn, if_neg hin, modRsp, modQp_of_get hq, Bool.and_false, Bool.false_eq_true,
    if_false, if_true]

end

end Sys2Proof.Machine

open Sys2Proof Sys2Proof.Machine

/-- Settles O10: past the checks of its header, the PSN decides which class a request is of. -/
theorem requestPacketsAreClassified : Obligations.RequestPacketsAreClassified := by
  unfold Obligations.RequestPacketsAreClassified
  intro s link p q q' hcar hr hm qpn hq hl hst hc hpark hkey henc hheld hfrozen hgen hg hq' hdst
  obtain ⟨ha, hd⟩ := hcar
  have ht : TakesPacket s.dev qpn q p := ⟨hq, hl, hst, hc, hpark, hkey, henc, hheld, hfrozen, hgen⟩
  have hexec (hf : respFull s.dev (qpn % 4) = false) : exec (.rxRequestPacket link p) s = after s (settleAll (startTriggered
      (runDeferreds qpn (rxClassify qpn link p (timeNs s.dev) (cacheContext qpn s.dev))))) := by
    show runRetire (rxRequest link p) s = _
    rw [runRetire_of_alive ha, rxRequest_of_takesPacket ht hd hr hm hdst hg hf]
  refine ⟨fun hfull => ?full, fun hf => ⟨fun hacc hop hat => ?duplicate, fun hacc hin hw hk => ?outside,
    fun desc hacc hin hw hop hat hi hdesc hmsg => ?first, fun hacc hin hop hi hspan hw hk => ?read⟩⟩
  case full =>
    show runRetire (rxRequest link p) s = _
    rw [runRetire_of_alive ha, rxRequest_of_respFull hd hr hm hdst hq hfull]
  case duplicate => rw [hexec hf, rxClassify_of_duplicate hq' hacc hop hat]
  case outside => rw [hexec hf, rxClassify_of_outside hq' hacc hin hw hk]
  case first => rw [hexec hf, rxClassify_of_first hq' hacc hin hw hop hat hi hdesc hmsg]
  case read => rw [hexec hf, rxClassify_of_read hq' hacc hin hop hi hspan hw hk]

/-- Settles O11: each row lets its own kind through, and the opcode then says what acts. -/
theorem responsePacketsAct : Obligations.ResponsePacketsAct := by
  unfold Obligations.ResponsePacketsAct
  intro s link p q hcar hm qpn hq hl hst hc hpark hkey henc hheld hfrozen hgen hg hdst
  obtain ⟨ha, hd⟩ := hcar
  have ht : TakesPacket s.dev qpn q p := ⟨hq, hl, hst, hc, hpark, hkey, henc, hheld, hfrozen, hgen⟩
  have hexec {kind : Nat → Bool} (hk : kind (phOp p.hdr) = true) : runRetire (rxResp kind link p) s = after s (settleAll (startTriggered
      (rxRespOnDie qpn link p (timeNs s.dev) s.dev))) := by
    rw [runRetire_of_alive ha, rxResp_of_takesPacket ht hd hm hdst hk]
  refine ⟨fun hop => ?ack, fun hop => ?nak, fun hop => ?response⟩
  case ack =>
    show runRetire (rxResp (· == pkAck) link p) s = _
    rw [hexec (by simpa using hop), rxRespOnDie_of_takesPacket ht hg, if_pos hop]
  case nak =>
    have hack : phOp p.hdr ≠ pkAck := by rw [hop]; decide
    show runRetire (rxResp (· == pkNak) link p) s = _
    rw [hexec (by simpa using hop), rxRespOnDie_of_takesPacket ht hg, if_neg hack, if_pos hop]
  case response =>
    have hack : phOp p.hdr ≠ pkAck := by rcases hop with hop | hop <;> rw [hop] <;> decide
    have hnak : phOp p.hdr ≠ pkNak := by rcases hop with hop | hop <;> rw [hop] <;> decide
    show runRetire (rxResp (fun op => op == pkReadResp || op == pkAtomicResp) link p) s = _
    rw [hexec (by simpa using hop), rxRespOnDie_of_takesPacket ht hg, if_neg hack, if_neg hnak]

end

section
/-!
PROOF. Translation by the host, and fetches from the stacks (03, 04): ATS completions, responses to page requests, Invalidate Requests, and
the reads of mirrored contexts and window entries.
-/
namespace Sys2Proof.Machine

/-! ## ATS and page requests (R149 to R151) -/

/-- A completion that grants an access puts the naturally aligned run into the cache, and each waiter goes on as far as the permissions let
it (R149, R150). -/
theorem atsCompletion_of_granted {slice page size pfn : Nat} {r w u : Bool} {k : Walk} {d : Dev}
    (hk : (d.xlt.walks.find? fun x => walkOf slice 0 page x && x.ats) = some k) (hp : r = true ∨ w = true) :
    atsCompletion slice page r w u size pfn d =
      k.waiters.foldl (fun t x =>
        if (lacksPerm x.2 r w).isSome then
          if (getSlice t slice).priStopped then deniedFails { k with waiters := [x] } t
          else waiterFaults slice 0 page 6 true x t
        else waiterGoes 0 page x t)
        (addTrans page ⟨slice, 0, (atsRun page size).1, (atsRun page size).2,
          if u then (atsRun page size).1 else pfn - (page - (atsRun page size).1), r, w, false, (getSlice d slice).epoch, true, u⟩
          (dropWalk k d)) := by
  have hgrants : (!r && !w) = false := by rcases hp with rfl | rfl <;> simp
  simp only [atsCompletion, hk, hgrants, Bool.false_eq_true, if_false]
  rfl

/-- A response acts on the outstanding fault that its page request carries. -/
theorem prgResponse_of_asked {slice page code : Nat} {f : Fault1} {d : Dev}
    (hf : ((hostFaults d slice).find? fun f => f.crumb.page == page && f.asked && !f.hasCrumb) = some f) :
    prgResponse slice page code d =
      if code = 0 then resolveFault true f d else if code = 1 then resolveFault false f d else prgFailure slice d := by
  simp only [prgResponse, hf]

/-- An invalidation closes the epoch that was current. -/
theorem invalidate_fst (slice space lo hi : Nat) (d : Dev) : (invalidate slice space lo hi d).1 = (getSlice d slice).epoch := rfl

/-- What an Invalidate Request does for one slice: it completes at once where no holder is left, and waits for the holders otherwise
(R143, R151). -/
def invalidateFor (lo hi itag : Nat) (d : Dev) (k : Nat) : Dev :=
  let e := (getSlice d k).epoch
  let t := (invalidate k 0 lo hi d).2
  if holdersOf t k e = [] then invalDone k e t else { t with waits := t.waits ++ [(noCmd, 0, .ats k e t.now false itag)] }

/-- An Invalidate Request acts on each slice that it concerns, one after another (R151). -/
theorem atsInvalidate_eq_foldl (pasid base length : Nat) (whole : Bool) (itag : Nat) (d : Dev) :
    atsInvalidate pasid base length whole itag d = atsInvalDone itag ((invalSlices d pasid whole).foldl
      (invalidateFor (if whole then 0 else base / 4096) (if whole then allPages else ceilDiv (base + length) 4096) itag) d) := by
  have hone (lo hi : Nat) : invalidateFor lo hi itag = fun t k =>
      let (e, t) := invalidate k 0 lo hi t
      if (holdersOf t k e).isEmpty then invalDone k e t
      else { t with waits := t.waits ++ [(noCmd, 0, .ats k e t.now false itag)] } := by
    funext t k
    simp only [invalidateFor, List.isEmpty_iff, invalidate_fst]
  rw [hone]
  rfl

/-! ## Mirrored reads (R77, R78, R115) -/

/-- A copy that reads well is taken from its primary. -/
theorem readMirrored_of_good {addr n header : Nat} {mirrorBad : Bool} {d : Dev} (h : poisonedAt d addr n = false) :
    readMirrored addr n header false mirrorBad d = (true, d) := by
  simp [readMirrored, h]

/-- A context that is not on-die comes in from its primary copy, and the packets parked for it go on (R77, R78). -/
theorem contextFetched_of_good {qpn : Nat} {q : Qp} {mirrorBad : Bool} {d : Dev} (hd : dataOn d = true) (hq : getQp d qpn = some q)
    (hc : q.cached = false) (hp : poisonedAt d (contextAddr qpn) 512 = false) :
    contextFetched qpn false mirrorBad d =
      ((parkedIn d (pipeOf qpn)).filter fun x => x.qpn == qpn && x.why == .context).foldl (fun t x => contextReady x t)
        (cacheContext qpn d) := by
  simp [contextFetched, hq, hc, hd, readMirrored_of_good hp]

/-- A live window entry that is not on-die enters its pipeline's cache. -/
theorem cacheWindow_of_out {i : Nat} {w : Window} {d : Dev} (hw : tget d.windows i = some w) (hv : w.v = true) (hc : w.cached = false) :
    cacheWindow i d = { evictWindow (pipeOf i) d with
      windows := tset (evictWindow (pipeOf i) d).windows i { w with cached := true, stored := encWindow w } } := by
  simp only [cacheWindow, hw, hv, hc, Bool.not_false, Bool.and_self, if_true]

/-- A window entry comes in from its primary copy, and the packets parked for it go on (R115). -/
theorem windowFetched_of_good {i : Nat} {w : Window} {mirrorBad : Bool} {d : Dev} (hd : dataOn d = true) (hw : tget d.windows i = some w)
    (hv : w.v = true) (hc : w.cached = false) (hp : poisonedAt d (windowAddr i) 16 = false) :
    windowFetched i false mirrorBad d =
      ((List.range 4).flatMap fun k => (parkedIn d k).filter fun x => x.why == .window i).foldl (fun t x => unpark x t) (cacheWindow i d) := by
  simp [windowFetched, hw, hv, hc, hd, readMirrored_of_good hp]

end Sys2Proof.Machine

open Sys2Proof Sys2Proof.Machine

/-- Settles O20: a completion, a response and a request of the host each have one guard, and so has a fetch whose primary copy is good. -/
theorem hostTranslationCompletes : Obligations.HostTranslationCompletes := by
  unfold Obligations.HostTranslationCompletes
  refine ⟨fun s slice page size pfn r w u k ha hk hp => ?ats, fun s slice page code f ha hf => ?page,
    fun s pasid base length itag whole ha => ?invalidate, fun s qpn q mirrorBad hcar hq hc hp => ?context,
    fun s i w mirrorBad hcar hw hv hc hp => ?window⟩
  case ats =>
    show runRetire (reopening (atsCompletion slice page r w u size pfn)) s = _
    rw [runRetire_of_alive ha]
    exact congrArg (fun d => after s (settleAll (startTriggered d))) (reopening_congr (atsCompletion_of_granted hk hp))
  case page =>
    show runRetire (prgResponse slice page code) s = _
    rw [runRetire_of_alive ha, prgResponse_of_asked hf]
  case invalidate =>
    show runLevels (atsInvalidate pasid base length whole itag) s = _
    rw [runLevels_of_alive ha, atsInvalidate_eq_foldl]
    rfl
  case context =>
    obtain ⟨ha, hd⟩ := hcar
    show runRetire (contextFetched qpn false mirrorBad) s = _
    rw [runRetire_of_alive ha, contextFetched_of_good hd hq hc hp]
    rfl
  case window =>
    obtain ⟨ha, hd⟩ := hcar
    show runRetire (windowFetched i false mirrorBad) s = _
    rw [runRetire_of_alive ha, windowFetched_of_good hd hw hv hc hp, cacheWindow_of_out hw hv hc]
    rfl

end

section
/-!
PROOF. Windows and the withdrawal of translations (04): what an invalidation takes from the caches, the commands on windows, roots and
epochs, and the waits on holders.
-/
namespace Sys2Proof.Machine

/-! ## What an invalidation withdraws (R124, R136, R143) -/

theorem getSlice_modSlice (k : Nat) (f : Slice → Slice) (d : Dev) : getSlice (modSlice k f d) k = f (getSlice d k) :=
  getSlice_setSlice _ _ _

theorem getSlice_modSlice_ne {k j : Nat} (f : Slice → Slice) (d : Dev) (h : j ≠ k) : getSlice (modSlice k f d) j = getSlice d j :=
  getSlice_setSlice_ne _ _ h

/-- An invalidation of a slice opens its next epoch. -/
theorem getSlice_invalidate (slice space lo hi : Nat) (d : Dev) :
    getSlice (invalidate slice space lo hi d).2 slice = { getSlice d slice with epoch := (getSlice d slice).epoch + 1 } :=
  getSlice_modSlice _ _ _

/-- Every other slice stays. -/
theorem getSlice_invalidate_ne {slice k : Nat} (space lo hi : Nat) (d : Dev) (h : k ≠ slice) :
    getSlice (invalidate slice space lo hi d).2 k = getSlice d k :=
  getSlice_modSlice_ne _ _ h

/-- The cached translations that stay: those of other slices, and those that lie outside the range and are not of the epoch that opens. -/
theorem mem_cache_invalidate {slice space lo hi : Nat} {d : Dev} {t : Trans} :
    t ∈ (invalidate slice space lo hi d).2.xlt.cache ↔ t ∈ d.xlt.cache ∧
      ¬(t.slice = slice ∧ (t.epoch = (getSlice d slice).epoch + 1 ∨ ((t.space = space ∧ t.page < hi) ∧ lo ≤ t.page + t.run))) := by
  simp only [invalidate, modSlice, setSlice, List.mem_filter, Bool.not_eq_true', ← Bool.not_eq_true, Bool.and_eq_true, Bool.or_eq_true,
    beq_iff_eq, decide_eq_true_eq]

/-- The FAILED records that stay. -/
theorem mem_failed_invalidate {slice space lo hi : Nat} {d : Dev} {f : FailedRec} :
    f ∈ (invalidate slice space lo hi d).2.xlt.failed ↔ f ∈ d.xlt.failed ∧
      ¬(((f.slice = slice ∧ f.space = space) ∧ lo ≤ f.page) ∧ f.page < hi) := by
  simp only [invalidate, modSlice, setSlice, List.mem_filter, Bool.not_eq_true', ← Bool.not_eq_true, Bool.and_eq_true, beq_iff_eq,
    decide_eq_true_eq]

/-- The table pointers that stay. -/
theorem mem_ptrs_invalidate {slice space lo hi : Nat} {d : Dev} {p : WalkPtr} :
    p ∈ (invalidate slice space lo hi d).2.xlt.ptrs ↔ p ∈ d.xlt.ptrs ∧
      ¬(((p.slice = slice ∧ p.space = space) ∧ p.at_ * 2 ^ (9 * (4 - p.level)) < hi) ∧ lo < (p.at_ + 1) * 2 ^ (9 * (4 - p.level))) := by
  simp only [invalidate, modSlice, setSlice, List.mem_filter, Bool.not_eq_true', ← Bool.not_eq_true, Bool.and_eq_true, beq_iff_eq,
    decide_eq_true_eq]

/-- A translation serves lookups of its own slice only, in the epoch in which it was filled. -/
theorem slice_and_epoch_of_transHits {d : Dev} {k sp page : Nat} {acc : BitVec 3} {t : Trans} (h : transHits d k sp page acc t = true) :
    t.slice = k ∧ t.epoch = (getSlice d k).epoch := by
  simp only [transHits, transCovers, Bool.and_eq_true, beq_iff_eq] at h
  obtain ⟨⟨⟨⟨⟨⟨⟨hslice, -⟩, hepoch⟩, -⟩, -⟩, -⟩, -⟩, -⟩ := h
  exact ⟨hslice, hepoch⟩

/-- Whether a translation serves a lookup depends on the state of the slice alone. -/
theorem transHits_congr {d t : Dev} {k : Nat} (h : getSlice t k = getSlice d k) (sp page : Nat) (acc : BitVec 3) :
    transHits t k sp page acc = transHits d k sp page acc := by
  funext x
  simp only [transHits, transCovers, inAllocation, h]

/-- A FAILED record stands for a page exactly where one is kept that names it. -/
theorem failedAt_eq_true_iff {d : Dev} {k sp page : Nat} :
    failedAt d k sp page = true ↔ ∃ f ∈ d.xlt.failed, (f.slice = k ∧ f.space = sp) ∧ f.page = page := by
  simp only [failedAt, List.any_eq_true, Bool.and_eq_true, beq_iff_eq]

/-- Nothing cached serves the slice after an invalidation: it would be of the epoch that opens, and that went. -/
theorem lookup_invalidate (slice space lo hi : Nat) (d : Dev) (sp page : Nat) (acc : BitVec 3) :
    lookup (invalidate slice space lo hi d).2 slice sp page acc = none := by
  refine List.find?_eq_none.mpr fun t ht hhit => ?_
  obtain ⟨hslice, hepoch⟩ := slice_and_epoch_of_transHits hhit
  rw [getSlice_invalidate] at hepoch
  exact (mem_cache_invalidate.mp ht).2 ⟨hslice, .inl hepoch⟩

/-- No FAILED record stands in the range after an invalidation. -/
theorem failedAt_invalidate {slice space lo hi page : Nat} (d : Dev) (hlo : lo ≤ page) (hhi : page < hi) :
    failedAt (invalidate slice space lo hi d).2 slice space page = false := by
  refine Bool.eq_false_iff.mpr fun h => ?_
  obtain ⟨f, hf, hkey, rfl⟩ := failedAt_eq_true_iff.mp h
  exact (mem_failed_invalidate.mp hf).2 ⟨⟨hkey, hlo⟩, hhi⟩

/-- Another slice's lookups find what they found. -/
theorem lookup_invalidate_ne {slice k : Nat} (space lo hi : Nat) (d : Dev) (h : k ≠ slice) (sp page : Nat) (acc : BitVec 3) :
    lookup (invalidate slice space lo hi d).2 k sp page acc = lookup d k sp page acc := by
  rw [lookup, transHits_congr (getSlice_invalidate_ne space lo hi d h)]
  refine find_filter_keep _ _ _ fun t hhit => ?_
  have hne : t.slice ≠ slice := (slice_and_epoch_of_transHits hhit).1 ▸ h
  simp [hne]

/-- Another slice's FAILED records stand where they stood. -/
theorem failedAt_invalidate_ne {slice k : Nat} (space lo hi : Nat) (d : Dev) (h : k ≠ slice) (sp page : Nat) :
    failedAt (invalidate slice space lo hi d).2 k sp page = failedAt d k sp page := by
  refine any_filter_keep _ _ _ fun f hf => ?_
  simp only [Bool.and_eq_true, beq_iff_eq] at hf
  obtain ⟨⟨rfl, -⟩, -⟩ := hf
  simp [h]

/-! ## Windows (R110 to R114) -/

theorem holdersOfWindow_eq_nil_iff {d : Dev} {i : Nat} : holdersOfWindow d i = [] ↔ ∀ x ∈ d.xlt.holders, x.window ≠ some i := by
  simp [holdersOfWindow]

theorem holdersOfWindow_ne_nil_iff {d : Dev} {i : Nat} : holdersOfWindow d i ≠ [] ↔ ∃ x ∈ d.xlt.holders, x.window = some i := by
  simp [holdersOfWindow]

/-- WIN_CREATE in a slice with room takes an index that is free, and writes its entry. -/
theorem winCreate_of_room {h : Cmd} {perm space base length : Nat} {d : Dev} (ha : accepts d 0x0201 h true = true) (hp : perm < 16)
    (hs : spaceOk space = true) (h0 : 0 < length) (hl : length < 2 ^ 48) (he : base + length ≤ 2 ^ 48)
    (hb : spaceBound d h.slice space = true) (hq : quotaFull d h.slice 2 = false) (hf : ∃ i, i < 2 ^ 24 ∧ windowFree d i = true) :
    ∃ i, i < 2 ^ 24 ∧ windowFree d i = true ∧ winCreate h perm space base length d =
      let t := evictWindow (i % 4) { d with freeCtr := d.freeCtr + 1 }
      let w := newWindow d i h.slice perm space base length
      reply (cmdRow 0x0201) h csOk 0 (packResult [(i * 256 + w.tag.toNat, 4)]) { t with windows := tset t.windows i w } := by
  obtain ⟨i, hi, hfree, hchoose⟩ := choose_some (d := d) hf
  refine ⟨i, hi, hfree, ?_⟩
  have hbase : base < 2 ^ 48 := by omega
  rw [winCreate, command_of_good _ ha ((firstBad_eq_none_iff _).mpr (by simp [-Nat.reducePow, hp, hs, h0, hl, he, hbase]))]
  simp only [hb, hq, hchoose, Bool.not_true, Bool.false_eq_true, if_false]
  rfl

/-- A window that WIN_DESTROY has taken out of use, while its holders stand. -/
def closingWindow (w : Window) : Window := { w with v := false, closing := true, cached := false }

/-- A window that closes is free from this moment on. -/
theorem freeWindow_of_closing {i : Nat} {w : Window} {d : Dev} (hw : tget d.windows i = some w) (hc : w.closing = true) :
    freeWindow i d = { d with windows := tset d.windows i { w with closing := false, freedAt := some d.now } } := by
  simp only [freeWindow, hw, hc, if_true]

/-- WIN_DESTROY of a live window of its own slice takes it out of use, and replies or waits as its holders let it. -/
theorem winDestroy_of_own {h : Cmd} {wkey : U32} {i : Nat} {w : Window} {d : Dev} (ha : accepts d 0x0202 h true = true)
    (hi : wkIndex wkey.toNat = i) (hw : tget d.windows i = some w) (hv : w.v = true) (ht : w.tag = wkTag wkey.toNat)
    (ho : w.owner = h.slice) :
    winDestroy h wkey d =
      if holdersOfWindow d i = [] then ok (cmdRow 0x0202) h (freeWindow i { d with windows := tset d.windows i (closingWindow w) })
      else waitOn h 0x0202 (.window i d.now) { d with windows := tset d.windows i (closingWindow w) } := by
  have hlive : (!w.v || decide (w.tag ≠ wkTag wkey.toNat)) = false := by simp [hv, ht]
  rw [winDestroy, command_of_good _ ha rfl]
  simp only [hi, hw, hlive, Bool.false_eq_true, if_false, if_neg (not_not_intro ho), List.isEmpty_iff, cmdRow_op 0x0202 rfl]
  rfl

/-- WIN_QUERY of a window of its own slice, live or closing, replies its entry. -/
theorem winQuery_of_own {h : Cmd} {i : Nat} {w : Window} {d : Dev} (ha : accepts d 0x0203 h true = true) (hi : i < 2 ^ 24)
    (hw : tget d.windows i = some w) (hv : w.v = true ∨ w.closing = true) (ho : w.owner = h.slice) :
    winQuery h i d = reply (cmdRow 0x0203) h csOk 0 (encWindow w) d := by
  have hthere : (!w.v && !w.closing) = false := by rcases hv with hv | hv <;> simp [hv]
  rw [winQuery, command_of_good _ ha ((firstBad_eq_none_iff _).mpr (by simp [-Nat.reducePow, hi]))]
  simp only [hw, hthere, ho, ne_eq, not_true_eq_false, Bool.false_eq_true, if_false]

/-! ## Roots and epochs (R122, R143, R145) -/

/-- A command that withdraws translations, where R146 lets it: it invalidates its range, and replies at once where no holder of the
epoch that closes, or of an earlier one, is left. -/
theorem withdraw_of_open {c : CmdInfo} {h : Cmd} {space lo hi : Nat} {first last : Dev → Dev} {wait : BitVec 16 → Nat → WaitOn}
    {d : Dev} (hc : (closedEpochs d h.slice).length < 4) :
    withdraw c h space lo hi first wait last d =
      let e := (getSlice (first d) h.slice).epoch
      let t := (invalidate h.slice space lo hi (first d)).2
      if holdersOf (first d) h.slice e = [] then reply c h csOk 0 (invalResult 0 e) (invalDone h.slice e (last t))
      else waitOn h c.op (wait e (first d).now) t := by
  rw [withdraw, if_neg (by omega)]
  simp only [List.isEmpty_iff]
  rfl

/-- The adapter with a root set, or cleared by the value 0. -/
def setRoot (k root : Nat) (d : Dev) : Dev :=
  { d with xlt := { d.xlt with roots := if root = 0 then tdel d.xlt.roots k else tset d.xlt.roots k root } }

/-- XLT_ROOT_SET with its fields in range withdraws the whole space under the new root. -/
theorem xltRootSet_of_accepts {h : Cmd} {space root : Nat} {d : Dev} (ha : accepts d 0x0204 h true = true) (hs : spaceOk space = true)
    (h4 : root % 4096 = 0) (hr : root < 2 ^ 52) :
    xltRootSet h space root d = withdraw (cmdRow 0x0204) h space 0 allPages (setRoot (h.slice * 16 + space) root)
      (fun e t => .epoch h.slice e t) id d := by
  rw [xltRootSet, command_of_good _ ha ((firstBad_eq_none_iff _).mpr (by simp [-Nat.reducePow, hs, h4, hr]))]
  rfl

/-- XLT_INVAL with its fields in range withdraws the pages that its bytes touch, or the whole space. -/
theorem xltInval_of_accepts {h : Cmd} {space whole base length : Nat} {d : Dev} (ha : accepts d 0x0205 h true = true)
    (hs : spaceOk space = true) (hw : (whole = 1 ∧ base = 0 ∧ length = 0) ∨ (whole = 0 ∧ 0 < length ∧ base + length ≤ 2 ^ 48)) :
    xltInval h space whole base length d = withdraw (cmdRow 0x0205) h space (if whole = 1 then 0 else base / 4096)
      (if whole = 1 then allPages else ceilDiv (base + length) 4096) id (fun e t => .epoch h.slice e t) id d := by
  have hfields : firstBad [(8, spaceOk space), (9, decide (whole < 2)), (16, decide (whole ≠ 1 ∨ base = 0)),
      (24, if whole = 1 then decide (length = 0) else decide (0 < length ∧ base + length ≤ 2 ^ 48))] = none := by
    rcases hw with ⟨rfl, rfl, rfl⟩ | ⟨rfl, h0, he⟩
    · simp [firstBad_eq_none_iff, hs]
    · simp [-Nat.reducePow, firstBad_eq_none_iff, hs, h0, he]
  rw [xltInval, command_of_good _ ha hfields]

/-- XLT_INVAL_WAIT of a closed epoch that is at most 32,768 back replies at once where no holder of it, or of an earlier one, is left. -/
theorem xltInvalWait_of_closed {h : Cmd} {epoch : Nat} {d : Dev} (ha : accepts d 0x0206 h true = true) (he : epoch < 65536)
    (hlo : 1 ≤ ((getSlice d h.slice).epoch - BitVec.ofNat 16 epoch).toNat)
    (hhi : ((getSlice d h.slice).epoch - BitVec.ofNat 16 epoch).toNat ≤ 32768) :
    xltInvalWait h epoch d =
      if holdersOf d h.slice (BitVec.ofNat 16 epoch) = [] then reply (cmdRow 0x0206) h csOk 0 0 (invalSeen h.slice d)
      else waitOn h 0x0206 (.epoch h.slice (BitVec.ofNat 16 epoch) d.now) d := by
  rw [xltInvalWait, command_of_good _ ha ((firstBad_eq_none_iff _).mpr (by simp [he]))]
  simp only [if_neg (show ¬(((getSlice d h.slice).epoch - BitVec.ofNat 16 epoch).toNat = 0
    ∨ 32768 < ((getSlice d h.slice).epoch - BitVec.ofNat 16 epoch).toNat) by omega), List.isEmpty_iff, cmdRow_op 0x0206 rfl]
  rfl

/-! ## The waits on holders (R114, R143 to R145) -/

/-- Every epoch is at most itself. -/
theorem epochLe_self (e : BitVec 16) : epochLe e e = true := by
  simp [epochLe]

/-- The mode that waits is taken once its epoch has completed and no Crumb of the slice is outstanding (Table 1.5). -/
theorem trySwitch_of_ready {slice : Nat} {v : Bool} {n : BitVec 16} {d : Dev} (hn : (getSlice d slice).xltHaNext = some (v, n, true))
    (hc : crumbsOut d slice = false) :
    trySwitch slice d = modSlice slice (fun x => { x with
      xltHa := v, xltHaNext := none, priStopped := x.priStopped && !(v && !x.xltHa) }) d := by
  simp only [trySwitch, hn, hc, Bool.false_eq_true, if_false]

/-- An invalidation of an epoch that a waiting mode waits for is the last thing that it waits for, where no Crumb is outstanding. -/
theorem invalDone_of_awaited {slice : Nat} {v done : Bool} {n : BitVec 16} {d : Dev}
    (hn : (getSlice d slice).xltHaNext = some (v, n, done)) (hc : crumbsOut d slice = false) :
    (getSlice (invalDone slice n d) slice).xltHa = v ∧ (getSlice (invalDone slice n d) slice).xltHaNext = none := by
  rw [invalDone, trySwitch_of_ready (v := v) (n := n), getSlice_modSlice]
  · exact ⟨rfl, rfl⟩
  · simp [getSlice_modSlice, hn, epochLe_self]
  · exact hc

/-- A closed epoch without holders has completed, whatever became of the command that closed it. -/
theorem invalSeen_of_no_holders {slice : Nat} {v done : Bool} {n : BitVec 16} {d : Dev}
    (hn : (getSlice d slice).xltHaNext = some (v, n, done)) (he : n ≠ (getSlice d slice).epoch) (hh : holdersOf d slice n = []) :
    invalSeen slice d = invalDone slice n d := by
  simp only [invalSeen, hn]
  rw [if_pos ⟨he, List.isEmpty_iff.mpr hh⟩]

/-- The last holder of a destroyed window has ended: its wait ends, and its index is free. -/
theorem holdersDone_of_window {slice i : Nat} {d : Dev} (h : holdersOfWindow d i = []) :
    holdersDone slice (some i) d = freeWindow i (d.waits.foldl (fun d w => endWindowWait i w d) d) := by
  simp only [holdersDone, h, List.isEmpty_nil, if_true]

/-- The last holder of a closed epoch has ended: the waits that it kept end, and once no closed epoch has holders the extents that were
taken back leave the slice. -/
theorem holdersDone_of_epoch (slice : Nat) (d : Dev) :
    holdersDone slice none d =
      let t := invalSeen slice (d.waits.foldl (fun d w => endEpochWait slice w d) d)
      if closedEpochs t slice = [] then modSlice slice (fun x => { x with removing := [] }) t else t := by
  simp only [holdersDone, List.isEmpty_iff]

/-- The passing of time leaves the windows alone. -/
theorem advanceTo_windows (t : Nat) (d : Dev) : (advanceTo t d).windows = d.windows := by
  unfold advanceTo
  split <;> rfl

/-- The oldest wait that has not timed out does so 200 µs after it began (R145). -/
theorem invalTimeout_of_waiting {slice t : Nat} {window : Option Nat} {w : Cmd × Nat × WaitOn} {d : Dev}
    (hw : (d.waits.find? fun w => (waitSince slice window w.2.2).isSome) = some w) (ht : waitSince slice window w.2.2 = some t) :
    invalTimeout slice window d = timeOutWait w (advanceTo (t + 200000) d) := by
  simp only [invalTimeout, hw, ht]
  rfl

/-- A wait on a window reports the holders to the window's owner. -/
theorem timeOutWait_window {h : Cmd} {op i t : Nat} {w : Window} {d : Dev} (hw : tget d.windows i = some w) :
    timeOutWait (h, op, .window i t) d = holderEvents w.owner (holdersOfWindow d i) true (reply (cmdRow op) h csInvalTimeout 0
      (packResult [(holderCount (holdersOfWindow d i), 4)]) (endWait (h, op, .window i t) d)) := by
  simp only [timeOutWait, hw, Option.map_some, Option.getD_some]

end Sys2Proof.Machine

open Sys2Proof Sys2Proof.Machine

/-- Settles O17: the epoch that opens has no translation of the slice, the range has none of its records and pointers, and whatever the
filters take is of the slice. -/
theorem invalidationWithdraws : Obligations.InvalidationWithdraws := by
  unfold Obligations.InvalidationWithdraws
  intro d slice space lo hi d'
  refine ⟨?epoch, fun k hk => getSlice_invalidate_ne space lo hi d hk, lookup_invalidate slice space lo hi d,
    fun page hlo hhi => failedAt_invalidate d hlo hhi, fun p hp hslice hspace => ?pointer,
    fun k sp page acc hk => ⟨lookup_invalidate_ne space lo hi d hk sp page acc, failedAt_invalidate_ne space lo hi d hk sp page⟩⟩
  case epoch => rw [getSlice_invalidate]
  case pointer =>
    by_contra hmeets
    obtain ⟨hbelow, habove⟩ := not_or.mp hmeets
    exact (mem_ptrs_invalidate.mp hp).2 ⟨⟨⟨hslice, hspace⟩, Nat.not_le.mp hbelow⟩, Nat.not_le.mp habove⟩

/-- Settles O15: the free index is the choice of the adapter; the holders of a destroyed window decide whether it waits. -/
theorem windowCommandsComplete : Obligations.WindowCommandsComplete := by
  unfold Obligations.WindowCommandsComplete
  refine ⟨fun s h perm space base length ⟨ha, hacc⟩ hp hs h0 hl he hb hq hf => ?create,
    fun s h wkey w ⟨ha, hacc⟩ hw hv htag ho => ?destroy,
    fun s h i w ⟨ha, hacc⟩ hi hw hv ho => ?query⟩
  case create =>
    obtain ⟨i, hi, hfree, heffect⟩ := winCreate_of_room hacc hp hs h0 hl he hb hq hf
    refine ⟨i, hi, hfree, ?_⟩
    show runLevels (winCreate h perm space base length) s = _
    rw [runLevels_of_alive ha, heffect]
    rfl
  case destroy =>
    have hexec : exec (.winDestroy h wkey) s = after s (settleAll (winDestroy h wkey s.dev)) := runLevels_of_alive ha
    rw [hexec, winDestroy_of_own (i := wkey.toNat / 256 % 2 ^ 24) hacc rfl hw hv htag ho]
    refine ⟨fun hn => ?free, fun hn => ?waits⟩
    case free =>
      rw [if_pos (holdersOfWindow_eq_nil_iff.mpr hn), freeWindow_of_closing (tget_tset_self _ _ _) rfl]
      rfl
    case waits =>
      rw [if_neg (holdersOfWindow_ne_nil_iff.mpr hn)]
      rfl
  case query =>
    show run (winQuery h i) s = _
    rw [run_of_alive ha, winQuery_of_own hacc hi hw hv ho]

/-- Settles O16: the three commands reply or wait by one test, whether a holder of the closed epoch or of an earlier one is left. -/
theorem rootAndInvalidationCommandsComplete : Obligations.RootAndInvalidationCommandsComplete := by
  unfold Obligations.RootAndInvalidationCommandsComplete
  refine ⟨fun s h space root ⟨ha, hacc⟩ hs h4 hr hc => ?root, fun s h space whole base length ⟨ha, hacc⟩ hs hw hc => ?inval,
    fun s h epoch ⟨ha, hacc⟩ he => ?wait⟩
  case root =>
    have hexec : exec (.xltRootSet h space root) s = after s (settleAll (xltRootSet h space root s.dev)) := runLevels_of_alive ha
    rw [hexec, xltRootSet_of_accepts hacc hs h4 hr, withdraw_of_open hc, cmdRow_op 0x0204 rfl]
    exact ⟨fun hn => congrArg (fun t => after s (settleAll t)) (if_pos hn),
      fun hn => congrArg (fun t => after s (settleAll t)) (if_neg hn)⟩
  case inval =>
    have hexec : exec (.xltInval h space whole base length) s = after s (settleAll (xltInval h space whole base length s.dev)) :=
      runLevels_of_alive ha
    rw [hexec, xltInval_of_accepts hacc hs hw, withdraw_of_open hc, cmdRow_op 0x0205 rfl]
    exact ⟨fun hn => congrArg (fun t => after s (settleAll t)) (if_pos hn),
      fun hn => congrArg (fun t => after s (settleAll t)) (if_neg hn)⟩
  case wait =>
    intro e hlo hhi
    have hexec : exec (.xltInvalWait h epoch) s = after s (settleAll (xltInvalWait h epoch s.dev)) := runLevels_of_alive ha
    rw [hexec, xltInvalWait_of_closed hacc he hlo hhi]
    exact ⟨fun hn => by rw [if_pos hn], fun hn => by rw [if_neg hn]⟩

/-- Settles O18: a wait ends with its last holder, or at its 200 µs. -/
theorem holderWaitsEnd : Obligations.HolderWaitsEnd := by
  unfold Obligations.HolderWaitsEnd
  refine ⟨fun s slice i ha hn => ?window, fun s slice ha => ?epoch, fun d slice v done n hn he hh hc => ?mode,
    fun s slice t h op e ha hw => ?epochTimeout, fun s slice i t h op w ha hx hw => ?windowTimeout⟩
  case window =>
    show runLevels (holdersDone slice (some i)) s = _
    rw [runLevels_of_alive ha, holdersDone_of_window (holdersOfWindow_eq_nil_iff.mpr hn)]
  case epoch =>
    show runLevels (holdersDone slice none) s = _
    rw [runLevels_of_alive ha, holdersDone_of_epoch]
    rfl
  case mode =>
    rw [invalSeen_of_no_holders hn he hh]
    exact invalDone_of_awaited hn hc
  case epochTimeout =>
    show runLevels (invalTimeout slice none) s = _
    rw [runLevels_of_alive ha, invalTimeout_of_waiting hw (if_pos rfl)]
    rfl
  case windowTimeout =>
    show runLevels (invalTimeout slice (some i)) s = _
    rw [runLevels_of_alive ha, invalTimeout_of_waiting hx (if_pos rfl), timeOutWait_window (by rw [advanceTo_windows]; exact hw)]
    rfl

end

section
/-!
PROOF. Fault queues, walks and the timers of faults (04): the commands of a slice's fault queue, the end of a walk, and the moments at
which a Crumb batch, a fault and a FAILED record are due.
-/
namespace Sys2Proof.Machine

/-! ## Fault queues (R131, R133, R134) -/

/-- FQ_CREATE in a slice without a fault queue makes one, and the Crumbs that waited for it are written. -/
theorem fqCreate_of_none {h : Cmd} {p : RingP} {d : Dev} (ha : accepts d 0x0208 h true = true) (hs : spaceOk p.space = true)
    (hlo : 6 ≤ p.lg) (hhi : p.lg ≤ 16) (hn : (getSlice d h.slice).faultQ = none)
    (hr : ringStatus d h.slice p.space p.base p.lg 32 = csOk) :
    fqCreate h p d = ok (cmdRow 0x0208) h (pumpCrumbs h.slice
      (modSlice h.slice (fun x => { x with faultQ := some (newRing p.space p.base p.lg p.index) }) d)) := by
  rw [fqCreate, command_of_good _ ha ((firstBad_eq_none_iff _).mpr (by simp [hs, hlo, hhi]))]
  simp only [hn, hr, Option.isSome_none, Bool.false_eq_true, if_false, ne_eq, not_true_eq_false]

/-- Every OUTCOME is RETRY or FAIL. -/
theorem outcomeBad_of_le_one {items : List (Nat × Nat)} (h : ∀ x ∈ items, x.2 ≤ 1) : outcomeBad items = none := by
  have hnone : (items.findIdx? fun x => decide (1 < x.2)) = none := by
    rw [List.findIdx?_eq_none_iff]
    intro x hx
    exact decide_eq_false (Nat.not_lt.mpr (h x hx))
  rw [outcomeBad, hnone, Option.map_none]

/-- XLT_RESOLVE with its fields in range resolves its faults in order, moves the consumer index, and writes what then has room. -/
theorem xltResolve_of_accepts {h : Cmd} {items : List (Nat × Nat)} {cons : U32} {d : Dev} (ha : accepts d 0x0207 h true = true)
    (hlo : 1 ≤ items.length) (hhi : items.length ≤ 16) (ho : ∀ x ∈ items, x.2 ≤ 1) :
    xltResolve h items cons d =
      let p := items.foldl (resolveOne h.slice) (0, d)
      let r := resolveIndex h.slice cons p.2
      reply (cmdRow 0x0207) h csOk 0 (packResult [(p.1, 1), (b2n r.1, 1)]) (trySwitch h.slice (pumpCrumbs h.slice (compareMarks r.2))) := by
  have hcount : firstBad [(8, decide (0 < items.length ∧ items.length ≤ 16))] = none :=
    (firstBad_eq_none_iff _).mpr (by simp [Nat.lt_of_succ_le hlo, hhi])
  rw [xltResolve, command_of_good _ ha (by rw [hcount, outcomeBad_of_le_one ho]; rfl)]

/-! ## The end of a walk (R125, R126, R128) -/

/-- A walk of a page is of its slice, its space and its page. -/
theorem walkOf_eq_true_iff {slice space page : Nat} {k : Walk} :
    walkOf slice space page k = true ↔ (k.slice = slice ∧ k.space = space) ∧ k.page = page := by
  simp only [walkOf, Bool.and_eq_true, beq_iff_eq]

/-- A waiter of a walk that has found a leaf with permissions `r` and `w`. -/
def waiterAtLeaf (slice space page : Nat) (r w : Bool) (d : Dev) (x : Requestor × BitVec 3) : Dev :=
  match lacksPerm x.2 r w with
  | some reason => waiterFaults slice space page reason false x d
  | none => waiterGoes space page x d

/-- A walk that its unit carries and that finds a leaf fills the walk cache and the translation cache, and each waiter goes on, or faults
where the leaf's permissions refuse its access. -/
theorem walkDone_of_leaf {slice space page pfn run : Nat} {r w ns : Bool} {k : Walk} {d : Dev}
    (hk : (d.xlt.walks.find? fun x => walkOf slice space page x && !x.ats && walkRuns d x) = some k)
    (hw : walk d slice space page 0 = .leaf pfn run r w ns) :
    walkDone slice space page d =
      let t := fillPtrs slice space page (dropWalk k d)
      k.waiters.foldl (waiterAtLeaf slice space page r w)
        (addTrans page ⟨slice, space, page, run, pfn, r, w, ns, (getSlice t slice).epoch, false, false⟩ t) := by
  have hfound := List.find?_some hk
  simp only [Bool.and_eq_true] at hfound
  obtain ⟨⟨hof, -⟩, -⟩ := hfound
  obtain ⟨⟨rfl, rfl⟩, rfl⟩ := walkOf_eq_true_iff.mp hof
  simp only [walkDone, hk, endWalk, hw]
  rfl

/-! ## Timers (R132, R136 to R138) -/

/-- A Crumb batch is delivered 20 µs after its first Crumb (R132). -/
theorem crumbBatchTimer_of_gathering {slice t : Nat} {d : Dev} (ht : (getSlice d slice).crumbsFrom = some t) :
    crumbBatchTimer slice d = trySwitch slice (deliverBatch slice (advanceTo (t + 20000) d)) := by
  rw [crumbBatchTimer, ht, Option.map_some, atExpiry_some]

/-- A fault of a queue's reads reaches FAULT_TIMEOUT: the queue's next entry fails (R138). -/
theorem faultTimeout_of_fetch {qpn t : Nat} {rq : Bool} {q : Qp} {d : Dev} (hq : getQp d qpn = some q) (hl : sliceLive d q.slice = true)
    (ht : (wq q rq).faultDue = some t) : faultTimeout qpn true rq d = stopFetch qpn rq true (wq q rq).next (advanceTo t d) := by
  simp only [faultTimeout, hq, hl, ht, atExpiry_some, Bool.not_true, Bool.false_eq_true, if_false, if_true]

/-- A fault of a send entry reaches FAULT_TIMEOUT: its queue pair goes to ERROR (R138, case 3). -/
theorem faultTimeout_of_send {qpn t : Nat} {rq : Bool} {q : Qp} {i : U32} {d : Dev} (hq : getQp d qpn = some q)
    (hl : sliceLive d q.slice = true) (ht : sendFaultDue d qpn q = some (t, i)) :
    faultTimeout qpn false rq d =
      enterError qpn stPageFault.toNat (some (((nextResend q).map (·.psn)).getD q.rqr.nextPsn)) 0 (some (false, i)) stPageFault
        (advanceTo t d) := by
  simp only [faultTimeout, hq, hl, ht, atExpiry_some, sendFaultOut, getQp_advanceTo, Bool.not_true, Bool.false_eq_true, if_false]

/-- A FAILED record goes at its moment (R136). -/
theorem failedExpiry_of_found {slice space page : Nat} {f : FailedRec} {d : Dev}
    (hf : (d.xlt.failed.find? fun f => f.slice == slice && f.space == space && f.page == page) = some f) :
    failedExpiry slice space page d =
      let t := advanceTo f.until_ d
      { t with xlt := { t.xlt with failed := t.xlt.failed.filter fun g => !(g == f) } } := by
  simp only [failedExpiry, hf, atExpiry_some]

end Sys2Proof.Machine

open Sys2Proof Sys2Proof.Machine

/-- Settles O19: each command and each end of a walk passes its guard, and each timer acts at its own moment. -/
theorem faultsAreResolved : Obligations.FaultsAreResolved := by
  unfold Obligations.FaultsAreResolved
  refine ⟨fun s h r ⟨ha, hacc⟩ hs hlo hhi hn hr => ?queue, fun s h items cons ⟨ha, hacc⟩ hlo hhi ho => ?resolve,
    fun s slice space page k pfn run r w ns ha hk hw => ?walk, fun s slice t ha ht => ?batch,
    fun s qpn t rq q ha hq hl ht => ?fetch, fun s qpn t rq q i ha hq hl ht => ?send, fun s slice space page f ha hf => ?record⟩
  case queue =>
    show runLevels (fqCreate h r) s = _
    rw [runLevels_of_alive ha, fqCreate_of_none hacc hs hlo hhi hn hr]
    rfl
  case resolve =>
    show runRetire (xltResolve h items cons) s = _
    rw [runRetire_of_alive ha, xltResolve_of_accepts hacc hlo hhi ho]
    rfl
  case walk =>
    show runRetire (walkDone slice space page) s = _
    rw [runRetire_of_alive ha, walkDone_of_leaf hk hw]
    rfl
  case batch =>
    show runLevels (crumbBatchTimer slice) s = _
    rw [runLevels_of_alive ha, crumbBatchTimer_of_gathering ht]
  case fetch =>
    show runRetire (faultTimeout qpn true rq) s = _
    rw [runRetire_of_alive ha, faultTimeout_of_fetch hq hl ht]
  case send =>
    show runRetire (faultTimeout qpn false rq) s = _
    rw [runRetire_of_alive ha, faultTimeout_of_send hq hl ht]
  case record =>
    show run (failedExpiry slice space page) s = _
    rw [run_of_alive ha, failedExpiry_of_found hf]

end

section
/-!
PROOF. Floating-point formats (05): the bits of a value are those it was read from.
-/
namespace Sys2Proof.Machine

/-! ## Floating-point formats (R160, R161) -/

/-- A number is its sign bit, its exponent field and its mantissa field, each in its place. -/
theorem sign_exponent_mantissa {eb mb x : Nat} (hx : x < 2 ^ (1 + eb + mb)) :
    b2n (x.testBit (eb + mb)) * 2 ^ (eb + mb) + (x / 2 ^ mb % 2 ^ eb) * 2 ^ mb + x % 2 ^ mb = x := by
  have hsign : b2n (x.testBit (eb + mb)) = x / 2 ^ mb / 2 ^ eb := by
    have hlt : x / 2 ^ (eb + mb) < 2 := Nat.div_lt_of_lt_mul (by rwa [← pow_succ, show eb + mb + 1 = 1 + eb + mb by omega])
    simp only [Nat.div_div_eq_div_mul, ← pow_add, Nat.add_comm mb, b2n, Nat.testBit_eq_decide_div_mod_eq, decide_eq_true_eq]
    generalize x / 2 ^ (eb + mb) = top at hlt ⊢
    split <;> omega
  rw [hsign, pow_add, ← Nat.mul_assoc, ← Nat.add_mul, Nat.div_add_mod', Nat.div_add_mod']

/-- A value that is a multiple of the spacing is not rounded. -/
theorem roundAt_self (m : Nat) (e : Int) : roundAt m e e none = m := by simp [roundAt]

/-- A significand with its leading 1 lies at the spacing of its own exponent. -/
theorem spacing_normal {f : FloatFmt} {ex ma : Nat} (hex : 1 ≤ ex) (hma : ma < 2 ^ f.mbits) :
    spacing f (2 ^ f.mbits + ma) ((ex : Int) - f.bias - f.mbits) = (ex : Int) - f.bias - f.mbits := by
  have hlog : Nat.log2 (2 ^ f.mbits + ma) = f.mbits :=
    (Nat.log2_eq_iff (by omega)).mpr ⟨by omega, by rw [pow_succ]; omega⟩
  rw [spacing, hlog, if_pos (by omega)]
  omega

/-- A subnormal value lies at the lowest spacing. -/
theorem spacing_subnormal {f : FloatFmt} {ma : Nat} (h0 : ma ≠ 0) (hma : ma < 2 ^ f.mbits) :
    spacing f ma (1 - (f.bias : Int) - f.mbits) = 1 - (f.bias : Int) - f.mbits := by
  have hlog : Nat.log2 ma < f.mbits := (Nat.log2_lt h0).mpr hma
  rw [spacing, if_neg (by omega)]

theorem floatBits_normal {f : FloatFmt} {ex ma : Nat} (s : Bool) (hex : 1 ≤ ex) (hma : ma < 2 ^ f.mbits) :
    floatBits f (.fin s (2 ^ f.mbits + ma) ((ex : Int) - f.bias - f.mbits)) =
      b2n s * 2 ^ (f.ebits + f.mbits) + ex * 2 ^ f.mbits + ma := by
  have hexp : ((ex : Int) - f.bias - f.mbits + f.mbits + f.bias).toNat = ex := by omega
  simp only [floatBits, spacing_normal hex hma, roundAt_self, hexp]
  rw [if_neg (by have := Nat.two_pow_pos f.mbits; omega), if_neg (by omega)]
  omega

theorem floatBits_subnormal {f : FloatFmt} {ma : Nat} (s : Bool) (hma : ma < 2 ^ f.mbits) :
    floatBits f (.fin s ma (1 - (f.bias : Int) - f.mbits)) = b2n s * 2 ^ (f.ebits + f.mbits) + ma := by
  by_cases h0 : ma = 0
  · simp [floatBits, h0]
  · simp only [floatBits, spacing_subnormal h0 hma, roundAt_self, if_neg h0, if_pos hma]

/-- In a format with both fields every encoding that is no NaN comes back from its value: an infinity, a subnormal or zero, and a normal
value each give their fields again. -/
theorem floatBits_floatVal {f : FloatFmt} {x : Nat} (he : 1 ≤ f.ebits) (hm : 1 ≤ f.mbits) (hx : x < 2 ^ (1 + f.ebits + f.mbits))
    (hn : isNan (floatVal f x) = false) : floatBits f (floatVal f x) = x := by
  have hex : bitsN x (f.ebits + f.mbits - 1) f.mbits = x / 2 ^ f.mbits % 2 ^ f.ebits := by
    rw [bitsN, Nat.shiftRight_eq_div_pow, show f.ebits + f.mbits - 1 + 1 - f.mbits = f.ebits by omega]
  have hma : bitsN x (f.mbits - 1) 0 = x % 2 ^ f.mbits := by
    rw [bitsN, Nat.shiftRight_zero, show f.mbits - 1 + 1 - 0 = f.mbits by omega]
  have hlt : x % 2 ^ f.mbits < 2 ^ f.mbits := Nat.mod_lt _ (Nat.two_pow_pos _)
  have hsum := sign_exponent_mantissa hx
  simp only [floatVal, hex, hma] at hn ⊢
  split at hn
  case isTrue htop =>
    rw [if_pos htop]
    by_cases h0 : x % 2 ^ f.mbits = 0
    · rw [if_pos h0]
      rw [htop.2, h0] at hsum
      exact hsum
    · simp [h0, isNan] at hn
  case isFalse htop =>
    rw [if_neg htop]
    split at hn
    case isTrue => simp [isNan] at hn
    case isFalse hones =>
      rw [if_neg hones]
      by_cases h0 : x / 2 ^ f.mbits % 2 ^ f.ebits = 0
      · rw [if_pos h0, floatBits_subnormal _ hlt]
        simpa [h0] using hsum
      · rw [if_neg h0, floatBits_normal _ (Nat.one_le_iff_ne_zero.mpr h0) hlt, hsum]

/-- Every format of Tables 5.2 and 5.3 has an exponent field and a mantissa field. -/
theorem floatFmt_fields {c : Nat} {f : FloatFmt} (h : floatFmt c = some f) : 1 ≤ f.ebits ∧ 1 ≤ f.mbits := by
  unfold floatFmt at h
  split at h
  case h_11 => exact absurd h nofun
  all_goals
    obtain rfl := Option.some.inj h
    decide

end Sys2Proof.Machine

open Sys2Proof Sys2Proof.Machine

/-- Settles O24: each format has both fields, and a value gives its fields again. -/
theorem formatsRoundTrip : Obligations.FormatsRoundTrip := by
  unfold Obligations.FormatsRoundTrip
  intro c f x hf hx hn
  obtain ⟨he, hm⟩ := floatFmt_fields hf
  exact floatBits_floatVal he hm hx hn

end

section
/-!
PROOF. Items on the transform engines (05, 06): the choice of an engine, and an item from its dispatch to its end.
-/
namespace Sys2Proof.Machine

/-! ## The choice of an engine (R154) -/

/-- Engine `e` is `x` or goes before it: it has fewer queued cycles, or as many and the lower number. -/
def noLaterThan (d : Dev) (e x : Nat) : Prop :=
  engineLoad d e ≤ engineLoad d x ∧ (engineLoad d x = engineLoad d e → e ≤ x)

theorem noLaterThan_refl (d : Dev) (e : Nat) : noLaterThan d e e := ⟨le_rfl, fun _ => le_rfl⟩

theorem noLaterThan_trans {d : Dev} {a b c : Nat} (hab : noLaterThan d a b) (hbc : noLaterThan d b c) : noLaterThan d a c := by
  obtain ⟨hle, htie⟩ := hab
  obtain ⟨hle', htie'⟩ := hbc
  exact ⟨hle.trans hle', fun h => (htie (by omega)).trans (htie' (by omega))⟩

/-- The packet core's choice once it has looked at `e` too. -/
def chooseEngine (d : Dev) (b : Option Nat) (e : Nat) : Option Nat :=
  match b with
  | none => some e
  | some x => if engineLoad d e < engineLoad d x ∨ (engineLoad d e = engineLoad d x ∧ e < x) then some e else b

theorem bestEngine_eq_foldl (d : Dev) (l : List Nat) : bestEngine d l = (inService d l).foldl (chooseEngine d) none := rfl

/-- Of two engines the choice is one that is no later than either. -/
theorem chooseEngine_some (d : Dev) (x e : Nat) :
    ∃ c, chooseEngine d (some x) e = some c ∧ (c = x ∨ c = e) ∧ noLaterThan d c x ∧ noLaterThan d c e := by
  by_cases h : engineLoad d e < engineLoad d x ∨ (engineLoad d e = engineLoad d x ∧ e < x)
  · exact ⟨e, if_pos h, .inr rfl, ⟨by omega, by omega⟩, noLaterThan_refl d e⟩
  · exact ⟨x, if_neg h, .inl rfl, noLaterThan_refl d x, ⟨by omega, by omega⟩⟩

/-- The choice over a list is one of its engines, and no later than any of them. -/
theorem foldl_chooseEngine {d : Dev} {e : Nat} (l : List Nat) (x : Nat) (h : l.foldl (chooseEngine d) (some x) = some e) :
    e ∈ x :: l ∧ ∀ y ∈ x :: l, noLaterThan d e y := by
  induction l generalizing x with
  | nil =>
    obtain rfl : x = e := by simpa using h
    simp [noLaterThan_refl]
  | cons a r ih =>
    obtain ⟨c, hc, hof, hcx, hca⟩ := chooseEngine_some d x a
    rw [List.foldl_cons, hc] at h
    obtain ⟨hmem, hleast⟩ := ih c h
    have hec : noLaterThan d e c := hleast c List.mem_cons_self
    refine ⟨?member, fun y hy => ?least⟩
    case member =>
      rcases List.mem_cons.mp hmem with rfl | hr
      · rcases hof with rfl | rfl <;> simp
      · simp [hr]
    case least =>
      rcases List.mem_cons.mp hy with rfl | hy
      · exact noLaterThan_trans hec hcx
      rcases List.mem_cons.mp hy with rfl | hy
      · exact noLaterThan_trans hec hca
      · exact hleast y (List.mem_cons_of_mem _ hy)

theorem mem_inService {d : Dev} {l : List Nat} {x : Nat} : x ∈ inService d l ↔ x ∈ l ∧ (getEngine d x).mode = .service := by
  simp [inService]

/-- The best engine is one of those in service, and no later than any of them. -/
theorem bestEngine_least {d : Dev} {l : List Nat} {e : Nat} (h : bestEngine d l = some e) :
    e ∈ inService d l ∧ ∀ x ∈ inService d l, noLaterThan d e x := by
  rw [bestEngine_eq_foldl] at h
  cases hl : inService d l with
  | nil => simp [hl] at h
  | cons a r =>
    rw [hl] at h
    exact foldl_chooseEngine r a h

/-! ## Dispatch of an item (R154, R184) -/

/-- An item whose entry bound its program, or whose slot still holds it with granules that fit, goes on under it. -/
theorem bindItem_of_same {i : Item} {d : Dev} (go : Dev → Dev) (hs : i.slot = none ∨ ∃ k g, i.slot = some k ∧
    findProg d i.slice k = some g ∧ g.id = i.prog ∧ i.len % Nat.max 1 g.inGran = 0) : bindItem i go d = go d := by
  rcases hs with hn | ⟨k, g, hk, hg, hid, hlen⟩
  · simp only [bindItem, hn]
  · simp only [bindItem, hk, hg, hlen, ne_eq, not_true_eq_false, if_false, hid, if_true]

/-- An item in whose slot a load has put another program takes that one. -/
theorem bindItem_of_replaced {i : Item} {k : Nat} {g : Program} {d : Dev} (go : Dev → Dev) (hk : i.slot = some k)
    (hg : findProg d i.slice k = some g) (hlen : i.len % Nat.max 1 g.inGran = 0) (hid : g.id ≠ i.prog) :
    bindItem i go d = go (modItem i.id (underProgram d g) d) := by
  simp only [bindItem, hk, hg, hlen, ne_eq, not_true_eq_false, if_false, if_neg hid]

/-- A bound item goes to the best engine of its program's set, which wakes. -/
def sendToEngine (id : Nat) (d : Dev) : Dev :=
  match ((findItem d id).bind fun i => progOf d i.prog).bind fun p => bestEngine d p.engines with
  | none => d
  | some e => fillEngine e 4 (startWake (.engine e) (modItem id (fun i => { i with stage := .waiting e }) d))

theorem sendToEngine_of_best {id e : Nat} {i : Item} {p : Program} {d : Dev} (hi : findItem d id = some i) (hp : progOf d i.prog = some p)
    (he : bestEngine d p.engines = some e) :
    sendToEngine id d = fillEngine e 4 (startWake (.engine e) (modItem id (fun i => { i with stage := .waiting e }) d)) := by
  simp only [sendToEngine, hi, Option.bind_some, hp, he]

theorem itemDispatch_of_queued {id : Nat} {i : Item} {d : Dev} (hi : findItem d id = some i) (hq : i.stage = .queued)
    (hl : sliceLive d i.slice = true) : itemDispatch id d = bindItem i (sendToEngine id) d := by
  simp only [itemDispatch, hi, hl, hq, Bool.not_true, Bool.false_eq_true, if_false]
  rfl

/-! ## Range locks, the end of an item, and accumulates (R192, R195, R212) -/

theorem rangeLockGrant_of_free {id e : Nat} {i : Item} {d : Dev} (hi : findItem d id = some i) (hw : i.stage = .waitLock e)
    (hf : lockFree (dropLocks d) i = true) : rangeLockGrant id d = takeLocks e i (dropLocks d) := by
  simp only [rangeLockGrant, hi, hw, hf, if_true]

/-- The end of a holder leaves every slice as it is. -/
theorem sliceLive_endHolder (t : Option Nat) (d : Dev) (k : Nat) : sliceLive (endHolder t d) k = sliceLive d k := by
  cases t <;> rfl

/-- The output of an item that does not go out by pages is delivered as the item ends, and it leaves its engine. -/
theorem itemEnd_of_delivered {id e : Nat} {x t : ReadData} {i : Item} {p : Program} {d : Dev} (hi : findItem d id = some i)
    (hr : i.stage = .resident e) (hp : progOf d i.prog = some p) (hc : readsClosed d i p = false) (hl : sliceLive d i.slice = true)
    (hw : writesLate i p = false ∨ (itemInput d i x).refused = true) :
    itemEnd id x t d =
      let u := endHolder i.srcToken d
      leaveEngine e (dropLocks (deliverItem i p (itemInput d i x) (itemTarget d i p t) (itemEntry d i)
        { u with items := u.items.filter fun x => !(x.id == id) })) := by
  have hpages : (writesLate i p && sliceLive (endHolder i.srcToken d) i.slice && !(itemInput d i x).refused) = false := by
    rcases hw with h | h <;> simp [h]
  have hlive : sliceLive { endHolder i.srcToken d with items := (endHolder i.srcToken d).items.filter fun x => !(x.id == id) } i.slice =
      true := (sliceLive_endHolder i.srcToken d i.slice).trans hl
  simp only [itemEnd, hi, hr, hp, hc, hpages, hlive, Bool.false_eq_true, if_false, if_true]

/-- The output of an item that goes out by pages is made, and written as its pages translate. -/
theorem itemEnd_of_writesLate {id e : Nat} {x t : ReadData} {i : Item} {p : Program} {d : Dev} (hi : findItem d id = some i)
    (hr : i.stage = .resident e) (hp : progOf d i.prog = some p) (hc : readsClosed d i p = false) (hl : sliceLive d i.slice = true)
    (hw : writesLate i p = true) (hx : (itemInput d i x).refused = false) :
    itemEnd id x t d = makeItem e i p (itemInput d i x) (endHolder i.srcToken d) := by
  simp only [itemEnd, hi, hr, hp, hc, hw, hx, sliceLive_endHolder, hl, Bool.and_true, Bool.not_false, Bool.false_eq_true, if_false, if_true]

/-- The pieces of a packet's accumulate are committed in the slice of its queue pair. -/
theorem accumulateCommit_of_pieces {qpn : Nat} {psn : U32} {q : Qp} {d : Dev} (hq : getQp d qpn = some q)
    (ha : ∃ a ∈ d.accums, a.qpn = qpn ∧ a.psn = psn) :
    accumulateCommit qpn psn d = dataPlaced qpn (commitPieces q.slice (d.accums.filter fun a => a.qpn == qpn && a.psn == psn)
      { d with accums := d.accums.filter fun a => !(a.qpn == qpn && a.psn == psn) }) := by
  obtain ⟨a, hmem, hqpn, hpsn⟩ := ha
  have hne : (d.accums.filter fun a => a.qpn == qpn && a.psn == psn).isEmpty = false := by
    rw [List.isEmpty_eq_false_iff_exists_mem]
    exact ⟨a, List.mem_filter.mpr ⟨hmem, by simp [hqpn, hpsn]⟩⟩
  simp only [accumulateCommit, List.partition_eq_filter_filter, hne, hq, Bool.false_eq_true, if_false, Option.map_some, Option.getD_some]
  rfl

end Sys2Proof.Machine

open Sys2Proof Sys2Proof.Machine

/-- Settles O23: the choice is a least engine of the set's engines in service, in the order of queued cycles and then of numbers. -/
theorem dispatchPicksLeastLoaded : Obligations.DispatchPicksLeastLoaded := by
  unfold Obligations.DispatchPicksLeastLoaded
  intro d l e h
  obtain ⟨hmem, hleast⟩ := bestEngine_least h
  obtain ⟨hset, hservice⟩ := mem_inService.mp hmem
  exact ⟨hset, hservice, fun x hx hs => hleast x (mem_inService.mpr ⟨hx, hs⟩)⟩

/-- Settles O22: an item is bound and then sent to its engine; a lock, an end and an accumulate each pass the guards that the clause
gives. -/
theorem engineWorkCompletes : Obligations.EngineWorkCompletes := by
  unfold Obligations.EngineWorkCompletes
  refine ⟨fun s id e i p ha hi hq hl hs hp he => ?bound, fun s id k e i i' g p ha hi hq hl hk hg hlen hid hi' hp he => ?replaced,
    fun s id e i ha hi hw hf => ?lock, fun s id e x t i p ha hi hr hp hc hl => ⟨fun hw => ?delivered, fun hw hx => ?late⟩,
    fun s qpn psn q ha hq hacc => ?accumulate⟩
  case bound =>
    show runRetire (itemDispatch id) s = _
    rw [runRetire_of_alive ha, itemDispatch_of_queued hi hq hl, bindItem_of_same _ hs, sendToEngine_of_best hi hp he]
    rfl
  case replaced =>
    show runRetire (itemDispatch id) s = _
    rw [runRetire_of_alive ha, itemDispatch_of_queued hi hq hl, bindItem_of_replaced _ hk hg hlen hid,
      sendToEngine_of_best (d := modItem i.id (underProgram s.dev g) s.dev) hi' hp he]
    rfl
  case lock =>
    show run (rangeLockGrant id) s = _
    rw [run_of_alive ha, rangeLockGrant_of_free hi hw hf]
    rfl
  case delivered =>
    show runRetire (itemEnd id x t) s = _
    rw [runRetire_of_alive ha, itemEnd_of_delivered hi hr hp hc hl hw]
  case late =>
    show runRetire (itemEnd id x t) s = _
    rw [runRetire_of_alive ha, itemEnd_of_writesLate hi hr hp hc hl hw hx]
  case accumulate =>
    show runRetire (accumulateCommit qpn psn) s = _
    rw [runRetire_of_alive ha, accumulateCommit_of_pieces hq hacc]

end

section
/-!
PROOF. Program commands (05): what each command does once its checks are passed.
-/
namespace Sys2Proof.Machine

/-! ## The program commands (R171, R179, R181 to R185) -/

/-- An image that passes its checks and fits, of which no page misses, is placed in its slot. -/
theorem txeLoadBody_of_fits {slot mask space : Nat} {im : ImageRead} {h : Cmd} {c : CmdInfo} {d t : Dev} {x : Image}
    {r : List Program × Program} (ht : (readImage h.slice space im d).2 = t) (hm : imageMisses d h.slice space im = [])
    (hx : checkImage (readImage h.slice space im d).1 = .inr x) (hk : mask = 0 ∨ (maskEngines mask).length = x.engines)
    (hp : placeImage t t.programs h.slice slot mask t.freeCtr x = r) (hf : fitFails t r.1 h.slice r.2 x.engines = none) :
    txeLoadBody slot mask space im h c d =
      replyPinned (pinnedObjs t) c h (maskOf r.2.engines) { t with programs := r.1, freeCtr := t.freeCtr + 1 } := by
  have hmask : ¬(mask ≠ 0 ∧ (maskEngines mask).length ≠ x.engines) := by tauto
  subst ht
  obtain ⟨l, p⟩ := r
  simp only [txeLoadBody, hm, List.isEmpty_nil, if_true, loadImage, hx, if_neg hmask, hp, hf]

/-- No program of a plan fails to fit where each one fits. -/
theorem findSome_fitFails_eq_none {d : Dev} {l : List Program} {slice : Nat} {ps : List (Program × Nat)}
    (h : ∀ x ∈ ps, fitFails d l slice x.1 x.2 = none) :
    (ps.zipIdx.findSome? fun x => (fitFails d l slice x.1.1 x.1.2).map fun n => (x.2, n)) = none := by
  rw [List.findSome?_eq_none_iff]
  intro x hx
  rw [h x.1 (List.fst_mem_of_mem_zipIdx hx), Option.map_none]

/-- A plan whose images can all be placed, and fit together, is placed as a whole. -/
theorem txePlanLoadBody_of_fits {items : List PlanItem} {h : Cmd} {c : CmdInfo} {d t : Dev} {l : List Program} {ps : List (Program × Nat)}
    (ht : (readPlan h.slice items d).2 = t) (hm : ∀ x ∈ items, imageMisses d h.slice x.space x.image = [])
    (hp : placePlan t h.slice 0 (readPlan h.slice items d).1 t.programs [] = .inr (l, ps))
    (hf : ∀ x ∈ ps, fitFails t l h.slice x.1 x.2 = none) :
    txePlanLoadBody items h c d =
      replyPinned (pinnedObjs t) c h 0 { t with programs := l, freeCtr := t.freeCtr + (readPlan h.slice items d).1.length } := by
  have hmiss : (items.flatMap fun x => imageMisses d h.slice x.space x.image) = [] := List.flatMap_eq_nil_iff.mpr hm
  subst ht
  simp only [txePlanLoadBody, hmiss, List.isEmpty_nil, if_true, loadPlan, hp, findSome_fitFails_eq_none hf]

/-- The images of a plan are as many read as named. -/
theorem length_readPlan (slice : Nat) (items : List PlanItem) (d : Dev) : (readPlan slice items d).1.length = items.length := by
  induction items generalizing d with
  | nil => rfl
  | cons x r ih => simp [readPlan, ih]

/-- The fields of a plan are in range: it has 1 to 64 images, for different slots, each with its own fields in range. -/
theorem firstBad_plan {items : List PlanItem} (hlo : 1 ≤ items.length) (hhi : items.length ≤ 64) (hd : (items.map (·.slot)).Nodup)
    (hr : ∀ x ∈ items, x.slot < 64 ∧ x.mask < 2 ^ 24 ∧ x.space < 2 ∧ x.image.addr + x.image.len ≤ 2 ^ 48) :
    firstBad [(8, decide (1 ≤ items.length) && decide (items.length ≤ 64) && decide (items.map (·.slot)).Nodup
      && items.all fun x => decide (x.slot < 64) && decide (x.mask < 2 ^ 24) && decide (x.space < 2) && imageFits x.image)] = none := by
  have hall : (items.all fun x => decide (x.slot < 64) && decide (x.mask < 2 ^ 24) && decide (x.space < 2) && imageFits x.image) = true := by
    rw [List.all_eq_true]
    intro x hx
    obtain ⟨hslot, hmask, hspace, himage⟩ := hr x hx
    simp only [imageFits, hslot, hmask, hspace, himage, decide_true, Bool.and_self]
  rw [hall]
  simp [firstBad_eq_none_iff, hlo, hhi, hd]

/-- TXE_UNLOAD empties the slot and waits for what runs its program (R185). -/
theorem txeUnloadBody_of_found {slot : Nat} {h : Cmd} {c : CmdInfo} {d : Dev} {p : Program} (hp : findProg d h.slice slot = some p) :
    txeUnloadBody slot h c d = unpinned (pinnedObjs d) (waitOn h c.op (.program p.id) { d with
      programs := d.programs.map fun q => if q.id = p.id then { q with dead := true } else q }) := by
  simp only [txeUnloadBody, hp]

/-- TXE_AUX_WRITE inside the program's AUX region writes it (R179). -/
theorem txeAuxWriteBody_of_inside {slot offset : Nat} {data : List Byte} {h : Cmd} {c : CmdInfo} {d : Dev} {p : Program}
    (hp : findProg d h.slice slot = some p) (hi : offset + data.length ≤ p.auxBytes) :
    txeAuxWriteBody slot offset data h c d = ok c h { d with
      programs := d.programs.map fun q => if q.id = p.id then { q with aux := patchBytes q.aux offset data } else q } := by
  simp only [txeAuxWriteBody, hp, if_neg (Nat.not_lt.mpr hi)]

/-- The engines with a seed set in each of a list. -/
def seedEngines (seed : U64) (l : List Nat) (t : Tbl Engine) : Tbl Engine :=
  l.foldl (fun t e => tset t e { tgetD t e Engine.reset with seed := seed }) t

/-- TXE_SEED sets the seed of the engines that its mask names (R171). -/
theorem txeSeedBody_eq (mask : Nat) (seed : U64) (h : Cmd) (c : CmdInfo) (d : Dev) :
    txeSeedBody mask seed h c d = ok c h { d with engines := seedEngines seed (maskEngines mask) d.engines } := rfl

/-- An engine has the seed where the list names it, and is as before where it does not. -/
theorem tgetD_seedEngines (seed : U64) (l : List Nat) (t : Tbl Engine) (e : Nat) :
    tgetD (seedEngines seed l t) e Engine.reset =
      if e ∈ l then { tgetD t e Engine.reset with seed := seed } else tgetD t e Engine.reset := by
  induction l generalizing t with
  | nil => simp [seedEngines]
  | cons a r ih =>
    have hstep : seedEngines seed (a :: r) t = seedEngines seed r (tset t a { tgetD t a Engine.reset with seed := seed }) := rfl
    rw [hstep, ih]
    by_cases hea : e = a
    · subst hea
      simp
    · simp [tgetD_tset_ne _ _ _ hea, hea]

theorem mem_maskEngines {mask e : Nat} : e ∈ maskEngines mask ↔ e < 24 ∧ mask.testBit e = true := by
  simp [maskEngines]

end Sys2Proof.Machine

open Sys2Proof Sys2Proof.Machine

/-- Settles O21: each clause's conditions are the guards of the command's own rule, past the checks of every command; a seed reaches exactly
the engines that the mask names. -/
theorem programCommandsComplete : Obligations.ProgramCommandsComplete := by
  unfold Obligations.ProgramCommandsComplete
  refine ⟨fun s h slot mask space im x ht hslot hmask hspace him hm hx hk hf => ?load,
    fun s h items l ps ht hlo hhi hd hr hm hp hf => ?plan, fun s h slot p ht hslot hp => ?unload,
    fun s h slot offset data p ht hslot hp hi => ?aux, fun s h mask seed ht hmask => ?seed⟩
  case load =>
    have hfields : firstBad [(8, decide (slot < 64)), (12, decide (mask < 2 ^ 24)), (16, decide (space < 2)), (24, imageFits im)] = none := by
      simp [-Nat.reducePow, firstBad_eq_none_iff, imageFits, hslot, hmask, hspace, him]
    have hexec : exec (.txeLoad h slot mask space im) s =
        after s (settleAll (txeLoadBody slot mask space im h (cmdRow 0x0301) s.dev)) :=
      runLevels_command_of_takes (txeLoadBody slot mask space im h) ht hfields
    rw [hexec, txeLoadBody_of_fits rfl hm hx hk rfl hf]
  case plan =>
    have hexec : exec (.txePlanLoad h items) s = after s (settleAll (txePlanLoadBody items h (cmdRow 0x0302) s.dev)) :=
      runLevels_command_of_takes (txePlanLoadBody items h) ht (firstBad_plan hlo hhi hd hr)
    rw [hexec, txePlanLoadBody_of_fits rfl hm hp hf, length_readPlan]
  case unload =>
    have hexec : exec (.txeUnload h slot) s = after s (settleAll (txeUnloadBody slot h (cmdRow 0x0303) s.dev)) :=
      runLevels_command_of_takes (txeUnloadBody slot h) ht (by simp [firstBad_eq_none_iff, hslot])
    rw [hexec, txeUnloadBody_of_found hp, cmdRow_op 0x0303 rfl]
  case aux =>
    have hexec : exec (.txeAuxWrite h slot offset data) s = after s (txeAuxWriteBody slot offset data h (cmdRow 0x0304) s.dev) :=
      run_command_of_takes (txeAuxWriteBody slot offset data h) ht (by simp [firstBad_eq_none_iff, hslot])
    rw [hexec, txeAuxWriteBody_of_inside hp hi]
  case seed =>
    have hexec : exec (.txeSeed h mask seed) s = after s (txeSeedBody mask seed h (cmdRow 0x0305) s.dev) :=
      run_command_of_takes (txeSeedBody mask seed h) ht (by simp [-Nat.reducePow, firstBad_eq_none_iff, hmask])
    refine ⟨seedEngines seed (maskEngines mask) s.dev.engines, by rw [hexec, txeSeedBody_eq], fun e he hb => ?_, fun e he => ?_⟩
    · rw [tgetD_seedEngines, if_pos (mem_maskEngines.mpr ⟨he, hb⟩)]
    · have hout : e ∉ maskEngines mask := by
        rw [mem_maskEngines]
        rintro ⟨hlt, hb⟩
        rcases he with hge | hclear
        · omega
        · simp [hb] at hclear
      rw [tgetD_seedEngines, if_neg hout]

end

section
/-!
PROOF. Groups (06): what COLL_CREATE, COLL_DESTROY, COLL_RESET and MOE_BIND do once nothing refuses them, a group's turn, its timeout, and the
algorithm that ALGO 0 takes.
-/
namespace Sys2Proof.Machine

/-! ## The choice of an algorithm (R205, Table 6.7) -/

theorem ringUsable_iff (mask op : Nat) :
    (algoPermitted mask 1 = true ∧ algoSupports op 1 = true) ↔ mask.testBit 0 = true ∧ op ≠ allToAll := by
  simp [algoPermitted, algoSupports]

theorem treeUsable_iff (mask op : Nat) :
    (algoPermitted mask 2 = true ∧ algoSupports op 2 = true) ↔ mask.testBit 1 = true ∧ (op = allReduce ∨ op = broadcast) := by
  simp [algoPermitted, algoSupports]

theorem directUsable_iff (mask op : Nat) :
    (algoPermitted mask 3 = true ∧ algoSupports op 3 = true) ↔ mask.testBit 2 = true := by
  simp [algoPermitted, algoSupports]

/-- The list of R205: a small group directly, a small array by the tree, then the ring, and last what neither size favours. -/
theorem chooseAlgo_eq (mask n op size : Nat) : chooseAlgo mask n op size =
    if mask.testBit 2 = true ∧ n ≤ 64 then 3
    else if (mask.testBit 1 = true ∧ (op = allReduce ∨ op = broadcast)) ∧ size < 262144 then 2
    else if mask.testBit 0 = true ∧ op ≠ allToAll then 1
    else if mask.testBit 2 = true then 3
    else if mask.testBit 1 = true ∧ (op = allReduce ∨ op = broadcast) then 2
    else 0 := by
  simp only [chooseAlgo, Bool.and_eq_true, decide_eq_true_eq, ringUsable_iff, treeUsable_iff, directUsable_iff]

/-! ## Commands on groups (R197 to R199, R210, R218, R219) -/

/-- A command on a group of its own slice reaches the group. -/
theorem onGroup_of_own {gid : Nat} {h : Cmd} {c : CmdInfo} {g : Group} {d : Dev} (body : CmdInfo → Group → Dev → Dev)
    (hg : tget d.groups gid = some g) (hs : g.slice = h.slice) : onGroup gid h body c d = body c g d := by
  simp [onGroup, hg, hs]

/-- COLL_CREATE of a group that is not there, with parameters that Table 6.3 and R211 accept and room in the slice's quota. -/
theorem collCreateBody_of_free {p : CollP} {h : Cmd} {c : CmdInfo} {d : Dev} (hr : collRefusal d h.slice p (newGroup d h.slice p) = none)
    (hf : tget d.groups p.group = none) (hq : quotaFull d h.slice 9 = false) :
    collCreateBody p h c d = ok c h (setGroup p.group (newGroup d h.slice p) d) := by
  simp [collCreateBody, hf, hr, hq]

/-- No queue pair takes a group's MTU above the largest. -/
theorem groupMtu_le (d : Dev) (g : Group) : groupMtu d g ≤ 8192 := by
  refine foldl_keep (P := fun a b : Nat => b ≤ a) (fun _ => le_rfl) (fun _ _ _ hab hbc => hbc.trans hab) _ (fun n m => ?_) g.members 8192
  split
  · split
    · exact Nat.min_le_left _ _
    · exact le_rfl
  · exact le_rfl

/-- Parameters that suit a smaller MTU suit a larger one. -/
theorem moeRange_mono {p : MoeP} {m n : Nat} (hm : firstBad (moeRange p m) = none) (hmn : m ≤ n) : firstBad (moeRange p n) = none := by
  simp only [firstBad_eq_none_iff, moeRange, List.forall_mem_cons, Bool.and_eq_true, decide_eq_true_eq] at hm ⊢
  obtain ⟨hexperts, hk, hlocal, hcap, ⟨⟨hrow, hrowMax⟩, hrowMod⟩, ⟨⟨hout, houtMax⟩, houtMod⟩, hrest⟩ := hm
  exact ⟨hexperts, hk, hlocal, hcap, ⟨⟨hrow, hrowMax.trans hmn⟩, hrowMod⟩, ⟨⟨hout, houtMax.trans hmn⟩, houtMod⟩, hrest⟩

/-- MOE_BIND of an idle group of one channel that permits the direct algorithm, with a good map and a combining program that fits. The binding
replaces one that the group has (log 126). -/
theorem moeBindBody_of_good {p : MoeP} {h : Cmd} {c : CmdInfo} {g : Group} {d : Dev} (hr : firstBad (moeRange p (groupMtu d g)) = none)
    (hc : g.p.channels = 1) (ha : g.p.algoMask.testBit 2 = true) (hi : inAllocation d h.slice p.map (4 * p.experts) = true)
    (hp : poisonedAt d p.map (4 * p.experts) = false) (hm : (readWords d.mem p.map p.experts).all (mapOk g p) = true)
    (hs : reducerOk d h.slice p.combSlot 8 = true) (hb : groupBusy g = false) :
    moeBindBody p h c g d = ok c h (setGroup p.group { g with moe := some (newMoe p (readWords d.mem p.map p.experts)) } d) := by
  simp only [moeBindBody, hr, hc, ha, hi, hp, hm, hs, hb]
  simp

/-! ## A group's turn and its timeout (R200, R209, R210) -/

/-- A group whose entry's input stays in the work window has its turn. -/
theorem collStep_of_inside {gid : Nat} {d : Dev} (hp : inputPasses d gid = none) : collStep gid d = collTurn gid d := by
  simp only [collStep, hp]

/-- An entry whose input passes the end of the work window fails (log 175). -/
theorem collStep_of_passing {gid : Nat} {o : Nat × U32} {d : Dev} (hp : inputPasses d gid = some o) :
    collStep gid d = failOwner o.1 (some o) stLocalAccess stLocalAccess d := by
  simp only [collStep, hp]

/-- STEP_TIMEOUT runs from the last progress of a collective that does not wait on the level above, in a slice that works. -/
theorem stepDue_of_running {gid : Nat} {g : Group} {r : CollRun} {d : Dev} (hg : tget d.groups gid = some g) (hr : g.run = some r)
    (hp : r.phase ≠ 1) (hs : sliceLive d g.slice = true) : stepDue d gid = some (r.lastProgress + g.p.stepTimeout * 1000) := by
  simp [stepDue, hg, hr, hp, hs]

end Sys2Proof.Machine

open Sys2Proof Sys2Proof.Machine

/-- Settles O29: the choice is one list of conditions, and each clause denies those before its own. -/
theorem algorithmChoiceFollowsR205 : Obligations.AlgorithmChoiceFollowsR205 := by
  unfold Obligations.AlgorithmChoiceFollowsR205
  intro mask n op size ring tree direct
  rw [chooseAlgo_eq]
  refine ⟨fun hd => if_pos hd, fun hd ht => ?smallTree, fun hd ht hr => ?ring, fun hd ht hr hdir => ?direct, fun hd ht hr htree => ?tree,
    fun hd ht hr => ?none⟩
  case smallTree => rw [if_neg hd, if_pos ht]
  case ring => rw [if_neg hd, if_neg ht, if_pos hr]
  case direct => rw [if_neg hd, if_neg ht, if_neg hr, if_pos hdir]
  case tree => rw [if_neg fun hdn => hd hdn.1, if_neg ht, if_neg hr, if_neg hd, if_pos htree]
  case none => rw [if_neg fun hdn => hd hdn.1, if_neg fun hts => ht hts.1, if_neg hr, if_neg hd, if_neg ht]

/-- Settles O25: each clause's conditions are the guards of the row's own rule, past the checks of every command. That MOE_BIND replaces the
binding that a group has is log 126. -/
theorem groupCommandsComplete : Obligations.GroupCommandsComplete := by
  unfold Obligations.GroupCommandsComplete
  refine ⟨fun s h p ht hb hr hf hq => ?create, fun s h gid g ht hg hs => ?destroy, fun s h gid g ht hg hs hidle => ?reset,
    fun s h p g ht hg hs hr hc ha hi hpois hm hred hbusy => ?moe, fun s gid ha => ⟨fun hp => ?turn, fun o hp => ?passes⟩,
    fun s gid g r ha hg hr hp hs => ?timeout⟩
  case create =>
    show runLevels (collCreateEffect h p) s = _
    rw [collCreateEffect, runLevels_command_of_takes _ ht hb, collCreateBody_of_free hr hf hq]
    rfl
  case destroy =>
    show runLevels (collDestroyEffect h gid) s = _
    rw [collDestroyEffect, runLevels_command_of_takes _ ht rfl, onGroup_of_own _ hg hs, cmdRow_op 0x0402 rfl]
  case reset =>
    have hrun : ¬ g.run.isSome = true := by simp [hidle]
    show run (collResetEffect h gid) s = _
    rw [collResetEffect, run_command_of_takes _ ht rfl, onGroup_of_own _ hg hs, if_neg hrun]
    rfl
  case moe =>
    show run (moeBindEffect h p) s = _
    rw [moeBindEffect, run_command_of_takes _ ht (moeRange_mono hr (groupMtu_le s.dev g)), onGroup_of_own _ hg hs,
      moeBindBody_of_good hr hc ha hi hpois hm hred hbusy]
    rfl
  case turn =>
    show runRetire (fun d => moeTurn gid (collStep gid d)) s = _
    rw [runRetire_of_alive ha, collStep_of_inside hp]
  case passes =>
    show runRetire (fun d => moeTurn gid (collStep gid d)) s = _
    rw [runRetire_of_alive ha, collStep_of_passing hp]
  case timeout =>
    show runRetire (fun d => atExpiry (stepDue d gid) (abortColl gid 0 0xFF) d) s = _
    rw [runRetire_of_alive ha, stepDue_of_running hg hr hp hs, atExpiry_some]

end

section
/-!
PROOF. Stage streams (06, 12): what STAGE_BIND, STAGE_REPLAY and STAGE_QUERY do once nothing refuses them.
-/
namespace Sys2Proof.Machine

/-- A command on a stream of its own slice reaches the stream. -/
theorem onStream_of_own {n : Nat} {h : Cmd} {c : CmdInfo} {x : Stream} {d : Dev} (body : CmdInfo → Stream → Dev → Dev)
    (hx : tget d.streams n = some x) (hs : x.slice = h.slice) : onStream n h body c d = body c x d := by
  simp [onStream, hx, hs]

/-- A new stream takes its queue pair, and unbinds none. -/
theorem bindStream_new {n k : Nat} {x : Stream} {q : Qp} {d : Dev} (hk : x.qpn = some k) (hq : getQp d k = some q) :
    bindStream n x none d = setQp k { q with stream := some n } { d with streams := tset d.streams n x } := by
  simp only [bindStream, hk]
  exact modQp_of_get (d := { d with streams := tset d.streams n x }) hq _

/-- STAGE_BIND of a stream that is not there, to a free queue pair of the slice, with a log that fits its quota and its allocation where the
stream sends (R229). -/
theorem stageBindBody_of_new {p : StageP} {h : Cmd} {c : CmdInfo} {q : Qp} {d : Dev} (hq : getQp d p.qpn = some q) (hs : q.slice = h.slice)
    (hu : q.stream = none) (hx : tget d.streams p.stream = none)
    (hlog : p.role = 0 → p.k * p.slotBytes ≤ quotaLimit d h.slice 3 * 0x200000 ∧ inAllocation d h.slice p.log (p.k * p.slotBytes) = true)
    (hn : quotaFull d h.slice 10 = false) :
    stageBindBody p h c d = ok c h (bindStream p.stream (newStream h.slice p) none d) := by
  have hfits : ¬(p.role = 0 ∧ quotaLimit d h.slice 3 * 0x200000 < p.k * p.slotBytes) := fun ⟨hr, hlt⟩ => (hlog hr).1.not_gt hlt
  have hin : ¬(p.role = 0 ∧ inAllocation d h.slice p.log (p.k * p.slotBytes) = false) := fun ⟨hr, hout⟩ => by simp [(hlog hr).2] at hout
  simp only [stageBindBody, hq, hx, if_neg (not_not.mpr hs), hu, if_neg hfits, if_neg hin, hn]
  rfl

/-- STAGE_BIND of a stream of the slice, in its own role, binds it again: a SENDER tells the first MB_SEQ that is not logged (R406, R407). -/
theorem stageBindBody_of_bound {p : StageP} {h : Cmd} {c : CmdInfo} {q : Qp} {x : Stream} {d : Dev} (hq : getQp d p.qpn = some q)
    (hs : q.slice = h.slice) (hu : q.stream = none) (hx : tget d.streams p.stream = some x) (hxs : x.slice = h.slice)
    (hrole : x.sender = (p.role == 0)) :
    stageBindBody p h c d =
      reply c h csOk 0 (if x.sender then x.logged.toNat else 0) (bindStream p.stream (reboundStream x p) x.qpn d) := by
  have hown : ¬((some x).any fun x => x.slice != h.slice) = true := by simp [hxs]
  simp only [stageBindBody, hq, hx, if_neg (not_not.mpr hs), if_neg hown, hu, if_neg (not_not.mpr hrole)]
  rfl

/-- STAGE_REPLAY from a micro-batch that the stream has numbered: an answer at once where it is not logged yet, otherwise the logged ones from
it on are sent again, and the command waits for the last (R235, log 127). -/
theorem stageReplayBody_of_sender {n qpn : Nat} {from_ : U32} {h : Cmd} {c : CmdInfo} {x : Stream} {d : Dev} (hs : x.sender = true)
    (hq : x.qpn = some qpn) (hle : (from_ - x.oldest).toNat ≤ (x.nextSeq - x.oldest).toNat) :
    stageReplayBody n from_ h c x d =
      if seqLe x.logged from_ = true then ok c h d
      else (List.range (x.logged - from_).toNat).foldl (fun d i => replayOne n qpn x (from_ + u32 i) d)
        (waitOn h c.op (.replay n) { d with streams := tset d.streams n { x with replay := some (from_, x.logged) } }) := by
  have hnumbered : ¬ dist from_ x.oldest > dist x.nextSeq x.oldest := Nat.not_lt.mpr hle
  simp only [stageReplayBody, hs, hq, if_neg hnumbered]
  rfl

end Sys2Proof.Machine

open Sys2Proof Sys2Proof.Machine

/-- Settles O26: each clause's conditions are the guards of the row's own rule, past the checks of every command. -/
theorem stageCommandsComplete : Obligations.StageCommandsComplete := by
  unfold Obligations.StageCommandsComplete
  refine ⟨fun s h p q ht hb hq hs hu hx hlog hn => ?bind, fun s h p q x ht hb hq hs hu hx hxs hrole => ?rebind,
    fun s h n qpn from_ x ht hx hxs hsend hq hle => ?replay, fun s h n x ht hx hxs => ?query⟩
  case bind =>
    show runLevels (stageBindEffect h p) s = _
    rw [stageBindEffect, runLevels_command_of_takes _ ht hb, stageBindBody_of_new hq hs hu hx hlog hn, bindStream_new rfl hq]
    rfl
  case rebind =>
    show runLevels (stageBindEffect h p) s = _
    rw [stageBindEffect, runLevels_command_of_takes _ ht hb, stageBindBody_of_bound hq hs hu hx hxs hrole]
  case replay =>
    have hexec : exec (.stageReplay h n from_) s = after s (stageReplayBody n from_ h (cmdRow 0x0406) x s.dev) := by
      show run (stageReplayEffect h n from_) s = _
      rw [stageReplayEffect, run_command_of_takes _ ht rfl, onStream_of_own _ hx hxs]
    rw [hexec, stageReplayBody_of_sender hsend hq hle, cmdRow_op 0x0406 rfl]
    exact ⟨fun hnone => by rw [if_pos hnone], fun hsome => by rw [if_neg (Bool.eq_false_iff.mp hsome)]⟩
  case query =>
    have hexec : exec (.stageQuery h n) s =
        after s (onStream n h (fun c x d => reply c h csOk 0 (encStreamResult x) d) (cmdRow 0x040A) s.dev) :=
      run_command_of_takes _ ht rfl
    rw [hexec, onStream_of_own _ hx hxs]

end

section
/-!
PROOF. Triggers (06): credits, and what TRIG_CREATE, TRIG_ARM and TRIG_DESTROY do once nothing refuses them.
-/
namespace Sys2Proof.Machine

/-! ## Credits (R238 to R240) -/

theorem addCredit_of_error {n : Nat} {q : Qp} {d : Dev} (hq : getQp d n = some q) (he : q.st = .error) : addCredit n d = d := by
  simp only [addCredit, hq, if_pos he]

theorem addCredit_of_full {n : Nat} {q : Qp} {d : Dev} (hq : getQp d n = some q) (he : q.st ≠ .error) (hc : 65535 ≤ q.rqr.credits) :
    addCredit n d = bump 0x14 q.slice d := by
  simp only [addCredit, hq, if_neg he, if_pos hc]

theorem addCredit_of_room {n : Nat} {q : Qp} {d : Dev} (hq : getQp d n = some q) (he : q.st ≠ .error) (hc : q.rqr.credits < 65535) :
    addCredit n d = setQp n { q with rqr := { q.rqr with credits := q.rqr.credits + 1 } } d := by
  simp only [addCredit, hq, if_neg he, if_neg hc.not_ge]

/-! ## Counter triggers that are due (R238) -/

/-- A trigger that is put in place armed, for a counter that its queue has reached, gives its credit and disarms. -/
theorem fireNow_tset_of_due {n : Nat} {t : Trigger} {c : Cq} {d : Dev} (ha : t.armed = true) (hk : t.p.kind = 1)
    (hc : tget d.cqs t.p.source = some c) (hd : (c.counter - t.p.threshold).toNat < 2 ^ 31) :
    fireNow n { d with triggers := tset d.triggers n t } =
      addCredit t.p.target { d with triggers := tset (tset d.triggers n t) n { t with armed := false } } := by
  simp only [fireNow, tget_tset_self, ha, hk, hc]
  exact if_pos hd

/-- One whose queue has not reached its THRESHOLD stays armed. -/
theorem fireNow_tset_of_early {n : Nat} {t : Trigger} {c : Cq} {d : Dev} (ha : t.armed = true) (hk : t.p.kind = 1)
    (hc : tget d.cqs t.p.source = some c) (hd : 2 ^ 31 ≤ (c.counter - t.p.threshold).toNat) :
    fireNow n { d with triggers := tset d.triggers n t } = { d with triggers := tset d.triggers n t } := by
  simp only [fireNow, tget_tset_self, ha, hk, hc]
  exact if_neg hd.not_gt

/-- One that is not armed gives nothing. -/
theorem fireNow_tset_of_unarmed {n : Nat} {t : Trigger} {d : Dev} (ha : t.armed = false) :
    fireNow n { d with triggers := tset d.triggers n t } = { d with triggers := tset d.triggers n t } := by
  simp only [fireNow, tget_tset_self, ha, Bool.false_and]

/-! ## Commands on triggers (R236, R238, R240) -/

/-- A command on a trigger of its own slice reaches the trigger. -/
theorem onTrigger_of_own {n : Nat} {h : Cmd} {c : CmdInfo} {t : Trigger} {d : Dev} (body : CmdInfo → Trigger → Dev → Dev)
    (ht : tget d.triggers n = some t) (hs : t.slice = h.slice) : onTrigger n h body c d = body c t d := by
  simp [onTrigger, ht, hs]

/-- A trigger's source is a queue pair where its KIND is 0. -/
theorem sourceSlice_of_qp {p : TrigP} {q : Qp} {d : Dev} (hk : p.kind = 0) (hq : getQp d p.source = some q) :
    sourceSlice d p = some q.slice := by
  simp [sourceSlice, hk, hq]

/-- It is a completion queue where its KIND is 1. -/
theorem sourceSlice_of_cq {p : TrigP} {x : Cq} {d : Dev} (hk : p.kind = 1) (hx : tget d.cqs p.source = some x) :
    sourceSlice d p = some x.slice := by
  simp [sourceSlice, hk, hx]

/-- TRIG_CREATE of a trigger that is not there, from a source to a queue pair of the slice, with room in the slice's quota. -/
theorem trigCreateBody_of_free {p : TrigP} {h : Cmd} {c : CmdInfo} {dst : Qp} {d : Dev} (hsrc : sourceSlice d p = some h.slice)
    (hdst : getQp d p.target = some dst) (hs : dst.slice = h.slice) (hf : tget d.triggers p.trig = none)
    (hq : quotaFull d h.slice 11 = false) :
    trigCreateBody p h c d =
      ok c h (fireNow p.trig { d with triggers := tset d.triggers p.trig ⟨h.slice, p, 0, p.kind == 1⟩ }) := by
  simp [trigCreateBody, hsrc, hdst, hs, hf, hq]

/-- TRIG_CREATE, once its fields are in range, answers with its own rule. -/
theorem exec_trigCreate_of_takes {s : State} {h : Cmd} {p : TrigP} (ht : Takes s 0x0407 h true) (hb : firstBad (trigRange p) = none) :
    exec (.trigCreate h p) s = after s (settleAll (startTriggered (trigCreateBody p h (cmdRow 0x0407) s.dev))) := by
  obtain ⟨ha, hc⟩ := ht
  show runRetire (trigCreateEffect h p) s = _
  rw [runRetire_of_alive ha, trigCreateEffect, command_of_good _ hc hb]

/-- A counter trigger as TRIG_ARM leaves it: armed, with a new THRESHOLD. -/
def rearmed (t : Trigger) (threshold : U32) : Trigger := { t with armed := true, p := { t.p with threshold := threshold } }

/-- TRIG_ARM of a counter trigger of its own slice arms it with the command's THRESHOLD. -/
theorem exec_trigArm_of_counter {s : State} {h : Cmd} {n : Nat} {threshold : U32} {t : Trigger} (ht : Takes s 0x0408 h true)
    (hn : tget s.dev.triggers n = some t) (hs : t.slice = h.slice) (hk : t.p.kind = 1) :
    exec (.trigArm h n threshold) s = after s (settleAll (startTriggered (ok (cmdRow 0x0408) h (fireNow n { s.dev with
      triggers := tset s.dev.triggers n (rearmed t threshold) })))) := by
  obtain ⟨ha, hc⟩ := ht
  show runRetire (trigArmEffect h n threshold) s = _
  rw [runRetire_of_alive ha, trigArmEffect, command_of_accepts _ hc, onTrigger_of_own _ hn hs, trigArmBody, if_neg (not_not.mpr hk)]
  rfl

end Sys2Proof.Machine

open Sys2Proof Sys2Proof.Machine

/-- Settles O28: the three cases are the queue pair's state and the room left for credits. -/
theorem creditsFollowR239 : Obligations.CreditsFollowR239 := by
  unfold Obligations.CreditsFollowR239
  exact fun d n q hq => ⟨fun he hc => addCredit_of_room hq he hc, fun he hc => addCredit_of_full hq he hc, fun he => addCredit_of_error hq he⟩

/-- Settles O27: each clause's conditions are the guards of the row's own rule, past the checks of every command; whether the trigger fires
turns on its counter. -/
theorem triggerCommandsComplete : Obligations.TriggerCommandsComplete := by
  unfold Obligations.TriggerCommandsComplete
  refine ⟨fun s h p src dst ht htrig hk h1 hmax hsrc hss hdst hds hf hq => ?tag,
    fun s h p src dst ht htrig hk hsrc hss hdst hds hf hq => ?counter, fun s h n threshold t c ht hn hs hk hc => ?arm,
    fun s h n t ht hn hs => ?destroy⟩
  case tag =>
    have hgood : firstBad (trigRange p) = none := by simp [firstBad_eq_none_iff, trigRange, htrig, hk, h1, hmax]
    have harmed : (p.kind == 1) = false := by simp [hk]
    rw [exec_trigCreate_of_takes ht hgood, trigCreateBody_of_free (hss ▸ sourceSlice_of_qp hk hsrc) hdst hds hf hq, harmed,
      fireNow_tset_of_unarmed rfl]
  case counter =>
    have hgood : firstBad (trigRange p) = none := by simp [firstBad_eq_none_iff, trigRange, htrig, hk]
    have harmed : (p.kind == 1) = true := by simp [hk]
    rw [exec_trigCreate_of_takes ht hgood, trigCreateBody_of_free (hss ▸ sourceSlice_of_cq hk hsrc) hdst hds hf hq, harmed]
    exact ⟨fun hdue => by rw [fireNow_tset_of_due rfl hk hsrc hdue],
      fun hearly => by rw [fireNow_tset_of_early rfl hk hsrc hearly]⟩
  case arm =>
    rw [exec_trigArm_of_counter ht hn hs hk]
    constructor
    · intro hdue
      rw [fireNow_tset_of_due (t := rearmed t threshold) rfl hk hc hdue]
      rfl
    · intro hearly
      rw [fireNow_tset_of_early (t := rearmed t threshold) rfl hk hc hearly]
      rfl
  case destroy =>
    show runLevels (trigDestroyEffect h n) s = _
    rw [trigDestroyEffect, runLevels_command_of_takes _ ht rfl, onTrigger_of_own _ hn hs]

end

section
/-!
PROOF. Routes (07): the port that R266 gives a packet in transit.
-/
namespace Sys2Proof.Machine

/-! ## The choice of a port (R266, R493) -/

/-- The choice once it has looked at port `n` too: the port with the fewest bytes queued, and of two alike the next in rotation. -/
def choosePort (d : Dev) (b : Option Nat) (n : Nat) : Option Nat :=
  match b with
  | none => some n
  | some m =>
    if portBytes d n < portBytes d m ∨
      (portBytes d n = portBytes d m ∧ (n + 63 - d.routing.lastPort) % 64 < (m + 63 - d.routing.lastPort) % 64) then some n else b

theorem bestPort_eq_foldl (d : Dev) (l : List Nat) : bestPort d l = l.foldl (choosePort d) none := rfl

/-- Of two ports the choice is one that has no more bytes queued than either. -/
theorem choosePort_some (d : Dev) (m n : Nat) :
    ∃ c, choosePort d (some m) n = some c ∧ (c = m ∨ c = n) ∧ portBytes d c ≤ portBytes d m ∧ portBytes d c ≤ portBytes d n := by
  simp only [choosePort]
  split
  · exact ⟨n, rfl, .inr rfl, by omega, le_rfl⟩
  · exact ⟨m, rfl, .inl rfl, le_rfl, by omega⟩

/-- The choice over a list is one of its ports, and none of them has fewer bytes queued. -/
theorem foldl_choosePort {d : Dev} {n : Nat} (l : List Nat) (m : Nat) (h : l.foldl (choosePort d) (some m) = some n) :
    n ∈ m :: l ∧ ∀ y ∈ m :: l, portBytes d n ≤ portBytes d y := by
  induction l generalizing m with
  | nil =>
    obtain rfl : m = n := by simpa using h
    simp
  | cons a r ih =>
    obtain ⟨c, hc, hof, hcm, hca⟩ := choosePort_some d m a
    rw [List.foldl_cons, hc] at h
    obtain ⟨hmem, hleast⟩ := ih c h
    obtain ⟨hnc, hr⟩ := List.forall_mem_cons.mp hleast
    refine ⟨?_, List.forall_mem_cons.mpr ⟨hnc.trans hcm, List.forall_mem_cons.mpr ⟨hnc.trans hca, hr⟩⟩⟩
    rcases hof with rfl | rfl
    · exact (List.mem_cons.mp hmem).elim (· ▸ List.mem_cons_self) fun hn => List.mem_cons_of_mem _ (List.mem_cons_of_mem _ hn)
    · exact List.mem_cons_of_mem _ hmem

/-- The best port of a list is one of its ports, and none of them has fewer bytes queued. -/
theorem bestPort_least {d : Dev} {l : List Nat} {n : Nat} (h : bestPort d l = some n) :
    n ∈ l ∧ ∀ m ∈ l, portBytes d n ≤ portBytes d m := by
  cases l with
  | nil => cases h
  | cons m r => exact foldl_choosePort r m h

/-- A port of a mask may take a packet on VC `v` for a destination, parked or not. -/
def mayTake (d : Dev) (key : Nat × Nat) (v : Nat) (mask within : U64) (n : Nat) : Prop :=
  n < 64 ∧ mask.getLsbD n = true ∧ within.getLsbD n = true ∧ candidateUp d key n = true ∧ vcOpen d v n = true

/-- The eligible ports are the awake ones of those that may take the packet, or all of those where none is awake (R493). -/
theorem mem_eligiblePorts {d : Dev} {key : Nat × Nat} {v n : Nat} {mask within : U64} :
    n ∈ eligiblePorts d key v mask within ↔
      mayTake d key v mask within n ∧ (parked d n = true → ∀ m, mayTake d key v mask within m → parked d m = true) := by
  have hmem (m : Nat) : (m ∈ (List.range 64).filter fun n =>
      mask.getLsbD n && within.getLsbD n && candidateUp d key n && vcOpen d v n) ↔ mayTake d key v mask within m := by
    simp [mayTake, and_assoc]
  simp only [eligiblePorts]
  split
  case isTrue hall =>
    rw [List.isEmpty_iff, List.filter_eq_nil_iff] at hall
    simp only [hmem] at hall ⊢
    exact ⟨fun h => ⟨h, fun _ m hm => by simpa using hall m hm⟩, And.left⟩
  case isFalse hsome =>
    rw [List.isEmpty_iff, List.filter_eq_nil_iff] at hsome
    simp only [hmem] at hsome
    rw [List.mem_filter, hmem, Bool.not_eq_true']
    refine and_congr_right fun _ => ⟨fun hn hp => absurd hp (by simp [hn]), fun h => ?_⟩
    by_contra hp
    exact hsome fun m hm => by simpa using h (by simpa using hp) m hm

/-- On an adaptive VC the masks of RTG_VC_PORTS and the peer's OFF state say which minimal candidates may take a packet in transit. -/
theorem mayTake_transit_iff {d : Dev} {key : Nat × Nat} {v n : Nat} {mask : U64} (hv : v ≠ 1) :
    mayTake d key v mask 0xFFFFFFFFFFFFFFFF n ↔
      n < 64 ∧ mask.getLsbD n = true ∧ (getPort d n).up = true ∧ isZfl d n = true ∧ (getPort d n).withdrawn.contains key = false
        ∧ (tgetD d.routing.vcPorts v 0xFFFFFFFFFFFFFFFF).getLsbD n = true ∧ (getPort d n).peerOff.getLsbD v = false := by
  have hall (h : n < 64) : (0xFFFFFFFFFFFFFFFF : U64).getLsbD n = true := by
    rw [show (0xFFFFFFFFFFFFFFFF : U64) = BitVec.allOnes 64 from rfl, BitVec.getLsbD_allOnes, decide_eq_true h]
  have hv' : (v == 1) = false := beq_eq_false_iff_ne.mpr hv
  simp only [mayTake, candidateUp, vcOpen, hv', Bool.false_or, Bool.and_eq_true, Bool.not_eq_true', and_assoc]
  exact and_congr_right fun h => by rw [hall h]; simp only [true_and]

/-- A packet in transit on an adaptive VC goes to the best of its eligible minimal ports, on its own VC. -/
theorem routeTransit_port {d : Dev} {v dst n w : Nat} (h : routeTransit d v dst = .port n w) (hv : v ≠ 1) :
    let key := routeKey d.routing.gActive d.routing.selfEpid dst
    dst ≠ d.routing.selfEpid ∧ w = v
      ∧ bestPort d (eligiblePorts d key v (rtMin (routeEntry d.routing key)) 0xFFFFFFFFFFFFFFFF) = some n := by
  simp only [routeTransit, hv, false_and, if_false] at h
  split at h
  · cases h
  rename_i hdst
  split at h
  · cases h
  split at h
  · cases h
    exact ⟨hdst, rfl, ‹_›⟩
  · cases h

end Sys2Proof.Machine

open Sys2Proof Sys2Proof.Machine

/-- Settles O31: the route is the best of the eligible ports, which are awake unless none is. -/
theorem transitRouteFollowsR266 : Obligations.TransitRouteFollowsR266 := by
  unfold Obligations.TransitRouteFollowsR266
  intro d v dst n w h hv key can
  obtain ⟨hdst, hw, hbest⟩ := routeTransit_port h hv
  have hcan (m : Nat) : mayTake d key v (rtMin (routeEntry d.routing key)) 0xFFFFFFFFFFFFFFFF m ↔ can m := mayTake_transit_iff hv
  obtain ⟨hmem, hleast⟩ := bestPort_least hbest
  obtain ⟨hn, hparked⟩ := mem_eligiblePorts.mp hmem
  refine ⟨hdst, hw, (hcan n).mp hn, fun m hm hawake => hleast m (mem_eligiblePorts.mpr ⟨(hcan m).mpr hm, ?awake⟩),
    fun hp m hm => hparked hp m ((hcan m).mpr hm)⟩
  case awake => simp [hawake]

end

section
/-!
PROOF. Route tables and route healing (07): the commands and registers of the route tables, the loss of a port or a lane, and the updates
that withdraw and restore routes.
-/
namespace Sys2Proof.Machine

/-! ## Tables and registers (R264, R265, R268, R277, R511, R536) -/

/-- A write of the shadow bank leaves which bank is active. -/
theorem writeRoute_bank (r : Routing) (w : RouteWrite) : (writeRoute r w).bank = r.bank := by
  unfold writeRoute
  split <;> split <;> rfl

/-- It leaves every entry of the active bank. -/
theorem routeEntry_writeRoute (r : Routing) (w : RouteWrite) (k : Nat × Nat) : routeEntry (writeRoute r w) k = routeEntry r k := by
  have hbank := writeRoute_bank r w
  simp only [routeEntry, hbank]
  cases hb : r.bank <;> simp [writeRoute, hb, apply_ite]

/-- Writes of the shadow bank leave the active one. -/
theorem foldl_writeRoute_active (l : List RouteWrite) (r : Routing) :
    (l.foldl writeRoute r).bank = r.bank ∧ ∀ k, routeEntry (l.foldl writeRoute r) k = routeEntry r k :=
  foldl_keep (P := fun r t : Routing => t.bank = r.bank ∧ ∀ k, routeEntry t k = routeEntry r k) (fun _ => ⟨rfl, fun _ => rfl⟩)
    (fun _ _ _ ⟨hb, he⟩ ⟨hb', he'⟩ => ⟨hb'.trans hb, fun k => (he' k).trans (he k)⟩) writeRoute
    (fun r w => ⟨writeRoute_bank r w, routeEntry_writeRoute r w⟩) l r

/-- RTG_WRITE finds nothing wrong with writes that are all inside the tables. -/
theorem rtgWriteBad_of_inside {g : Nat} {l : List RouteWrite}
    (h : ∀ w ∈ l, w.table < 2 ∧ w.index < (if w.table = 0 then 2 ^ g else 2 ^ (18 - g)) ∧ fld w.entry 255 135 = 0) :
    rtgWriteBad g l = none := by
  rw [rtgWriteBad, Option.map_eq_none_iff, List.find?_eq_none]
  intro w hw
  obtain ⟨ht, hi, he⟩ := h w hw
  simp only [ht, hi, he, decide_true, Bool.and_self, Bool.not_true, Bool.false_eq_true, not_false_eq_true]

/-- The neighbour table as NEIGH_SET leaves it. -/
def withNeigh (p : NeighP) (d : Dev) : Dev := { d with
  routing := { d.routing with neigh := if p.v = 0 then tdel d.routing.neigh p.epid else tset d.routing.neigh p.epid p } }

/-- NEIGH_SET takes the endpoint's entry away from the port that it names. -/
def neighMoves (p : NeighP) (d : Dev) : Prop := p.v = 0 ∨ ∃ x, tget d.routing.neigh p.epid = some x ∧ x.port ≠ p.port

/-- NEIGH_SET with its fields in range and room in the table; what waits for an endpoint follows its entry. -/
theorem neighSet_of_accepts {h : Cmd} {p : NeighP} {d : Dev} (ha : accepts d 0x0506 h false = true) (he : p.epid < 2 ^ 18) (hv : p.v < 2)
    (hl : p.vlan < 4096) (hp : p.port < 64)
    (hroom : p.v = 0 ∨ (tget d.routing.neigh p.epid).isSome = true ∨ d.routing.neigh.length < 4096) :
    (neighMoves p d → neighSet h p d = ok (cmdRow 0x0506) h (rerouteNeigh p.epid (withNeigh p d)))
      ∧ (¬neighMoves p d → neighSet h p d = ok (cmdRow 0x0506) h (withNeigh p d)) := by
  have hgood : firstBad [(8, decide (p.epid < 2 ^ 18)), (12, decide (p.v < 2)), (40, decide (p.vlan < 4096)),
      (42, decide (p.port < 64))] = none := by simpa [firstBad_eq_none_iff, hv, hl, hp] using he
  rw [neighSet, command_of_good _ ha hgood]
  by_cases h0 : p.v = 0
  · simp [neighMoves, withNeigh, h0]
  · have hfits : ((tget d.routing.neigh p.epid).isNone && decide (4096 ≤ d.routing.neigh.length)) = false := by
      rcases hroom.resolve_left h0 with hs | hlt
      · simp [Option.isNone_eq_false_iff.mpr hs]
      · simp [hlt]
    have hmoves : (tget d.routing.neigh p.epid).any (fun x => x.port != p.port) = true ↔ neighMoves p d := by
      simp [neighMoves, h0, Option.any_eq_true]
    simp only [withNeigh, h0, hfits, Bool.false_eq_true, if_false]
    exact ⟨fun hm => by rw [if_pos (hmoves.mpr hm)], fun hm => by rw [if_neg (hmoves.not.mpr hm)]⟩

/-! ## Ports, lanes and route updates (R254, R255, R269 to R271) -/

/-- A port that is up goes down: its packets take other routes, and the routes that are lost with it are withdrawn unless the host does so. -/
theorem portDown_of_up {n cause : Nat} {d : Dev} (hu : (getPort d n).up = true) :
    portDown n cause d =
      let t := parentDown (devEvent 0x30 0 (n / 2) n cause 0 (loseLink n (endScan n d)))
      if t.routeHa then t else floodRoutes 0 t.routing.floodHops n (lostKeys (endScan n d) t) t := by
  rw [portDown, hu]
  rfl

/-- PORT_DOWN of a fabric port that is up. -/
theorem exec_portDown_of_up {s : State} {n cause : Nat} (ha : alive s.ao = true) (hn : n < 64) (hu : (getPort s.dev n).up = true) :
    exec (.portDown n cause) s = after s (settleAll (
      let t := parentDown (devEvent 0x30 0 (n / 2) n cause 0 (loseLink n (endScan n s.dev)))
      if t.routeHa then t else floodRoutes 0 t.routing.floodHops n (lostKeys (endScan n s.dev) t) t)) := by
  show runLevels (fun d => if n < 64 then portDown n cause d else d) s = _
  rw [runLevels_of_alive ha, if_pos hn, portDown_of_up hu]

/-- A lane of a link that is up and has replay fails: the link stops in NARROW. -/
theorem laneFails_of_flits {n lane : Nat} {d : Dev} (hu : (getPort d n).up = true) (he : isEth d n = false) :
    laneFails n lane d = modPort n (fun p => { p with
      failedLanes := p.failedLanes ||| (1 <<< lane), narrowSince := some (p.narrowSince.getD d.now), laneErrors := [] }) (layIdle n d) := by
  simp [laneFails, hu, he]

/-- What a port learns from a ROUTE_UPDATE: the destinations that its peer withdraws or restores. -/
def learnRoutes (kind : Nat) (keys l : List (Nat × Nat)) : List (Nat × Nat) :=
  if kind = 0 then l ++ keys.filter (fun k => !l.contains k) else l.filter (fun k => !keys.contains k)

/-- In hardware mode a well-formed ROUTE_UPDATE is learned, and what it changes here goes on to the other ports. -/
theorem gotRoute_of_wellFormed {n : Nat} {u : RouteUpdate} {d : Dev} (hh : d.routeHa = false) (hk : u.kind ≤ 1) (hl : u.level ≤ 1)
    (h1 : 1 ≤ u.indices.length) (hmax : u.indices.length ≤ 120) :
    gotRoute n u d =
      let keys := updateKeys d u
      let t := modPort n (fun p => { p with withdrawn := learnRoutes u.kind keys p.withdrawn }) d
      let changed := if u.kind = 0 then lostKeys d t else lostKeys t d
      pumpEscape (if u.hops = 0 ∨ changed = [] then t else floodRoutes u.kind (u.hops - 1) n changed t) := by
  have hform : ¬(1 < u.kind ∨ 1 < u.level ∨ u.indices.length = 0 ∨ 120 < u.indices.length) := by omega
  have hlearn : (fun p : FPort =>
      if u.kind = 0 then { p with withdrawn := p.withdrawn ++ (updateKeys d u).filter fun k => !p.withdrawn.contains k }
      else { p with withdrawn := p.withdrawn.filter fun k => !(updateKeys d u).contains k }) =
      fun p => { p with withdrawn := learnRoutes u.kind (updateKeys d u) p.withdrawn } := by
    funext p
    rw [learnRoutes]
    split <;> rfl
  simp only [gotRoute, hh, Bool.false_eq_true, if_false, hform, hlearn, List.isEmpty_iff]

/-- A ROUTE_UPDATE on a port that takes flits takes its number and is then read. -/
theorem exec_routeUpdate_of_accepts {s : State} {n : Nat} (u : RouteUpdate) (ha : alive s.ao = true) (hn : n < 64)
    (hf : acceptsFlit s.dev n = true) : exec (.routeUpdate n u) s = after s (settleAll (gotRoute n u (tookFlit n s.dev))) := by
  show runLevels (fun d => if decide (n < 64) && acceptsFlit d n then gotRoute n u (tookFlit n d) else d) s = _
  rw [runLevels_of_alive ha, decide_eq_true hn, hf]
  rfl

end Sys2Proof.Machine

open Sys2Proof Sys2Proof.Machine

/-- Settles O30: each clause's conditions are the guards of the command's own rule, past the checks of every command; a write reaches the
shadow bank alone. NEIGH_SET routes again what waits for an endpoint whose entry goes or moves (log 179). -/
theorem routingCommandsComplete : Obligations.RoutingCommandsComplete := by
  unfold Obligations.RoutingCommandsComplete
  refine ⟨fun s h l ht hl => ?write, fun s h ht => ?swap, fun s h l e ht hl he => ?epMap, fun s h p ht he hv hvl hp hroom => ?neigh,
    fun s port halfB v ha hp => ?thresh, fun s v ha => ?selfEpid⟩
  case write =>
    obtain ⟨hbank, hentry⟩ := foldl_writeRoute_active l s.dev.routing
    refine ⟨l.foldl writeRoute s.dev.routing, ?_, hbank, hentry, rfl⟩
    obtain ⟨ha, hc⟩ := ht
    show runLevels (rtgWrite h l) s = _
    rw [runLevels_of_alive ha, rtgWrite, command_of_good _ hc (rtgWriteBad_of_inside hl)]
  case swap => exact runLevels_command_of_takes _ ht rfl
  case epMap => exact runLevels_command_of_takes _ ht (by simpa [firstBad_eq_none_iff, he] using hl)
  case neigh =>
    obtain ⟨ha, hc⟩ := ht
    have hexec : exec (.neighSet h p) s = after s (settleAll (neighSet h p s.dev)) := runLevels_of_alive ha
    obtain ⟨hmoved, hkept⟩ := neighSet_of_accepts hc he hv hvl hp hroom
    rw [hexec]
    exact ⟨fun hm => congrArg (fun d => after s (settleAll d)) (hmoved hm), fun hm => congrArg (fun d => after s (settleAll d)) (hkept hm)⟩
  case thresh =>
    show runLevels (fun d => if port < 32 then vcThreshWrite port halfB v d else d) s = _
    rw [runLevels_of_alive ha, if_pos hp]
    rfl
  case selfEpid =>
    show runLevels (selfEpidWrite v) s = _
    rw [runLevels_of_alive ha]
    rfl

/-- Settles O32: a port that is up goes down, a lane's failure stops the link in NARROW, and an update is learned, as the branches of the
rows' own rules say. -/
theorem fabricHealingCompletes : Obligations.FabricHealingCompletes := by
  unfold Obligations.FabricHealingCompletes
  refine ⟨fun s n cause ha hn hu => ?down, fun s n lane ha hn hl he hu => ?lane, fun s n u ha hn hf hh => ?assisted,
    fun s n u ha hn hf hh hk hl h1 hmax => ?learned⟩
  case down =>
    rw [exec_portDown_of_up ha hn hu]
    exact ⟨fun hh => by simp only [hh, if_true], fun hh => by simp only [hh, Bool.false_eq_true, if_false]⟩
  case lane =>
    show runLevels (fun d => if lane < 16 ∧ (n < 64 ∨ linkIsZal d n = true) then laneFails n lane d else d) s = _
    rw [runLevels_of_alive ha, if_pos ⟨hl, .inl hn⟩, laneFails_of_flits hu he]
    rfl
  case assisted =>
    have hh' : (tookFlit n s.dev).routeHa = true := hh
    rw [exec_routeUpdate_of_accepts u ha hn hf, gotRoute, if_pos hh']
  case learned =>
    have hh' : (tookFlit n s.dev).routeHa = false := hh
    rw [exec_routeUpdate_of_accepts u ha hn hf, gotRoute_of_wellFormed hh' hk hl h1 hmax]
    rfl

end

section
/-!
PROOF. Link-level replay and flow control (07): REPLAY_REQ and REPLAY_MISS, the timers of the replay, ABORT and FLOW.
-/
namespace Sys2Proof.Machine

/-! ## Replay (R249, R250) -/

/-- A flit is held where a run of the replay buffer has it, and it was last sent no more than 2.0 µs ago. -/
theorem replayHolds_eq_true_iff {p : FPort} {seq : BitVec 16} {d : Dev} : replayHolds d p seq = true ↔
    ∃ f ∈ p.replay, (seq - f.seq).toNat < f.n ∧ linkTime d < f.at_ + (seq - f.seq).toNat * f.gap + keepTicks := by
  simp only [replayHolds, List.any_eq_true, Bool.and_eq_true, decide_eq_true_eq]

/-- REPLAY_REQ on a link that is on. -/
theorem exec_replayReq_of_on {s : State} {n : Nat} (seq : BitVec 16) (ha : alive s.ao = true) (hl : linkOn s.dev n = true) :
    exec (.replayReq n seq) s = after s (settleAll (gotReplayReq n seq (tookFlit n s.dev))) := by
  show runLevels (fun d => if linkOn d n then gotReplayReq n seq (tookFlit n d) else d) s = _
  rw [runLevels_of_alive ha, if_pos hl]

/-- A receiver that waits goes on at the number that a REPLAY_MISS names, and counts the flits that are lost. -/
theorem gotReplayMiss_of_awaiting {n : Nat} {seq a : BitVec 16} {d : Dev} (hn : n < 64) (hw : (getPort d n).awaiting = some a) :
    gotReplayMiss n seq d = devEvent 0x34 1 (n / 2) n (seq - a).toNat 0 (bumpBy 0x21 n (seq - a).toNat
      (dropPartials n (setPort n { getPort d n with awaiting := none, missed := 0, rxSeq := seq } d))) := by
  simp only [gotReplayMiss, hw, hn, if_true]
  rfl

/-- The time that a receiver gives a replay passes, and it asks again. -/
theorem replayReqTimeout_of_awaiting {n : Nat} {a : BitVec 16} {d : Dev} (hl : linkOn d n = true) (hw : (getPort d n).awaiting = some a) :
    replayReqTimeout n d = requestReplay n (advanceTo (getPort d n).awaitDue d) := by
  simp [replayReqTimeout, hl, hw, atExpiry_some]

/-- The oldest flit of the replay buffer has been kept for its 2.0 µs. -/
theorem replayExpiry_of_held {n : Nat} {f : ReplayRun} {r : List ReplayRun} {d : Dev} (hl : linkOn d n = true)
    (hr : (getPort d n).replay = f :: r) :
    replayExpiry n d =
      modPort n (fun p => { p with replay := dropRuns 1 p.replay }) (advanceTo (ceilDiv (f.at_ + keepTicks) 1024) d) := by
  simp only [replayExpiry, hr, hl, if_true, atExpiry_some]

/-! ## ABORT and FLOW (R251, R257) -/

/-- Where nothing is forwarded on a VC, the end of an arrival there ends nothing downstream. -/
theorem abortArrival_of_none {n vc : Nat} {d : Dev} (hf : tget (getPort d n).forwarding vc = none) : abortArrival n vc d = d := by
  have hopen : openForward (getPort d n) vc = none := by
    simp only [openForward, forwardsOf, tgetD, hf, Option.getD_none, List.find?_nil, ite_self]
    cases tget (getPort d n).partials vc <;> rfl
  simp only [abortArrival, hopen]

/-- ABORT on a VC on which nothing is forwarded discards the part of a packet that the port holds. -/
theorem gotAbort_of_none {n vc : Nat} {d : Dev} (hf : tget (getPort d n).forwarding vc = none) :
    gotAbort n vc d = freeIngress n vc (tgetD (getPort d n).partials vc []).length
      (modPort n (fun p => { p with partials := tdel p.partials vc }) d) := by
  rw [gotAbort, abortArrival_of_none hf]

theorem tookFlit_forwarding (n : Nat) (d : Dev) : (getPort (tookFlit n d) n).forwarding = (getPort d n).forwarding := by
  rw [tookFlit, modPort, getPort_setPort]

theorem tookFlit_partials (n : Nat) (d : Dev) : (getPort (tookFlit n d) n).partials = (getPort d n).partials := by
  rw [tookFlit, modPort, getPort_setPort]

/-- FLOW on a link that takes flits: what waited for an eligible port, or at an accelerator port, goes on. -/
theorem flowArrives_of_accepts {n : Nat} {off : BitVec 7} {d : Dev} (hf : acceptsFlit d n = true) :
    flowArrives n off d =
      if n < 64 then gotFlow n off (tookFlit n d) else portGoes (n - 64) (gotFlow n off (tookFlit n d)) := by
  rw [flowArrives, if_pos hf]
  by_cases hn : n < 64
  · rw [if_pos hn, if_neg (by omega)]
  · rw [if_neg hn, if_pos (by omega)]

/-- While a VC is OFF the vector is shown again each 1 µs. -/
theorem flowRefresh_of_off {n : Nat} {d : Dev} (hl : linkOn d n = true) (ho : offShown (getPort d n) ≠ 0) :
    flowRefresh n d = sendFlow n (advanceTo ((getPort d n).flowAt + 1000) d) := by
  have hoff : decide (offShown (getPort d n) = 0) = false := decide_eq_false ho
  simp only [flowRefresh, hl, hoff, Bool.not_true, Bool.or_self, Bool.false_eq_true, if_false, atExpiry_some]

end Sys2Proof.Machine

open Sys2Proof Sys2Proof.Machine

/-- Settles O33: a flit is held or not, which decides the answer to a REPLAY_REQ; every other row has one guard, which the clause gives. -/
theorem linkReplayCompletes : Obligations.LinkReplayCompletes := by
  unfold Obligations.LinkReplayCompletes
  refine ⟨fun s n seq ha hl => ?request, fun s n seq a ha hn hl hw => ?miss, fun s n a ha hl hw => ?timeout,
    fun s n f r ha hl hr => ?expiry, fun s n vc ha hf hvc hnone => ?abort, fun s n off ha hf => ?flow, fun s n ha hl ho => ?refresh⟩
  case request =>
    intro d here
    have hholds : (getPort d n).txSeq = seq ∨ replayHolds d (getPort d n) seq = true ↔ here := or_congr_right replayHolds_eq_true_iff
    rw [exec_replayReq_of_on seq ha hl, gotReplayReq]
    exact ⟨fun hh => by rw [if_pos (hholds.mpr hh)], fun hh => by rw [if_neg (hholds.not.mpr hh)]⟩
  case miss =>
    show runLevels (fun d => if linkOn d n then gotReplayMiss n seq (modPort n (fun p => { p with lastRx := d.now }) d) else d) s = _
    have hw' : (getPort (modPort n (fun p => { p with lastRx := s.dev.now }) s.dev) n).awaiting = some a := by
      rw [modPort, getPort_setPort, hw]
    rw [runLevels_of_alive ha, if_pos hl, gotReplayMiss_of_awaiting hn hw']
  case timeout =>
    show runLevels (replayReqTimeout n) s = _
    rw [runLevels_of_alive ha, replayReqTimeout_of_awaiting hl hw]
  case expiry =>
    show runLevels (replayExpiry n) s = _
    rw [runLevels_of_alive ha, replayExpiry_of_held hl hr]
    rfl
  case abort =>
    have hnone' : tget (getPort (tookFlit n s.dev) n).forwarding vc = none := by rw [tookFlit_forwarding, hnone]
    show runLevels (fun d => if acceptsFlit d n && decide (vc < 7) then gotAbort n vc (tookFlit n d) else d) s = _
    rw [runLevels_of_alive ha, hf, decide_eq_true hvc, Bool.and_self, if_pos rfl, gotAbort_of_none hnone', tookFlit_partials]
    rfl
  case flow =>
    show runRetire (reopening (flowArrives n off)) s = _
    rw [runRetire_of_alive ha]
    exact congrArg (fun d => after s (settleAll (startTriggered d))) (reopening_congr (flowArrives_of_accepts hf))
  case refresh =>
    show runLevels (flowRefresh n) s = _
    rw [runLevels_of_alive ha, flowRefresh_of_off hl ho]

end

section
/-!
PROOF. What arrives at a port (07): flits and codewords, Ethernet frames, packets in transit, and PFC.
-/
namespace Sys2Proof.Machine

/-! ## Flits (R245, R249, R254) -/

/-- Codewords on a link that is on: one that decodes gives its flits, one that does not fails them together. -/
theorem flitReceive_of_on {n : Nat} {c : Codeword} {d : Dev} (hl : linkOn d n = true) :
    (∀ l fixed, decodeFlits (fullFec d n) c.code = some (l, fixed) →
      flitReceive n c d = l.foldl (takeFlit n) (if fixed then bump 0x1E n d else d))
    ∧ (decodeFlits (fullFec d n) c.code = none →
      flitReceive n c d = flitFails n (codeFlits (fullFec d n)) (laneError n c.badLane (bump 0x1F n d))) := by
  have hon : ¬(!linkOn d n) = true := by simp [hl]
  exact ⟨fun l fixed hc => by simp only [flitReceive, if_neg hon, hc], fun hc => by simp only [flitReceive, if_neg hon, hc]⟩

/-- A data flit is no control flit. -/
theorem isType_of_data {k : Nat} {f : Flit} (hv : f.vc ≠ 7) : isType k f = false := by
  simp [isType, hv]

/-- A data flit passes or fails by its FCRC alone. -/
theorem takeFlit_of_data {n : Nat} {f : Flit} {d : Dev} (hl : linkOn d n = true) (hv : f.vc ≠ 7) :
    takeFlit n d f =
      if fcrcOk d n f then flitPasses n f (modPort n (fun p => { p with awaiting := none }) d) else flitFails n 1 d := by
  simp only [takeFlit, hl, isType_of_data hv, Bool.and_false, Bool.not_true, Bool.false_eq_true, if_false]

/-- A data flit that passes on a VC of its link joins its stream. -/
theorem flitPasses_of_data {n : Nat} {f : Flit} {d : Dev} (hv : f.vc ≠ 7) (hvc : f.vc < linkVcs d n) :
    flitPasses n f d = takeData n f.vc (if f.padAt = 0 then f.bytes else f.bytes.take (8 * f.padAt)) (tookFlit n d) := by
  rw [flitPasses, if_neg hv, if_neg hvc.not_ge]

/-- Flits that fail on a link that is on are missed; a receiver that does not wait for a replay asks for one. -/
theorem flitFails_of_on {n k : Nat} {d : Dev} (hl : linkOn d n = true) :
    flitFails n k d =
      let t := setPort n { getPort d n with missed := Nat.min ((getPort d n).missed + k) (replaySize d n) } d
      if (getPort d n).awaiting = none then requestReplay n t else t := by
  have hport : getPort (modPort n (fun p => { p with missed := Nat.min (p.missed + k) (replaySize d n) }) d) n =
      { getPort d n with missed := Nat.min ((getPort d n).missed + k) (replaySize d n) } := getPort_setPort _ _ _
  have hon : linkOn (modPort n (fun p => { p with missed := Nat.min (p.missed + k) (replaySize d n) }) d) n = true := by
    rw [linkOn, hport]
    exact hl
  simp only [flitFails, hon, hport, Bool.true_and, Option.isNone_iff_eq_none]
  rfl

/-! ## Ethernet frames (R276, R280) -/

/-- A frame on an Ethernet port that is up is transport for the port, a Neighbor Solicitation for it, or dropped. -/
theorem ethFrame_of_up {n : Nat} {f : EthFrame} {p : Packet} {d : Dev} (hn : n < 64) (hu : (getPort d n).up = true)
    (he : isEth d n = true) :
    ethFrame n f p d =
      let t := modPort n (fun x => { x with lastRx := d.now }) (pumpLeaving n d)
      if frameIsOurs t n f then
        let p' := if f.ecn = 3 then setCe p else p
        let v := f.priority % 8
        let t' := modPort n (fun x => { x with leaving := x.leaving ++ [(v, f.wireBytes, t.now + 2000)] })
          (updateOff n (addIngress n v f.wireBytes t))
        if forUs t' p' then rxPacket n p' t' else bump 0x26 n t'
      else if frameSolicits t n f then emit (.neighAdvert n) t
      else bump 0x26 n t := by
  have hup : ¬(!((getPort d n).up && decide (n < 64) && isEth d n)) = true := by simp [hu, hn, he]
  rw [ethFrame, if_neg hup]

/-! ## Packets in transit (R266, R267, R272) -/

/-- A packet for another endpoint reaches a native port of this adapter that is up, on a VC on which the port forwards nothing. -/
structure Arrives (d : Dev) (n vc : Nat) (p : Packet) : Prop where
  carries : dataOn d = true
  fabric : n < 64
  up : (getPort d n).up = true
  native : isEth d n = false
  vc_le : vc ≤ 6
  elsewhere : phDst p.hdr ≠ d.routing.selfEpid
  stored : tget (getPort d n).forwarding vc = none

/-- Such a packet goes in transit. -/
theorem transitPacket_of_arrives {n vc : Nat} {p : Packet} {bad : Bool} {d : Dev} (h : Arrives d n vc p) :
    transitPacket n vc p bad d = transit n vc { p with flaw := false } (bad || p.flaw) d := by
  have hgoes : ¬(!(getPort d n).up || !dataOn d || decide (phDst p.hdr = d.routing.selfEpid) || decide (64 ≤ n)) = true := by
    simp [h.up, h.carries, h.elsewhere, h.fabric]
  rw [transitPacket, if_neg hgoes, h.native, if_neg (by decide), if_neg h.vc_le.not_gt]

theorem Arrives.forwardsOf_eq_nil {n vc : Nat} {p : Packet} {d : Dev} (h : Arrives d n vc p) : forwardsOf (getPort d n) vc = [] := by
  rw [forwardsOf, tgetD, h.stored, Option.getD_none]

/-- One that could not be corrected, or is flawed, is counted and dropped. -/
theorem transitPacket_of_bad {n vc : Nat} {p : Packet} {bad : Bool} {d : Dev} (h : Arrives d n vc p) (hb : (bad || p.flaw) = true) :
    transitPacket n vc p bad d = freeIngress n vc (padLen p) (bump 0x29 0 d) := by
  rw [transitPacket_of_arrives h, transit, h.forwardsOf_eq_nil, hb]
  rfl

/-- A good one is queued at the port of its route. -/
theorem transitPacket_of_routed {n vc m v : Nat} {p : Packet} {d : Dev} (h : Arrives d n vc p) (hf : p.flaw = false)
    (hr : routeTransit d vc (phDst p.hdr) = .port m v) :
    transitPacket n vc p false d = freeIngress n vc (padLen p) (enqueue m { transitPkt vc p d with vc := v } d) := by
  have hp : { p with flaw := false } = p := by rw [← hf]
  simp only [transitPacket_of_arrives h, hp, hf, transit, h.forwardsOf_eq_nil, List.find?_nil, Bool.or_self, Bool.false_eq_true, if_false,
    hr]

/-- One without a route is counted and dropped. -/
theorem transitPacket_of_unrouted {n vc : Nat} {p : Packet} {d : Dev} (h : Arrives d n vc p) (hf : p.flaw = false)
    (hr : routeTransit d vc (phDst p.hdr) = .none) :
    transitPacket n vc p false d = freeIngress n vc (padLen p) (bump 0x28 0 d) := by
  have hp : { p with flaw := false } = p := by rw [← hf]
  simp only [transitPacket_of_arrives h, hp, hf, transit, h.forwardsOf_eq_nil, List.find?_nil, Bool.or_self, Bool.false_eq_true, if_false,
    hr]

/-- A packet that has waited out ESC_WAIT escapes. -/
theorem escWaitExpiry_of_waiting {id : Nat} {w : EscWaiting} {d : Dev} (hw : (d.escWaiting.find? fun w => w.id == id) = some w) :
    escWaitExpiry id d = escapeNow w (advanceTo (w.since + d.routing.escWait) d) := by
  simp only [escWaitExpiry, hw, atExpiry_some]

/-! ## PFC (R278) -/

/-- A second write at a number replaces the first. -/
theorem tset_tset {α : Type} (t : Tbl α) (k : Nat) (v w : α) : tset (tset t k v) k w = tset t k w := by
  induction t with
  | nil => simp [tset]
  | cons p r ih =>
    obtain ⟨i, x⟩ := p
    by_cases hlt : k < i
    · simp [tset, hlt]
    · by_cases he : k = i
      · simp [tset, he]
      · simp [tset, hlt, he, ih]

/-- A port's priority `i` pauses where the frame enables it. -/
def pauseOne (n enable : Nat) (times : List Nat) (d : Dev) (i : Nat) : Dev :=
  if enable.testBit i then modPort n (fun p => { p with pfc := tset p.pfc i (d.now + quantaNs d n (times.getD i 0)) }) d else d

theorem gotPfc_eq_foldl (n enable : Nat) (times : List Nat) (d : Dev) :
    gotPfc n enable times d = (List.range 8).foldl (pauseOne n enable times) d := rfl

/-- The table of pauses once the frame's pause of priority `i`, of which `ends` gives the end, has replaced the one that ran. -/
def pauseIn (enable : Nat) (ends : Nat → Nat) (t : Tbl Nat) (i : Nat) : Tbl Nat := if enable.testBit i then tset t i (ends i) else t

/-- The end of a frame's pause of priority `i`. -/
def pauseEnd (n : Nat) (times : List Nat) (d : Dev) (i : Nat) : Nat := d.now + quantaNs d n (times.getD i 0)

/-- On a port that the table lists, pauses change the table of pauses alone. -/
theorem foldl_pauseOne_setPort (n enable : Nat) (times : List Nat) (d : Dev) (l : List Nat) (x : FPort) :
    l.foldl (pauseOne n enable times) (setPort n x d) =
      setPort n { x with pfc := l.foldl (pauseIn enable (pauseEnd n times d)) x.pfc } d := by
  induction l generalizing x with
  | nil => rfl
  | cons i r ih =>
    have hstep : pauseOne n enable times (setPort n x d) i =
        setPort n { x with pfc := pauseIn enable (pauseEnd n times d) x.pfc i } d := by
      cases hb : enable.testBit i with
      | false => simp [pauseOne, pauseIn, hb]
      | true =>
        simp only [pauseOne, pauseIn, hb, if_true, modPort, getPort_setPort]
        simp only [setPort, tset_tset]
        rfl
    rw [List.foldl_cons, hstep, ih, List.foldl_cons]

/-- For a frame that pauses some priority it is all one whether the table lists the port, at its reset values, or not. -/
theorem foldl_pauseOne_of_some {n enable i : Nat} {times : List Nat} {l : List Nat} (d : Dev) (hi : i ∈ l) (hb : enable.testBit i = true) :
    l.foldl (pauseOne n enable times) d = l.foldl (pauseOne n enable times) (setPort n (getPort d n) d) := by
  induction l with
  | nil => cases hi
  | cons j r ih =>
    rw [List.foldl_cons, List.foldl_cons]
    cases hj : enable.testBit j with
    | true =>
      have hstep : pauseOne n enable times (setPort n (getPort d n) d) j = pauseOne n enable times d j := by
        simp only [pauseOne, hj, if_true, modPort, getPort_setPort]
        simp only [setPort, tset_tset]
        rfl
      rw [hstep]
    | false =>
      have hr : i ∈ r := (List.mem_cons.mp hi).resolve_left fun h => by simp [← h, hb] at hj
      simp only [pauseOne, hj, Bool.false_eq_true, if_false]
      exact ih hr

/-- A frame that pauses no priority changes nothing. -/
theorem foldl_pauseOne_of_none {n enable : Nat} {times : List Nat} {l : List Nat} (d : Dev) (h : ∀ i ∈ l, enable.testBit i = false) :
    l.foldl (pauseOne n enable times) d = d := by
  induction l with
  | nil => rfl
  | cons i r ih =>
    obtain ⟨hi, hr⟩ := List.forall_mem_cons.mp h
    rw [List.foldl_cons, pauseOne, hi, if_neg Bool.false_ne_true, ih hr]

/-- The table of pauses afterwards: the frame's pauses, and of the other priorities those that ran. -/
theorem tget_foldl_pauseIn (enable : Nat) (ends : Nat → Nat) (l : List Nat) (t : Tbl Nat) (i : Nat) :
    tget (l.foldl (pauseIn enable ends) t) i = if i ∈ l ∧ enable.testBit i = true then some (ends i) else tget t i := by
  induction l generalizing t with
  | nil => simp
  | cons j r ih =>
    rw [List.foldl_cons, ih, pauseIn]
    by_cases hr : i ∈ r ∧ enable.testBit i = true
    · simp [hr]
    · rw [if_neg hr]
      by_cases hij : i = j
      · subst hij
        cases hb : enable.testBit i <;> simp
      · have hcons : ¬(i ∈ j :: r ∧ enable.testBit i = true) := by simpa [hij] using hr
        rw [if_neg hcons]
        split
        · exact tget_tset_ne _ _ hij
        · rfl

/-- The low eight bits of a number are all clear where it is a multiple of 256. -/
theorem mod_256_eq_zero_iff (x : Nat) : x % 256 = 0 ↔ ∀ i ∈ List.range 8, x.testBit i = false := by
  rw [show 256 = 2 ^ 8 from rfl]
  constructor
  · intro h i hi
    have hbit : (x % 2 ^ 8).testBit i = Nat.testBit 0 i := by rw [h]
    rwa [Nat.testBit_mod_two_pow, decide_eq_true (List.mem_range.mp hi), Bool.true_and, Nat.zero_testBit] at hbit
  · intro h
    refine Nat.eq_of_testBit_eq fun i => ?_
    rw [Nat.testBit_mod_two_pow, Nat.zero_testBit]
    by_cases hi : i < 8
    · rw [h i (List.mem_range.mpr hi), Bool.and_false]
    · rw [decide_eq_false hi, Bool.false_and]

/-- A frame changes its port's table of pauses alone, and one that enables no priority nothing. -/
theorem gotPfc_ports (n enable : Nat) (times : List Nat) (d : Dev) :
    (gotPfc n enable times d).ports =
      if enable % 256 = 0 then d.ports
      else tset d.ports n { getPort d n with pfc := (List.range 8).foldl (pauseIn enable (pauseEnd n times d)) (getPort d n).pfc } := by
  rw [gotPfc_eq_foldl]
  split
  case isTrue h => rw [foldl_pauseOne_of_none d ((mod_256_eq_zero_iff _).mp h)]
  case isFalse h =>
    rw [mod_256_eq_zero_iff] at h
    push Not at h
    obtain ⟨i, hi, hb⟩ := h
    rw [foldl_pauseOne_of_some d hi (Bool.eq_true_of_not_eq_false hb), foldl_pauseOne_setPort]
    rfl

/-- A pause of a priority ends at its moment. -/
theorem pfcExpiry_of_paused {n i t : Nat} {d : Dev} (ht : tget (getPort d n).pfc i = some t) :
    pfcExpiry n i d = modPort n (fun p => { p with pfc := tdel p.pfc i }) (advanceTo t d) := by
  rw [pfcExpiry, ht, atExpiry_some]

/-- An XOFF that stands at half its time is sent again, unless the frames that leave by then end it. -/
theorem xoffRefresh_of_off {n i t : Nat} {d : Dev} (hu : (getPort d n).up = true) (he : isEth d n = true)
    (ho : (offShown (getPort d n)).getLsbD i = true) (ht : tget (getPort d n).xoffAt i = some t) :
    xoffRefresh n i d =
      let u := pumpLeaving n (advanceTo (t + quantaNs d n 0xFFFF / 2) d)
      if (offShown (getPort u n)).getLsbD i then sendPfc n (1 <<< i) (1 <<< i) u else u := by
  simp only [xoffRefresh, hu, he, ho, ht, Bool.and_self, Bool.not_true, Bool.false_eq_true, if_false, Option.map_some, atExpiry_some]

end Sys2Proof.Machine

open Sys2Proof Sys2Proof.Machine

/-- Settles O34: a codeword decodes or not, a flit's FCRC holds or not, a frame is one of three kinds, and a packet in transit is bad, routed
or without a route. -/
theorem arrivalsComplete : Obligations.ArrivalsComplete := by
  unfold Obligations.ArrivalsComplete
  refine ⟨fun s n c ha hl => ?codeword, fun d n f hl hv => ⟨fun hc hvc => ?passes, ?fails⟩, fun s n f p ha hn hu he => ?frame,
    fun s n vc m v p ha hd hn hu he hvc hdst hfw hf hr => ?routed, fun s n vc p ha hd hn hu he hvc hdst hfw => ?dropped,
    fun s id w ha hw => ?escape⟩
  case codeword =>
    have hexec : exec (.flitReceive n c) s = after s (settleAll (startTriggered (flitReceive n c s.dev))) := runRetire_of_alive ha
    obtain ⟨hdec, hbad⟩ := flitReceive_of_on (c := c) hl
    exact ⟨fun l fixed hc => by rw [hexec, hdec l fixed hc], fun hc => by rw [hexec, hbad hc]⟩
  case passes =>
    rw [takeFlit_of_data hl hv, if_pos hc]
    exact flitPasses_of_data hv hvc
  case fails =>
    intro d'
    have hfail (hc : fcrcOk d n f = false) : takeFlit n d f = if (getPort d n).awaiting = none then requestReplay n d' else d' := by
      rw [takeFlit_of_data hl hv, hc, if_neg Bool.false_ne_true, flitFails_of_on hl]
    exact ⟨fun hc hw => by rw [hfail hc, if_pos hw], fun hc hw => by rw [hfail hc, if_neg hw]⟩
  case frame =>
    intro d v d' p'
    have hexec : exec (.ethFrameReceive n f p) s = after s (settleAll (startTriggered (
        if frameIsOurs d n f then (if forUs d' p' then rxPacket n p' d' else bump 0x26 n d')
        else if frameSolicits d n f then emit (.neighAdvert n) d else bump 0x26 n d))) := by
      show runRetire (ethFrame n f p) s = _
      rw [runRetire_of_alive ha, ethFrame_of_up hn hu he]
    exact ⟨fun ho => by rw [hexec, ho, if_pos rfl], fun ho hs => by rw [hexec, ho, hs, if_neg Bool.false_ne_true, if_pos rfl],
      fun ho hs => by rw [hexec, ho, hs, if_neg Bool.false_ne_true, if_neg Bool.false_ne_true]⟩
  case routed =>
    show runLevels (transitPacket n vc p false) s = _
    rw [runLevels_of_alive ha, transitPacket_of_routed ⟨hd, hn, hu, he, hvc, hdst, hfw⟩ hf hr]
    rfl
  case dropped =>
    have harr : Arrives s.dev n vc p := ⟨hd, hn, hu, he, hvc, hdst, hfw⟩
    have hexec (bad : Bool) : exec (.transitPacket n vc p bad) s = after s (settleAll (transitPacket n vc p bad s.dev)) :=
      runLevels_of_alive ha
    exact ⟨fun bad hb => by rw [hexec, transitPacket_of_bad harr hb], fun hf hr => by rw [hexec, transitPacket_of_unrouted harr hf hr]⟩
  case escape =>
    show runLevels (escWaitExpiry id) s = _
    rw [runLevels_of_alive ha, escWaitExpiry_of_waiting hw]

/-- Settles O35: a frame's pauses go into the port's table one priority after the other, a pause ends at its moment, and an XOFF that still
stands at half its time is sent again. -/
theorem pfcCompletes : Obligations.PfcCompletes := by
  unfold Obligations.PfcCompletes
  refine ⟨fun s n enable times ha hu he => ?frame, fun s n i t ha ht => ?expiry, fun s n i t ha hu he ho ht => ?refresh⟩
  case frame =>
    refine ⟨_, ?_, gotPfc_ports n enable times s.dev, fun _ i hi => ?_⟩
    · show runLevels (fun d => if (getPort d n).up && isEth d n then gotPfc n enable times d else d) s = _
      rw [runLevels_of_alive ha, hu, he, Bool.and_self, if_pos rfl]
    · rw [tget_foldl_pauseIn]
      simp only [List.mem_range.mpr hi, true_and]
      rfl
  case expiry =>
    show runLevels (pfcExpiry n i) s = _
    rw [runLevels_of_alive ha, pfcExpiry_of_paused ht]
    rfl
  case refresh =>
    intro d
    have hexec : exec (.pfcXoffRefresh n i) s = after s (settleAll
        (if (offShown (getPort d n)).getLsbD i then sendPfc n (1 <<< i) (1 <<< i) d else d)) := by
      show runLevels (xoffRefresh n i) s = _
      rw [runLevels_of_alive ha, xoffRefresh_of_off hu he ho ht]
    exact ⟨fun h => by rw [hexec, h, if_pos rfl], fun h => by rw [hexec, h, if_neg Bool.false_ne_true]⟩

end

section
/-!
PROOF. Power states of lane groups, engines and stacks, and route sets (07, 15): PWR_SET, idle timers, Soufflé and parking.
-/
namespace Sys2Proof.Machine

/-! ## PWR_SET and ROUTESET_SET (R263, R490) -/

/-- PWR_SET of a policy that R490's table does not refuse gives it to each object that it names. -/
theorem pwrSetBody_of_allowed {p : PwrSetP} {h : Cmd} {c : CmdInfo} {d : Dev} (hr : pwrRefusal d p = none) :
    pwrSetBody p h c d = ok c h ((pwrObjs p).foldl (fun d o => pwrOne p o d) d) := by
  simp only [pwrSetBody, hr]

/-- A route set that no slice uses may become invalid. -/
theorem routesetSetBody_of_invalid {n : Nat} {e : BitVec 128} {h : Cmd} {c : CmdInfo} {d : Dev} (hv : rsV e = false)
    (hu : ∀ x ∈ d.slices, x.2.st = .free ∨ x.2.routeSet ≠ n) :
    routesetSetBody n e h c d =
      ok c h { d with routing := { d.routing with routeSets := tset d.routing.routeSets n e } } := by
  have hunused : (d.slices.any fun p => p.2.st != .free && p.2.routeSet == n) = false := by
    rw [List.any_eq_false]
    intro x hx
    rcases hu x hx with hfree | hother
    · simp [hfree]
    · simp [hother]
  simp only [routesetSetBody, hv, hunused, Bool.not_false, if_true, Bool.false_eq_true, if_false]

/-! ## Idle timers and Soufflé (R490, R491) -/

/-- An idle object that no path pins and that does not wake enters its lower state at its timer. -/
theorem powerIdle_of_idle {o : PowerObj} {st : PState} {w : Nat} {d : Dev} (hp : pinned d o = false) (hw : hasWork d o = false)
    (hd : (getPower d o).wakeDue = none) (hn : nextLower o (getPower d o) = some (st, w)) :
    powerIdle o d = setPower o { getPower d o with st := st } (advanceTo (idleFrom d o + w) d) := by
  simp only [powerIdle, hp, hw, hd, hn, Option.isSome_none, Bool.or_self, Bool.false_eq_true, if_false, atExpiry_some]

/-- A Soufflé ends at its moment. -/
theorem souffleDone_of_waking {o : PowerObj} {t : Nat} {d : Dev} (ht : (getPower d o).wakeDue = some t) :
    souffleDone o d = wokenUp o (advanceTo t d) := by
  rw [souffleDone, ht, atExpiry_some]

/-! ## Parking (R492, R493) -/

/-- From ENTER_AT the transmitter of a lane group that is up goes off once its link is quiet. -/
theorem parkStart_of_due {o : PowerObj} {t : Nat} {d : Dev} (hp : parkOf d o = (some t, false)) (hu : laneUp d o = true) :
    parkStart o d =
      let u := advanceTo (momentOf d t) d
      if laneQuiet u o then setPark o (some t) true u else u := by
  simp only [parkStart, hp, hu, if_true, atExpiry_some]

/-- A port parks when its transmitter is off and its peer silent. -/
theorem portParked_of_off {o : PowerObj} {t : Nat} {d : Dev} (hp : parkOf d o = (some t, true)) :
    portParked o d = setPower o { getPower d o with st := .meringue, wakeDue := none } (setPark o none true d) := by
  simp only [portParked, hp]

/-- The passing of time leaves the ports alone. -/
theorem getPort_advanceTo (t n : Nat) (d : Dev) : getPort (advanceTo t d) n = getPort d n := by
  unfold advanceTo
  split <;> rfl

theorem parkOf_fab_advanceTo (t n : Nat) (d : Dev) : parkOf (advanceTo t d) (.fab n) = parkOf d (.fab n) := by
  simp only [parkOf, getPort_advanceTo]

/-- A fabric port whose transmitter is off and that has not parked within 10 µs of ENTER_AT stays ACTIVE, and counts. -/
theorem parkTimeout_of_off {n t : Nat} {d : Dev} (hn : n < 64) (hp : parkOf d (.fab n) = (some t, true)) :
    parkTimeout (.fab n) d =
      let u := setPark (.fab n) none false (bump 0x25 n (advanceTo (momentOf d (t + 10000)) d))
      resumeTx n (setPower (.fab n) { getPower u (.fab n) with st := .active, idleSince := u.now, wakeDue := none } u) := by
  simp only [parkTimeout, linkOf, hp, hn, if_true, atExpiry_some, parkOf_fab_advanceTo]

/-- The peer's energy starts the Soufflé of a parked port. -/
theorem parkedSignal_of_parked {n : Nat} {d : Dev} (hn : n < 64) (hm : (getPower d (.fab n)).st = .meringue) :
    parkedSignal (.fab n) d = startWake (.fab n) d := by
  have hlink : (linkOf (.fab n)).isSome = true := by rw [linkOf, if_pos hn]; rfl
  rw [parkedSignal, if_pos ⟨hm, hlink⟩]

/-- A parked port that has not resumed 3 µs after its Soufflé started goes down. -/
theorem unparkTimeout_of_waking {n t : Nat} {d : Dev} (hn : n < 64) (hm : (getPower d (.fab n)).st = .meringue)
    (hw : (getPower d (.fab n)).wakeDue = some t) :
    unparkTimeout (.fab n) d =
      let u := advanceTo (t + 1500) d
      awakeDone (portDown n 0 (setPower (.fab n)
        { getPower u (.fab n) with st := .active, deepest := .standby, wakeDue := none, idleSince := u.now } (setPark (.fab n) none false u))) := by
  have hlink : (linkOf (.fab n)).isSome = true := by rw [linkOf, if_pos hn]; rfl
  simp only [unparkTimeout, hm, hw, hlink, if_true, atExpiry_some]

end Sys2Proof.Machine

open Sys2Proof Sys2Proof.Machine

/-- Settles O39: the two commands pass their checks, and every event has one guard, which the clause gives; a timer acts at its moment. -/
theorem powerCommandsComplete : Obligations.PowerCommandsComplete := by
  unfold Obligations.PowerCommandsComplete
  refine ⟨fun s h p ht hb hr => ?policy, fun s h n e ht hn h0 hb hv hu => ?routeSet, fun s o st w ha hp hw hd hn => ?idle,
    fun s o ha => ?souffle, fun s o t ha ht => ?souffleEnds, fun s o t ha hp hu => ?parkStarts, fun s n t ha hn hp => ⟨?parked, ?stays⟩,
    fun s n ha hn hm => ⟨?signal, fun t hw => ?lost⟩⟩
  case policy =>
    show run (pwrSetEffect h p) s = _
    rw [pwrSetEffect, run_command_of_takes _ ht hb, pwrSetBody_of_allowed hr]
  case routeSet =>
    have hgood : firstBad [(8, decide (n < 64)), (24, decide (fld e 127 72 = 0) && !bit e 67)] = none := by
      simp [firstBad_eq_none_iff, hn, h0, hb]
    show runLevels (routesetSetEffect h n e) s = _
    rw [routesetSetEffect, runLevels_command_of_takes _ ht hgood, routesetSetBody_of_invalid hv hu]
  case idle =>
    show runLevels (powerIdle o) s = _
    rw [runLevels_of_alive ha, powerIdle_of_idle hp hw hd hn]
  case souffle => exact runLevels_of_alive ha
  case souffleEnds =>
    show runRetire (reopening (souffleDone o)) s = _
    rw [runRetire_of_alive ha]
    exact congrArg (fun d => after s (settleAll (startTriggered d))) (reopening_congr (souffleDone_of_waking ht))
  case parkStarts =>
    show runLevels (parkStart o) s = _
    rw [runLevels_of_alive ha, parkStart_of_due hp hu]
  case parked =>
    show runLevels (portParked (.fab n)) s = _
    rw [runLevels_of_alive ha, portParked_of_off hp]
    rfl
  case stays =>
    show runRetire (reopening (parkTimeout (.fab n))) s = _
    rw [runRetire_of_alive ha]
    exact congrArg (fun d => after s (settleAll (startTriggered d))) (reopening_congr (parkTimeout_of_off hn hp))
  case signal =>
    show runLevels (parkedSignal (.fab n)) s = _
    rw [runLevels_of_alive ha, parkedSignal_of_parked hn hm]
  case lost =>
    show runRetire (unparkTimeout (.fab n)) s = _
    rw [runRetire_of_alive ha, unparkTimeout_of_waking hn hm hw]

end

section
/-!
PROOF. Ports (07, 10): retraining and its end, the end of a narrowing, HOST_RESUME, and the movable window.
-/
namespace Sys2Proof.Machine

/-! ## Training (R243, R244, R537) -/

/-- PORT_RETRAIN of a fabric port takes it down, and its reply waits for the training. -/
theorem portRetrain_of_fabric {h : Cmd} {n : Nat} {d : Dev} (ha : accepts d 0x0501 h false = true) (hn : n < 64)
    (hp : portNamed d n = true) (hr : d.transitReset = false) :
    portRetrain h n d = waitOn h 0x0501 (.port n) (modPort n (fun p => { p with training := true })
      (if (getPort d n).up then portDown n 3 d else devEvent 0x30 0 (n / 2) n 3 0 d)) := by
  have hop : (cmdRow 0x0501).op = 0x0501 := cmdRow_op _ rfl
  rw [portRetrain, command_of_accepts _ ha, hp, hr, hop, if_pos hn]
  rfl

/-- PORT_TRAINED of a fabric port. -/
theorem exec_portTrained_of_fabric {s : State} {n rtt : Nat} (peer : PeerLink) (ha : alive s.ao = true) (hn : n < 64) :
    exec (.portTrained n peer rtt) s =
      after s (settleAll (startTriggered (fabTrained n peer.full peer.width rtt s.dev))) := by
  show runRetire (fun d => if n < 64 then fabTrained n peer.full peer.width rtt d
    else if n < 72 then accTrained (n - 64) peer rtt d else d) s = _
  rw [runRetire_of_alive ha, if_pos hn]

/-- A port that cannot train stays as it is. -/
theorem fabTrained_of_cannot {n width rtt : Nat} {full : Bool} {d : Dev} (hc : cannotTrain d n = true) :
    fabTrained n full width rtt d = retrainDone n (getPort d n).up (modPort n (fun p => { p with training := false }) d) := by
  rw [fabTrained, if_pos hc]

/-- The configuration under which a port has trained. -/
def trainedCfg (n : Nat) (d : Dev) : Dev := modPort n (fun p => { p with training := false }) (loadCfg n d)

/-- The adapter tells its peer how a native port is configured. -/
def tellPeer (n : Nat) (d : Dev) : Dev := emit (.peerFlit n (portMode d n) (fullFec d n) (cfgWidth d n) d.routing.selfEpid) d

/-- What a port that may train does with its training: an Ethernet port comes up; a native one whose round trip is too long, or whose peer
is configured otherwise, does not (R243, R244). -/
theorem fabTrained_of_can {n width rtt : Nat} {full : Bool} {d : Dev} (hc : cannotTrain d n = false) :
    fabTrained n full width rtt d =
      let t := trainedCfg n d
      if portExists t n = false then retrainDone n false t
      else if isEth t n then retrainDone n true (portComesUp n rtt t)
      else if 1500 < rtt then retrainDone n false (devEvent 0x32 0 (n / 2) n rtt 0 t)
      else if full = fullFec t n ∧ width = cfgWidth t n then retrainDone n true (portComesUp n rtt (tellPeer n t))
      else retrainDone n false (devEvent 0x31 0 (n / 2) n 0 0 (tellPeer n t)) := by
  rw [fabTrained, hc, if_neg Bool.false_ne_true]
  simp only [Bool.not_eq_true']
  rfl

/-- NARROW_COMPLETE of a fabric port. -/
theorem narrowComplete_of_fabric {n lanes : Nat} {next : BitVec 16} {d : Dev} (hn : n < 64) :
    narrowComplete n lanes next d = narrowDone n lanes next d := by
  have hzal : (!(decide (64 ≤ n) && linkIsZal d n)) = true := by simp [hn]
  rw [narrowComplete, if_pos hzal]

/-! ## HOST_RESUME (R368 to R370) -/

theorem ioPort_of_named {k : Nat} (hk : k = 15 ∨ k < 8) : ioPort k = true := by simpa [ioPort] using hk

/-- HOST_RESUME with ACTION REPLAY of a port that is up and not fenced. -/
theorem hostResume_replay {h : Cmd} {k : Nat} {d : Dev} (ha : accepts d 0x0801 h false = true) (hk : k = 15 ∨ k < 8)
    (hu : (getIo d k).up = true) (hf : (getIo d k).fenced = false) : hostResume h k 0 0 d = replayPort (cmdRow 0x0801) h k d := by
  rw [hostResume, command_of_good _ ha (by simp [firstBad_eq_none_iff, ioPort_of_named hk])]
  simp [hu, hf]

/-- HOST_RESUME with ACTION FAIL of a port that is up. -/
theorem hostResume_fail {h : Cmd} {k discard : Nat} {d : Dev} (ha : accepts d 0x0801 h false = true) (hk : k = 15 ∨ k < 8)
    (hu : (getIo d k).up = true) (hd : discard < 2) :
    hostResume h k 1 discard d = failPort (cmdRow 0x0801) h k (discard == 1) d := by
  rw [hostResume, command_of_good _ ha (by simp [firstBad_eq_none_iff, ioPort_of_named hk, hd])]
  simp [hu]

/-! ## The movable window (R351 to R355) -/

/-- No byte of a range that ends in time lies past the end. -/
theorem bytesPast_of_inside {a n e : Nat} (h : a + n ≤ e) : bytesPast a n e = 0 := by
  simp only [bytesPast, Nat.min_eq_right h, Nat.max_eq_right (Nat.le_add_right a n), Nat.sub_self]

/-- A write that BAR4 takes: the window is on, and the write is not empty and lies inside it. -/
theorem windowTakes {off : Nat} {data : List Byte} {d : Dev} (ht : d.winTarget ≠ 0) (hlen : off + data.length ≤ 2 ^ 28) (hne : data ≠ []) :
    ¬(d.winTarget = 0 ∨ data.isEmpty = true ∨ 2 ^ 28 < off + data.length) :=
  not_or.mpr ⟨ht, not_or.mpr ⟨mt List.isEmpty_iff.mp hne, hlen.not_gt⟩⟩

/-- A write through the window to the stacks. -/
theorem bar4Write_of_stacks {off : Nat} {data : List Byte} {ep : Bool} {d : Dev} (hlen : off + data.length ≤ 2 ^ 28) (hne : data ≠ [])
    (ht : d.winTarget = 1) : bar4Write off data ep d = winSmemWrite (d.winBase * 2 ^ 20 + off) data ep d := by
  rw [bar4Write, if_neg (windowTakes (by omega) hlen hne), if_pos ht]

/-- A write through the window to an accelerator's memory, inside its address space. -/
theorem bar4Write_of_accelerator {off : Nat} {data : List Byte} {ep : Bool} {d : Dev} (hlen : off + data.length ≤ 2 ^ 28)
    (hne : data ≠ []) (ht : 2 ≤ d.winTarget) (hu : (getIo d (d.winTarget - 2)).up = true)
    (hend : d.winBase * 2 ^ 20 + off + data.length ≤ 2 ^ 52) :
    bar4Write off data ep d = store d.winTarget (d.winBase * 2 ^ 20 + off) data ep false deviceOwner none d := by
  have hon : d.winTarget ≠ 0 := by omega
  have hacc : d.winTarget ≠ 1 := by omega
  simp only [bar4Write, if_neg (windowTakes hon hlen hne), if_neg hacc, hu, Bool.not_true, Bool.false_eq_true, if_false,
    bytesPast_of_inside hend, Nat.sub_zero, List.take_length, bumpBy, if_true]

/-- Above the backing store the window shows the bytes of the stacks as they are. -/
theorem winBytes_of_above {a : Nat} (h : backingEnd ≤ a) (n v : Nat) (d : Dev) : winBytes d a n v = memRead d.mem a n := by
  have hown (i : Nat) : ownStore (a + i) = false := by
    have : ¬a + i < backingEnd := by omega
    simp [ownStore, this]
  simp only [winBytes, hown, Bool.false_eq_true, if_false, memRead_eq_map]

/-- A read of the stacks through the window, above the backing store and inside the stacks. -/
theorem smemBarRead_of_inside {a n : Nat} (h : backingEnd ≤ a) (hend : a + n ≤ smemBytes) (d : Dev) :
    smemBarRead a n d = emit (.barRead (memRead d.mem a n) (poisonedAt d a n)) d := by
  have hpad (l : List Byte) (hl : l.length = n) : padTo l n = l := by rw [← hl, padTo_self]
  simp only [smemBarRead, bytesPast_of_inside hend, Nat.sub_zero, if_neg h.not_gt, winBytes_of_above h, hpad _ (memRead_length _ _ _)]

/-- A read through a window that is off brings zeros. -/
theorem bar4Read_of_off {off n : Nat} {d : Dev} (ht : d.winTarget = 0) :
    bar4Read off n d = emit (.barRead (List.replicate n 0) false) d := by
  rw [bar4Read, if_pos (.inl ht)]

/-- The one read through BAR4 that waits completes where no write goes before it. -/
theorem pumpBar_of_one {r : BarRead} {d : Dev} (hw : windowWaits d = false) :
    pumpBar { d with barReads := [r] } = barReadNow r { d with barReads := [] } := by
  have hw' : windowWaits { d with barReads := [r] } = false := hw
  rw [pumpBar, hw', if_neg Bool.false_ne_true]
  rfl

/-- A read through the window to the stacks, with nothing before it, completes at once. -/
theorem bar4Read_of_stacks {off n : Nat} {d : Dev} (hlen : off + n ≤ 2 ^ 28) (ht : d.winTarget = 1) (hr : d.barReads = [])
    (hw : windowWaits d = false) : bar4Read off n d = smemBarRead (d.winBase * 2 ^ 20 + off) n d := by
  have hopen : ¬(d.winTarget = 0 ∨ 2 ^ 28 < off + n) := by omega
  have hsame : { d with barReads := [] } = d := by rw [← hr]
  rw [bar4Read, if_neg hopen, hr, List.nil_append, pumpBar_of_one hw, barReadNow, if_pos ht, hsame]

end Sys2Proof.Machine

open Sys2Proof Sys2Proof.Machine

/-- Settles O41: each clause's conditions are the guards of one branch of the row's own rule. A port that cannot train stays as it is
(log 135). -/
theorem portCommandsComplete : Obligations.PortCommandsComplete := by
  unfold Obligations.PortCommandsComplete
  refine ⟨fun s h n ht hn hp hr => ?retrain, fun s n width rtt full reset ha hn hc => ?trained,
    fun s n width rtt full reset ha hn hc => ?cannot, fun s n lanes next ha hn => ?narrow,
    fun s h k ht hk hu => ⟨fun hf => ?replay, fun discard hd => ?fail⟩, fun s v ha => ?window,
    fun s off data ep ha hlen hne => ⟨fun ht => ?writeStacks, fun ht hu hend => ?writeAcc⟩,
    fun s off n ha hlen => ⟨fun ht => ?readOff, fun ht hlo hend hr hw => ?readStacks⟩⟩
  case retrain =>
    obtain ⟨ha, hc⟩ := ht
    show runRetire (portRetrain h n) s = _
    rw [runRetire_of_alive ha, portRetrain_of_fabric hc hn hp hr]
  case trained =>
    intro d e out
    have hexec : exec (.portTrained n ⟨full, width, reset⟩ rtt) s = out (
        if portExists d n = false then retrainDone n false d
        else if isEth d n then retrainDone n true (portComesUp n rtt d)
        else if 1500 < rtt then retrainDone n false (devEvent 0x32 0 (n / 2) n rtt 0 d)
        else if full = fullFec d n ∧ width = cfgWidth d n then retrainDone n true (portComesUp n rtt e)
        else retrainDone n false (devEvent 0x31 0 (n / 2) n 0 0 e)) := by
      rw [exec_portTrained_of_fabric _ ha hn, fabTrained_of_can hc]
      rfl
    rw [hexec]
    refine ⟨fun hx he => ?ethernet, fun hx he hrtt hfull hwidth => ?agrees, fun hx he hrtt hother => ?differs, fun hx he hrtt => ?far,
      fun hx => ?absent⟩
    case ethernet => simp only [hx, he, Bool.true_eq_false, if_false, if_true]
    case agrees => simp only [hx, he, Bool.true_eq_false, Bool.false_eq_true, if_false, hrtt.not_gt, hfull, hwidth, and_self, if_true]
    case differs =>
      have hnot : ¬(full = fullFec d n ∧ width = cfgWidth d n) := fun ⟨hfull, hwidth⟩ => hother.elim (· hfull) (· hwidth)
      simp only [hx, he, Bool.true_eq_false, Bool.false_eq_true, if_false, hrtt.not_gt, hnot]
    case far => simp only [hx, he, Bool.true_eq_false, Bool.false_eq_true, if_false, hrtt, if_true]
    case absent => simp only [hx, if_true]
  case cannot => rw [exec_portTrained_of_fabric _ ha hn, fabTrained_of_cannot hc]
  case narrow =>
    show runRetire (reopening (narrowComplete n lanes next)) s = _
    rw [runRetire_of_alive ha]
    exact congrArg (fun d => after s (settleAll (startTriggered d))) (reopening_congr (narrowComplete_of_fabric hn))
  case replay =>
    obtain ⟨ha, hc⟩ := ht
    show runRetire (hostResume h k 0 0) s = _
    rw [runRetire_of_alive ha, hostResume_replay hc hk hu hf]
  case fail =>
    obtain ⟨ha, hc⟩ := ht
    show runRetire (hostResume h k 1 discard) s = _
    rw [runRetire_of_alive ha, hostResume_fail hc hk hu hd]
  case window => exact run_of_alive ha
  case writeStacks =>
    show runRetire (bar4Write off data ep) s = _
    rw [runRetire_of_alive ha, bar4Write_of_stacks hlen hne ht]
  case writeAcc =>
    show runRetire (bar4Write off data ep) s = _
    rw [runRetire_of_alive ha, bar4Write_of_accelerator hlen hne ht hu hend]
  case readOff =>
    show run (bar4Read off n) s = _
    rw [run_of_alive ha, bar4Read_of_off ht]
    rfl
  case readStacks =>
    show run (bar4Read off n) s = _
    rw [run_of_alive ha, bar4Read_of_stacks hlen ht hr hw, smemBarRead_of_inside hlo hend]
    rfl

end

section
/-!
PROOF. Rates in host-assisted mode (08): the reading of the rate table, and the end of a feedback interval.
-/
namespace Sys2Proof.Machine

/-! ## The rate table (R297) -/

/-- A field of a number is a quotient's remainder. -/
theorem bitsN_eq_div_mod (x hi lo : Nat) : bitsN x hi lo = x / 2 ^ lo % 2 ^ (hi + 1 - lo) := by
  rw [bitsN, Nat.shiftRight_eq_div_pow]

/-- In host-assisted mode the copy of a rate-table entry is stale where there is none, or it is older than RATE_POLL. -/
theorem rateStale_of_old {q : Qp} {d : Dev} (hh : ccHostAssisted d q = true)
    (ht : q.cc.tableAt = none ∨ ∃ t, q.cc.tableAt = some t ∧ t + (getSlice d q.slice).ratePoll < d.now) : rateStale d q = true := by
  rcases ht with hnone | ⟨t, hsome, hold⟩
  · simp [rateStale, hh, hnone]
  · simp [rateStale, hh, hsome, hold]

/-- RATE_TABLE_READ of a queue pair that has a packet to build reads a stale copy again. -/
theorem rateTableRead_of_stale {qpn : Nat} {q : Qp} {d : Dev} (hq : getQp d qpn = some q) (hl : sliceLive d q.slice = true)
    (hs : rateStale d q = true) (hp : hasPacket d qpn q = true) : rateTableRead qpn d = rateRead qpn d := by
  simp [rateTableRead, hq, hl, hs, hp]

/-- A queue pair that has just read its rate-table entry: its bucket is that of now. -/
def rateRefreshed (d : Dev) (q : Qp) : Qp :=
  { q with cc := { q.cc with bucket := bucketNow d q, bucketAt := d.now, tableAt := some d.now } }

/-- What the read of a rate-table entry does: only a valid entry without poison changes the values in force, and a WINDOW beyond the
largest is counted. -/
theorem rateRead_of_get {qpn : Nat} {q : Qp} {d : Dev} (hq : getQp d qpn = some q) :
    rateRead qpn d =
      let e := leNat (memRead d.mem (rateAddr qpn) 8)
      if poisonedAt d (rateAddr qpn) 8 = true then bump 0x19 q.slice (setQp qpn (rateRefreshed d q) d)
      else if e % 2 = 0 then setQp qpn (rateRefreshed d q) d
      else if 16384 < e / 2 ^ 16 % 2 ^ 24 then bump 0x18 q.slice (setQp qpn (applyRate e (rateRefreshed d q)) d)
      else setQp qpn (applyRate e (rateRefreshed d q)) d := by
  have hvalid (e : Nat) : ((!e.testBit 0) = true) ↔ e % 2 = 0 := by
    rw [Nat.testBit_zero, Bool.not_eq_true', decide_eq_false_iff_not, Nat.mod_two_not_eq_one]
  simp only [rateRead, hq, bitsN_eq_div_mod, hvalid]
  rfl

/-! ## Feedback (R298) -/

/-- The interval of a live slice in host-assisted mode ends at its moment: the next begins, what waits is written, and each queue pair's
record joins it. -/
theorem feedbackEffect_of_live {k : Nat} {d : Dev} (hs : (getSlice d k).st = .live) (hh : (getSlice d k).ccHa = true) :
    feedbackEffect k d =
      let t := advanceTo ((getSlice d k).fbSince + (getSlice d k).feedbackInterval) d
      let t := modSlice k (fun x => { x with fbSince := t.now }) t
      (t.qps.filter fun p => p.2.slice == k).foldl (fun u p => endInterval k p.1 u) (pumpFeedback k t) := by
  have hruns : ¬((getSlice d k).st ≠ .live ∨ (getSlice d k).ccHa = false) := by simp [hs, hh]
  simp only [feedbackEffect, if_neg hruns, atExpiry_some]

end Sys2Proof.Machine

open Sys2Proof Sys2Proof.Machine

/-- Settles O14: a stale copy is read, and the read's branches are the clause's own; an interval ends at its moment. -/
theorem hostAssistedRates : Obligations.HostAssistedRates := by
  unfold Obligations.HostAssistedRates
  refine ⟨fun s qpn q ha hq hl hh hp ht => ?table, fun s k ha hs hh => ?interval⟩
  case table =>
    show run (rateTableRead qpn) s = _
    rw [run_of_alive ha, rateTableRead_of_stale hq hl (rateStale_of_old hh ht) hp, rateRead_of_get hq]
    rfl
  case interval =>
    show run (feedbackEffect k) s = _
    rw [run_of_alive ha, feedbackEffect_of_live hs hh]
    rfl

end

section
/-!
PROOF. Fabric time (08): the adapter's clock, the commands of fabric time, TIME flits, the loss of the parent, PPS, and IEEE 1588.
-/
namespace Sys2Proof.Machine

/-! ## The adapter's clock (R306, R310) -/

/-- What a table gives for a number is in the table. -/
theorem mem_of_tget_eq_some {α : Type} {t : Tbl α} {k : Nat} {v : α} (h : tget t k = some v) : (k, v) ∈ t := by
  induction t with
  | nil => cases h
  | cons p r ih =>
    obtain ⟨i, w⟩ := p
    by_cases hi : i = k
    · simp only [tget, if_pos hi, Option.some.injEq] at h
      simp [hi, h]
    · simp only [tget, if_neg hi] at h
      exact List.mem_cons_of_mem _ (ih h)

/-- What holds of every port that the table lists, and of a port at reset, holds of every port. -/
theorem getPort_of_forall {P : FPort → Prop} {d : Dev} (h : ∀ p ∈ d.ports, P p.2) (h0 : P FPort.reset) (n : Nat) : P (getPort d n) := by
  rw [getPort, tgetD]
  cases ht : tget d.ports n with
  | none => exact h0
  | some p => exact h (n, p) (mem_of_tget_eq_some ht)

/-- A port of which no frame's bytes are due keeps them. -/
theorem pumpLeaving_of_early {n : Nat} {d : Dev} (h : ∀ x ∈ (getPort d n).leaving, d.now < x.2.2) : pumpLeaving n d = d := by
  have hnone : ((getPort d n).leaving.filter fun x => decide (x.2.2 ≤ d.now)) = [] := by
    rw [List.filter_eq_nil_iff]
    intro x hx
    simpa using h x hx
  rw [pumpLeaving, hnone]
  rfl

/-- Where no frame's bytes are due the ingress of every port stays. -/
theorem pumpIngress_of_early {d : Dev} (h : ∀ p ∈ d.ports, ∀ x ∈ p.2.leaving, d.now < x.2.2) : pumpIngress d = d := by
  refine List.foldlRecOn (motive := (· = d)) d.ports _ rfl fun t ht p _ => ?_
  subst ht
  split
  · rfl
  · exact pumpLeaving_of_early (getPort_of_forall (P := fun p => ∀ x ∈ p.leaving, t.now < x.2.2) h (by simp [FPort.reset]) p.1)

/-- One tick of the clock is 1 ns of local time. -/
theorem advanceTo_succ (d : Dev) :
    advanceTo (d.now + 1) d = { d with now := d.now + 1, time := { d.time with time := timeAfter d.time 1 } } := by
  rw [advanceTo, if_pos (Nat.lt_succ_self _), Nat.add_sub_cancel_left]

/-- With no command waiting a step is a tick. -/
theorem step_of_idle {s : State} (h : s.pending = []) : step s = .next (tick s) := by
  rw [step, h]

/-! ## TIME_SET, TIME_ADJ and SCH_TIME_CFG (R307, R312) -/

/-- A step to `ns` sets fabric time to it, and an instant that has been sampled stays sampled (R305). -/
theorem stepTime_to {ns : Nat} (h : ns < 2 ^ 64) (d : Dev) :
    stepTime (Int.ofNat (ns * 65536) - Int.ofNat d.time.time) d =
      devEvent 0x42 0 bankCore 0 (BitVec.ofInt 64 ((Int.ofNat (ns * 65536) - Int.ofNat d.time.time).tdiv 65536)).toNat 0
        { d with
          time := { d.time with time := ns * 65536 }
          lastSample := if d.lastSample = some (timeNs d) then some ns else none } := by
  have hset : (Int.ofNat d.time.time + (Int.ofNat (ns * 65536) - Int.ofNat d.time.time)).toNat = ns * 65536 := by
    rw [add_sub_cancel, Int.ofNat_eq_natCast, Int.toNat_natCast]
  have hns : ns * 65536 / 65536 % 2 ^ 64 = ns := by
    rw [Nat.mul_div_cancel _ (by decide), Nat.mod_eq_of_lt h]
  by_cases hsampled : d.lastSample = some (timeNs d)
  · simp only [stepTime, modTime, hset, hsampled, beq_self_eq_true, if_true]
    simp only [timeNs, hns]
  · simp only [stepTime, modTime, hset, beq_eq_false_iff_ne.mpr hsampled, Bool.false_eq_true, if_false, if_neg hsampled]

/-- TIME_SET at an adapter that follows no other clock. -/
theorem timeSetBody_of_root {ns : Nat} {h : Cmd} {c : CmdInfo} {d : Dev} (hf : isFollower d = false) :
    timeSetBody ns h c d = ok c h (stepTime (Int.ofNat (ns * 65536) - Int.ofNat d.time.time) d) := by
  rw [timeSetBody, hf, if_neg Bool.false_ne_true]

/-- TIME_ADJ at an adapter that follows no other clock, with an offset that keeps fabric time within its 64 bits. -/
theorem timeAdjBody_of_root {o : Int} {h : Cmd} {c : CmdInfo} {d : Dev} (hf : isFollower d = false)
    (hlo : 0 ≤ Int.ofNat (timeNs d) + o) (hhi : Int.ofNat (timeNs d) + o < 2 ^ 64) :
    timeAdjBody o h c d = ok c h (stepTime (o * 65536) d) := by
  simp only [timeAdjBody, hf, Bool.false_eq_true, if_false, if_neg (not_or.mpr ⟨hlo.not_gt, hhi.not_ge⟩)]

/-- A write of SCH_TIME_CFG that leaves SOURCE and PARENT alone. -/
theorem timeCfgWrite_of_same {v : U32} {d : Dev} (hv : fld v 27 24 ≤ 3)
    (hs : fld (v &&& 0x0F3FBF00) 27 16 = fld d.time.cfg 27 16) :
    timeCfgWrite v d = modTime (fun t => { t with cfg := v &&& 0x0F3FBF00 }) d := by
  simp only [timeCfgWrite, if_neg hv.not_gt, hs, if_true]

/-! ## TIME flits (R308 to R311) -/

/-- TIME_FLIT_SEND of a link whose transmitter is on. -/
theorem timeFlitSend_of_on {n : Nat} {d : Dev} (hn : n < 64) (hl : linkOn d n = true) (ht : txOn d n = true) :
    timeFlitSend n d =
      let t := advertise (advanceTo ((getPort d n).lastTimeAt.elim d.now (· + 2000)) d)
      modPort n (fun p => { p with lastTimeAt := some t.now }) (sendFlits n 1 (emit (.timeFlit n (timeFlitOf t (getPort t n))) t)) := by
  simp only [timeFlitSend, hn, hl, ht, decide_true, Bool.and_self, Bool.not_true, Bool.false_eq_true, if_false, atExpiry_some]

/-- The peer's advertised state and the two instants of a TIME flit are kept for the next exchange. -/
def keepTimeFlit (n : Nat) (t : TimeFlit) (rx : FracNs) : Dev → Dev :=
  modPort n fun p => { p with
    lastTimeTx := t.txTime, lastTimeRx := rx, peerState := t.state, peerHops := t.hops, peerRoot := t.root }

/-- A TIME flit that a port takes: within a replay it is discarded, and only the parent's is an exchange. -/
theorem timeFlitReceive_of_accepts {n : Nat} (t : TimeFlit) (rx : FracNs) (inReplay : Bool) {d : Dev} (hn : n < 64)
    (ha : acceptsFlit d n = true) :
    timeFlitReceive n t rx inReplay d =
      if inReplay = true then tookFlit n d
      else if follows (keepTimeFlit n t rx (tookFlit n d)) n then exchange n t rx (keepTimeFlit n t rx (tookFlit n d))
      else keepTimeFlit n t rx (tookFlit n d) := by
  simp only [timeFlitReceive, hn, ha, decide_true, Bool.and_self, Bool.not_true, Bool.false_eq_true, if_false]
  rfl

/-! ## The loss of the parent (R311, R314) -/

/-- A follower that has time, whose port is down or whose peer reports the loss, loses its parent at once; else once no valid time has come
for long enough. -/
theorem timeParentLost_of_follower {d : Dev} (hf : isFollower d = true) (hst : d.time.st = .acquiring ∨ d.time.st = .locked) :
    timeParentLost d =
      if (getPort d d.time.following).up = false ∨ (isEth d d.time.following = false ∧ peerLost (getPort d d.time.following) = true)
      then parentLost d
      else parentLost (advanceTo (d.time.lastSync + lossAfter d) d) := by
  have hfollows : (!isFollower d || !(d.time.st == .acquiring || d.time.st == .locked)) = false := by
    rcases hst with h | h <;> simp [hf, h]
  simp only [timeParentLost, hfollows, Bool.false_eq_true, if_false, atExpiry_some]

/-! ## PPS (R313) -/

/-- No moment of an option lies `k` or more back. -/
theorem any_add_le_eq_false {o : Option Nat} {k now : Nat} (h : ∀ t, o = some t → now < t + k) :
    (o.any fun t => decide (t + k ≤ now)) = false := by
  cases o with
  | none => rfl
  | some t => exact decide_eq_false (Nat.not_le.mpr (h t rfl))

/-- An edge of PPS_IN less than 1.1 s after the last disciplines the root. -/
theorem ppsInEdge_of_timely {ns : Nat} {d : Dev} (hs : timeSource d = 1)
    (ht : ∀ t, d.time.ppsLast = some t → d.now < t + 1100000000) :
    ppsInEdge ns d = servo (ppsOffset ns) none (modTime (fun t => { t with ppsTs := ns, ppsLast := some d.now }) d) := by
  simp only [ppsInEdge, hs, ne_eq, not_true_eq_false, if_false, any_add_le_eq_false ht, Bool.false_eq_true]

/-- A root of SOURCE 1 that has had no edge of PPS_IN for 1.1 s goes into HOLDOVER. -/
theorem ppsInMissing_of_root {d : Dev} (hs : timeSource d = 1) (hh : d.time.st ≠ .holdover) :
    ppsInMissing d = holdover (advanceTo (d.time.ppsLast.getD d.time.lastSync + 1100000000) d) := by
  rw [ppsInMissing, if_neg (not_or.mpr ⟨not_not.mpr hs, hh⟩), atExpiry_some]

/-- A timer that changes the time unit with an output. -/
theorem atExpiry_emit_modTime (t : Nat) (o : Out) (f : Dev → TimeUnit → TimeUnit) (d : Dev) :
    atExpiry (some t) (fun u => emit o (modTime (f u) u)) d =
      let u := advanceTo t d
      { u with time := f u u.time, out := u.out ++ [o] } := rfl

/-- PPS_OUT rises at the next whole second of fabric time. -/
theorem ppsOutPulse_of_low {d : Dev} (hp : d.time.ppsFall = none) :
    ppsOutPulse d =
      let t := advanceTo (momentOf d (ceilDiv (timeNs d) 1000000000 * 1000000000)) d
      { t with time := { t.time with ppsFall := some (t.now + 100000) }, out := t.out ++ [.pin "PPS_OUT" true] } := by
  simp only [ppsOutPulse, hp]
  exact atExpiry_emit_modTime _ _ (fun u x => { x with ppsFall := some (u.now + 100000) }) d

/-- PPS_OUT falls at its moment. -/
theorem ppsOutPulse_of_high {t : Nat} {d : Dev} (hp : d.time.ppsFall = some t) :
    ppsOutPulse d =
      let u := advanceTo t d
      { u with time := { u.time with ppsFall := none }, out := u.out ++ [.pin "PPS_OUT" false] } := by
  simp only [ppsOutPulse, hp]
  exact atExpiry_emit_modTime t _ (fun _ x => { x with ppsFall := none }) d

/-! ## IEEE 1588 (R314) -/

section
variable {n : Nat} {d : Dev} (hn : n < 64) (hu : (getPort d n).up = true) (he : isEth d n = true)
include hn hu he

/-- A security or management message is dropped and counted. -/
theorem ptpMessage_of_other {kind : Nat} (hk : 3 ≤ kind) (o : Int) : ptpMessage n kind o d = bump 0x26 n d := by
  simp only [ptpMessage, hn, hu, he, decide_true, Bool.and_self, Bool.not_true, Bool.false_eq_true, if_false,
    if_pos (Nat.lt_of_succ_le hk)]

variable (hs : timeSource d = 3) (hf : n = d.time.following)
include hs hf

/-- A message at the port that SOURCE 3 follows is a Sync, a Delay_Resp, or one that means nothing here. -/
theorem ptpMessage_of_followed {kind : Nat} (hk : kind < 3) (o : Int) :
    ptpMessage n kind o d = if kind = 0 then ptpSync n d else if kind = 1 then ptpResp n o d else d := by
  have hfollows : (decide (timeSource d ≠ 3) || !follows d n) = false := by simp [hs, follows, isFollower, ← hf]
  have hport : (!(decide (n < 64) && (getPort d n).up && isEth d n)) = false := by simp [hn, hu, he]
  unfold ptpMessage
  rw [hport, if_neg Bool.false_ne_true, if_neg (show ¬2 < kind by omega), hfollows, if_neg Bool.false_ne_true]
  interval_cases kind <;> rfl

end

/-- A Sync that comes while a control core hangs has its instant captured, and no more. -/
theorem ptpSync_of_hung {n : Nat} {d : Dev} (hc : d.cores ≠ 0x3F) : ptpSync n d = holdStamp n d := by
  rw [ptpSync, if_pos hc]

/-- A Sync that the firmware answers: it tells the Sync interval, and the instants of the Sync and of its Delay_Req are held. -/
theorem ptpSync_of_running {n : Nat} {d : Dev} (hc : d.cores = 0x3F) :
    ptpSync n d = emit (.ptpDelayReq n) (holdStamp n (holdStamp n (readStamps (modTime (fun t => { t with
      syncAt := some d.now, syncGap := (t.syncAt.map fun x => d.now - x).getD t.syncGap }) d)))) := by
  rw [ptpSync, if_neg (not_not.mpr hc)]

/-- A Delay_Resp that comes while a control core hangs is not read. -/
theorem ptpResp_of_hung {n : Nat} {o : Int} {d : Dev} (hc : d.cores ≠ 0x3F) : ptpResp n o d = d := by
  rw [ptpResp, if_pos hc]

/-- A Delay_Resp completes an exchange whose two instants are held. -/
theorem ptpResp_of_running {n : Nat} {o : Int} {d : Dev} (hc : d.cores = 0x3F) :
    ptpResp n o d = if d.time.ptpHeld.length = 2
      then advertise (servo o (some n) (modTime (fun t => { t with following := n }) (readStamps d))) else readStamps d := by
  simp only [ptpResp, if_neg (not_not.mpr hc), decide_eq_true_eq]

end Sys2Proof.Machine

open Sys2Proof Sys2Proof.Machine

/-- Settles O51: a tick is 1 ns, and where no frame's bytes are due it leaves the ingress of the ports alone. -/
theorem idleStepTicks : Obligations.IdleStepTicks := by
  unfold Obligations.IdleStepTicks
  intro s hp d
  have htick : step s = .next { s with dev := pumpIngress d } := by rw [step_of_idle hp, tick, advanceTo_succ]
  refine ⟨htick, fun hearly => ?_⟩
  rw [htick, pumpIngress_of_early hearly]

/-- Settles O40: each clause's conditions are the guards of the row's own rule; a step of fabric time is to the time that TIME_SET gives,
and a timer acts at its moment. -/
theorem timeComplete : Obligations.TimeComplete := by
  unfold Obligations.TimeComplete
  refine ⟨fun s h ns ht hf hns => ?set, fun s h o ht hf hlo hhi => ?adjust, fun s v ha hv hs => ?config, fun s n ha hn hl ht => ?send,
    fun s n t rx ha hn hacc => ⟨?replayed, ?received⟩, fun s ha hf hst => ⟨fun hd => ?parentDown, fun hu hp => ?parentSilent⟩,
    fun s ns ha hs ht => ?edge, fun s ha hs hh => ?noEdge, fun s ha => ⟨fun hp => ?rise, fun t hp => ?fall⟩,
    fun s n kind o ha hn hu he => ⟨fun hk => ?other, fun hs hf hc => ⟨?hungSync, ?hungResp⟩, fun hs hf hc => ⟨?sync, ?resp, ?general⟩⟩⟩
  case set =>
    show runLevels (timeSetEffect h ns) s = _
    rw [timeSetEffect, runLevels_command_of_takes _ ht rfl, timeSetBody_of_root hf, stepTime_to hns]
    rfl
  case adjust =>
    show runLevels (timeAdjEffect h o) s = _
    rw [timeAdjEffect, runLevels_command_of_takes _ ht rfl, timeAdjBody_of_root hf hlo hhi]
  case config =>
    show runLevels (timeCfgWrite v) s = _
    rw [runLevels_of_alive ha, timeCfgWrite_of_same hv hs]
    rfl
  case send =>
    show runLevels (timeFlitSend n) s = _
    rw [runLevels_of_alive ha, timeFlitSend_of_on hn hl ht]
  case replayed =>
    show runLevels (timeFlitReceive n t rx true) s = _
    rw [runLevels_of_alive ha, timeFlitReceive_of_accepts t rx true hn hacc, if_pos rfl]
  case received =>
    show runLevels (timeFlitReceive n t rx false) s = _
    rw [runLevels_of_alive ha, timeFlitReceive_of_accepts t rx false hn hacc, if_neg Bool.false_ne_true]
    rfl
  case parentDown =>
    show run timeParentLost s = _
    rw [run_of_alive ha, timeParentLost_of_follower hf hst, if_pos (.inl hd)]
  case parentSilent =>
    have hkeeps : ¬((getPort s.dev s.dev.time.following).up = false ∨
        (isEth s.dev s.dev.time.following = false ∧ peerLost (getPort s.dev s.dev.time.following) = true)) := by
      rcases hp with h | h <;> simp [hu, h]
    show run timeParentLost s = _
    rw [run_of_alive ha, timeParentLost_of_follower hf hst, if_neg hkeeps]
    rfl
  case edge =>
    show runLevels (ppsInEdge ns) s = _
    rw [runLevels_of_alive ha, ppsInEdge_of_timely hs ht]
    rfl
  case noEdge =>
    show run ppsInMissing s = _
    rw [run_of_alive ha, ppsInMissing_of_root hs hh]
  case rise =>
    show run ppsOutPulse s = _
    rw [run_of_alive ha, ppsOutPulse_of_low hp]
  case fall =>
    show run ppsOutPulse s = _
    rw [run_of_alive ha, ppsOutPulse_of_high hp]
  case other =>
    show runLevels (ptpMessage n kind o) s = _
    rw [runLevels_of_alive ha, ptpMessage_of_other hn hu he hk]
  case hungSync =>
    show runLevels (ptpMessage n 0 o) s = _
    rw [runLevels_of_alive ha, ptpMessage_of_followed hn hu he hs hf (by decide), if_pos rfl, ptpSync_of_hung hc]
  case hungResp =>
    show runLevels (ptpMessage n 1 o) s = _
    rw [runLevels_of_alive ha, ptpMessage_of_followed hn hu he hs hf (by decide), if_neg (by decide), if_pos rfl, ptpResp_of_hung hc]
  case sync =>
    show runLevels (ptpMessage n 0 o) s = _
    rw [runLevels_of_alive ha, ptpMessage_of_followed hn hu he hs hf (by decide), if_pos rfl, ptpSync_of_running hc]
    rfl
  case resp =>
    show runLevels (ptpMessage n 1 o) s = _
    rw [runLevels_of_alive ha, ptpMessage_of_followed hn hu he hs hf (by decide), if_neg (by decide), if_pos rfl, ptpResp_of_running hc]
    rfl
  case general =>
    show runLevels (ptpMessage n 2 o) s = _
    rw [runLevels_of_alive ha, ptpMessage_of_followed hn hu he hs hf (by decide), if_neg (by decide), if_neg (by decide)]

end

section
/-!
PROOF. Scheduling (08): shapers, congestion profiles, meters, gates, feedback rings, and the selection of a packet.
-/
namespace Sys2Proof.Machine

/-! ## Gates (R318 to R323) -/

/-- GATE_SET of a list that keeps R319 becomes pending, and replies the instant at which it becomes active. -/
theorem gateSetBody_of_good {n cycle base : Nat} {l : List U64} {h : Cmd} {c : CmdInfo} {d : Dev} (hb : gateBad d n cycle l = none) :
    gateSetBody n cycle base l h c d =
      let t := gateInstant (ceilDiv d.time.time 65536) base cycle
      reply c h csOk 0 t (modPort n (fun p => { p with gatePending := some (l, base, cycle, t) }) d) := by
  simp only [gateSetBody, hb]

/-- A pending list becomes active at its instant. -/
theorem gateActivate_of_pending {n base cycle t : Nat} {l : List U64} {d : Dev}
    (hp : (getPort d n).gatePending = some (l, base, cycle, t)) :
    gateActivate n d =
      modPort n (fun p => { p with gateActive := l, gateBase := base, gateCycle := cycle, gatePending := none })
        (advanceTo (momentOf d t) d) := by
  simp only [gateActivate, hp, atExpiry_some]

/-- The interval in force of an active list ends at its moment. -/
theorem gateAdvance_of_active {n : Nat} {d : Dev} (hl : (getPort d n).gateActive ≠ []) :
    gateAdvance n d = advanceTo (momentOf d (timeNs d + intervalLeft d (getPort d n))) d := by
  rw [gateAdvance, if_neg (mt List.isEmpty_iff.mp hl), atExpiry_some, id]

/-- A write of SCH_GATE_CTL of a port that is there. -/
theorem gateCtlWrite_of_port {n : Nat} (v : U64) {d : Dev} (hn : n < 64) :
    gateCtlWrite n v d = modPort n (fun p => { p with gateEn := bit v 63 }) d := by
  rw [gateCtlWrite, if_neg hn.not_ge]

/-! ## Feedback rings (R299, R535) -/

/-- FBR_CREATE of a slice without a feedback ring makes one, and what waits for it is written. -/
theorem fbrCreateBody_of_none {p : RingP} {h : Cmd} {c : CmdInfo} {d : Dev} (hn : (getSlice d h.slice).feedbackQ = none)
    (hr : ringStatus d h.slice p.space p.base p.lg 32 = csOk) :
    fbrCreateBody p h c d = ok c h (pumpFeedback h.slice
      (modSlice h.slice (fun x => { x with feedbackQ := some (newRing p.space p.base p.lg p.index) }) d)) := by
  simp only [fbrCreateBody, hn, hr, Option.isSome_none, Bool.false_eq_true, if_false, ne_eq, not_true_eq_false]

/-- Two indices that differ are some way apart. -/
theorem toNat_sub_ne_zero {a b : U32} (h : a ≠ b) : (a - b).toNat ≠ 0 := by bv_omega

/-- FBR_ACK with an index ahead, up to the producer index, moves the consumer index, and what waits for the room is written. -/
theorem fbrAckBody_forward {cons : U32} {h : Cmd} {c : CmdInfo} {r : Ring} {d : Dev} (hr : (getSlice d h.slice).feedbackQ = some r)
    (hc : checkIndex cons r.cons r.cons (Machine.dist r.prod r.cons) = .forward) :
    fbrAckBody cons h c d =
      reply c h csOk 0 0 (pumpFeedback h.slice (modSlice h.slice (fun x => { x with feedbackQ := some { r with cons := cons } }) d)) := by
  simp only [fbrAckBody, hr, hc]

/-! ## The selection of a packet (R283 to R285) -/

/-- The port sends the packet that is next. -/
theorem egressSelect_of_some {n tc q : Nat} {e : EgressPkt} {d : Dev} (hd : dataOn d = true) (hn : n < 64)
    (hp : nextPacket d n = some (tc, q, e)) : egressSelect n d = sendPacket n tc q e d := by
  simp [egressSelect, hd, hn, hp]

/-- Where no packet may be sent now, every packet keeps its place. -/
theorem egressSelect_of_none {n : Nat} {d : Dev} (hp : nextPacket d n = none) : egressSelect n d = d := by
  simp [egressSelect, hp]

end Sys2Proof.Machine

open Sys2Proof Sys2Proof.Machine

/-- Settles O43: each command passes its checks, each event has one guard, which the clause gives, and a timer acts at its moment. -/
theorem schedulerCommandsComplete : Obligations.SchedulerCommandsComplete := by
  unfold Obligations.SchedulerCommandsComplete
  refine ⟨fun s h kind object tc rate burst reset ht hk htc ho hr hb hb' hre => ?shaper, fun s h n p ht hb => ?profile,
    fun s h cir pir cbs pbs ht hc hp hcb hcb' hpb hpb' => ?meter, fun s h n cycle base l ht hb => ?gateSet,
    fun s n base cycle t l ha hp => ?gateActivate, fun s n ha hl => ?gateAdvance, fun s n v ha hn => ?gateControl,
    fun s h r ht hs hlo hhi hn hst => ?ringCreate, fun s h cons r ht hr hne hlt hle => ?ringAck,
    fun s n ha hd hn => ⟨fun tc q e hp => ?sends, fun hp => ?keeps⟩⟩
  case shaper =>
    have hgood : shaperSetBad kind object tc rate burst reset = none := by
      simp [shaperSetBad, firstBad_eq_none_iff, hk, htc, ho, hr, hb, hb', hre]
    show run (shaperSetEffect h kind object tc rate burst reset) s = _
    rw [shaperSetEffect, run_command_of_takes _ ht hgood, shaperSetBody]
  case profile =>
    show run (ccProfileSetEffect h n p) s = _
    rw [ccProfileSetEffect, run_command_of_takes _ ht hb, ccProfileSetBody]
  case meter =>
    have hgood : meterBad cir pir cbs pbs = none := by
      simp [meterBad, firstBad_eq_none_iff, hc, hp, hc.trans hp, hcb, hcb', hpb, hpb']
    show run (meterSetEffect h cir pir cbs pbs) s = _
    rw [meterSetEffect, run_command_of_takes _ ht hgood]
    rfl
  case gateSet =>
    show run (gateSetEffect h n cycle base l) s = _
    rw [gateSetEffect, run_command_of_takes _ ht rfl, gateSetBody_of_good hb]
    rfl
  case gateActivate =>
    show run (gateActivate n) s = _
    rw [run_of_alive ha, gateActivate_of_pending hp]
    rfl
  case gateAdvance =>
    show run (gateAdvance n) s = _
    rw [run_of_alive ha, gateAdvance_of_active hl]
  case gateControl =>
    show run (gateCtlWrite n v) s = _
    rw [run_of_alive ha, gateCtlWrite_of_port v hn]
    rfl
  case ringCreate =>
    have hgood : firstBad [(8, decide (r.space < 2)), (24, decide (6 ≤ r.lg ∧ r.lg ≤ 16))] = none := by
      simp [firstBad_eq_none_iff, hs, hlo, hhi]
    show run (fbrCreateEffect h r) s = _
    rw [fbrCreateEffect, run_command_of_takes _ ht hgood, fbrCreateBody_of_none hn hst]
    rfl
  case ringAck =>
    show run (fbrAckEffect h cons) s = _
    rw [fbrAckEffect, run_command_of_takes _ ht rfl,
      fbrAckBody_forward hr (checkIndex_forward (toNat_sub_ne_zero hne) hlt hle)]
    rfl
  case sends =>
    show runLevels (egressSelect n) s = _
    rw [runLevels_of_alive ha, egressSelect_of_some hd hn hp]
  case keeps =>
    show runLevels (egressSelect n) s = _
    rw [runLevels_of_alive ha, egressSelect_of_none hp]

end

section
/-!
PROOF. Telemetry (08, 12): monitors and their samples, event queues, watermarks, and error banks.
-/
namespace Sys2Proof.Machine

/-! ## Monitors (R303 to R305) -/

/-- HIST_ATTACH of an object of the command's slice, at a monitor that is free and within the slice's quota. -/
theorem histAttachBody_of_free {mon kind object tc mode step k : Nat} {h : Cmd} {c : CmdInfo} {d : Dev} (hk : kind < 3)
    (hf : tget d.monitors mon = none) (ho : monSlice d kind object = some k) (hs : k = h.slice) (hq : quotaFull d h.slice 12 = false) :
    histAttachBody mon kind object tc mode step h c d = ok c h { d with
      monitors := tset d.monitors mon ⟨some h.slice, kind, object, tc, mode == 1, step, emptyBins, emptyBins, 0, 0⟩ } := by
  simp only [histAttachBody, if_neg hk.not_ge, ho, hs, ne_eq, not_true_eq_false, if_false, hf, Option.isSome_none, Bool.false_eq_true, hq]

/-- A command on a monitor of its own slice reaches the monitor. -/
theorem onMonitor_of_own {mon : Nat} {h : Cmd} {c : CmdInfo} {m : Monitor} {d : Dev} (body : CmdInfo → Monitor → Dev → Dev)
    (hm : tget d.monitors mon = some m) (ho : m.owner = some h.slice) : onMonitor mon h body c d = body c m d := by
  simp only [onMonitor, hm, ho, ne_eq, not_true_eq_false, if_false]

/-- HIST_READ gives the bins and the peaks as they stand, clears them where it is asked to, and replies a free value (log 73). -/
theorem histReadBody_eq (mon clear : Nat) (h : Cmd) (c : CmdInfo) (m : Monitor) (d : Dev) :
    histReadBody mon clear h c m d = reply c h csOk 0 (Config.value d.freeCtr) { d with
      out := d.out ++ [.histogram mon m.depth m.delay m.peakDepth m.peakDelay]
      monitors := if clear = 1 then tset d.monitors mon { m with depth := emptyBins, delay := emptyBins, peakDepth := 0, peakDelay := 0 }
        else d.monitors
      freeCtr := d.freeCtr + 1 } := by
  by_cases hc : clear = 1
  · simp only [histReadBody, if_pos hc]
    rfl
  · simp only [histReadBody, if_neg hc]
    rfl

/-! ## Event queues (R421, R424, R535) -/

/-- EVQ_CREATE of the device's event queue. -/
theorem evqCreateBody_of_device {r : RingP} {v : Nat} {h : Cmd} {c : CmdInfo} {d : Dev} (hq : h.aq < 8) (hs : r.space = 0)
    (he : (getEvq d 0).en = false) (hr : ringAligned r.base r.lg 32 = true) :
    evqCreateBody 0 r v h c d = ok c h (pumpEvents 0 (setEvq 0 { getEvq d 0 with
      en := true, ring := newRing r.space r.base r.lg r.index, vector := v, armed := false } d)) := by
  have hallowed : evqAllowed h 0 = true := by simp [evqAllowed, hq]
  simp [evqCreateBody, hallowed, he, hs, hr]

/-- An event queue whose consumer index has moved: its level is compared, and what waits for the room is written. -/
def evqConsumed (q : Nat) (cons : U32) (d : Dev) : Dev :=
  pumpEvents q (compareMarks (setEvq q { getEvq d q with ring := { (getEvq d q).ring with cons := cons } } d))

/-- EVQ_ACK with an index ahead, up to the producer index, moves the consumer index, and arms the queue where the command asks for it. -/
theorem evqAckBody_forward {q arm : Nat} {cons : U32} {h : Cmd} {c : CmdInfo} {d : Dev} (hq : evqAllowed h q = true)
    (he : (getEvq d q).en = true)
    (hc : checkIndex cons (getEvq d q).ring.cons (getEvq d q).ring.cons
      (Machine.dist (getEvq d q).ring.prod (getEvq d q).ring.cons) = .forward) :
    evqAckBody q cons arm h c d =
      reply c h csOk 0 0 (if arm = 1 then armEvq q (evqConsumed q cons d) else evqConsumed q cons d) := by
  simp only [evqAckBody, hq, he, hc, Bool.not_true, Bool.false_eq_true, if_false, evqConsumed]

/-! ## Watermarks (R426 to R428) -/

/-- A slice's entry of the watermark table is one that the slice's commands may name. -/
theorem markAllowed_of_slice {h : Cmd} {e : Nat} (he : e < 16384) (hs : e / 32 = h.slice) : markAllowed h e = true := by
  rw [markAllowed, if_pos he, decide_eq_true hs]

/-- A slice's entry is in the table. -/
theorem firstBad_mark_of_slice {e : Nat} (he : e < 16384) : firstBad [(8, decide (e < markCount))] = none := by
  have : e < markCount := he.trans (by decide)
  simp [firstBad_eq_none_iff, this]

/-- WM_SET of a slice's entry for an object of the slice. -/
theorem wmSetBody_of_own {e kind object level : Nat} {h : Cmd} {c : CmdInfo} {d : Dev} (he : e < 16384) (hs : e / 32 = h.slice)
    (hk : deviceKind kind = false) (ho : markObject d kind object = some (some h.slice)) :
    wmSetBody e kind object level h c d = ok c h { d with
      watermarks := tset d.watermarks e ⟨level, wmLevel d kind object, 0, true, false, kind, object, wmLevel d kind object⟩ } := by
  simp [wmSetBody, markAllowed_of_slice he hs, hk, ho]

/-- A watermark that WM_ACK clears, armed at the level that stands now. -/
def rearmedMark (l : Nat) (w : Watermark) : Watermark := { w with latched := false, count := 0, peak := l, armed := true, last := l }

/-- WM_ACK of a watermark below whose mark the level stands. -/
theorem wmAckBody_of_below {e : Nat} {h : Cmd} {c : CmdInfo} {w : Watermark} {d : Dev} (hw : tget d.watermarks e = some w)
    (hl : wmLevel d w.kind w.object < w.level) :
    wmAckBody e h c d = ok c h { d with watermarks := tset d.watermarks e (rearmedMark (wmLevel d w.kind w.object) w) } := by
  simp only [wmAckBody, hw, if_pos hl]
  rfl

/-- WM_ACK of a slice's watermark at or above whose mark the level stands: it crosses at once. -/
theorem wmAckBody_of_crossed {e : Nat} {h : Cmd} {c : CmdInfo} {w : Watermark} {d : Dev} (he : e < 16384)
    (hw : tget d.watermarks e = some w) (hl : w.level ≤ wmLevel d w.kind w.object) :
    wmAckBody e h c d =
      let l := wmLevel d w.kind w.object
      ok c h (raise ⟨0x70, 0, some (e / 32), bankCore, e, l, w.level, false⟩
        { d with watermarks := tset d.watermarks e { rearmedMark l w with latched := true, count := 1 } }) := by
  have hslice : wmSlice e = some (e / 32) := if_pos he
  simp only [wmAckBody, hw, if_neg hl.not_gt, hslice]
  rfl

/-- A command on a slice's entry of the watermark table, past the common checks, acts by its own rule. -/
theorem run_mark_of_takes {s : State} {op : Nat} {h : Cmd} {e : Nat} (body : CmdInfo → Dev → Dev) (ht : Takes s op h true)
    (he : e < 16384) (hs : e / 32 = h.slice) :
    run (command op h (decide (e < 16384)) (firstBad [(8, decide (e < markCount))]) fun c d =>
      if !markAllowed h e then refuseOther c h 8 d else body c d) s = after s (body (cmdRow op) s.dev) := by
  rw [decide_eq_true he, run_command_of_takes _ ht (firstBad_mark_of_slice he), markAllowed_of_slice he hs, Bool.not_true,
    if_neg Bool.false_ne_true]

end Sys2Proof.Machine

open Sys2Proof Sys2Proof.Machine

/-- Settles O44: each command passes its checks and meets the guards that its clause gives; HIST_SAMPLE acts at its instant. -/
theorem telemetryCommandsComplete : Obligations.TelemetryCommandsComplete := by
  unfold Obligations.TelemetryCommandsComplete
  refine ⟨fun s h mon kind object tc mode step k ht hm hk htc hmo hlo hhi hf ho hs hq => ?attach,
    fun s h mon m ht hn hm ho hg => ?detach, fun s h mon clear m ht hn hc hm ho => ?read, fun s ha => ?sample,
    fun s h r v ht hq hs hlo hhi hv he hr => ?create, fun s h q cons ht hn hq he hne hlt hle => ?ack,
    fun s h e kind object level ht he hk ho hl hs hd hm => ?set, fun s h e ht he hs => ?markRead,
    fun s h e w ht he hs hw => ⟨fun hl => ?below, fun hl => ?crossed⟩, fun s h e ht he hs => ?clear,
    fun s k ha hk => ⟨?first, ?next⟩⟩
  case attach =>
    have hk5 : kind < 5 := by omega
    have hgood : firstBad [(8, decide (mon < 4096)), (10, decide (kind < 5)), (16, decide (tc < 8)), (17, decide (mode < 2)),
        (20, decide (1 ≤ step ∧ step ≤ 1048576))] = none := by
      simp [firstBad_eq_none_iff, hm, hk5, htc, hmo, hlo, hhi]
    show runLevels (histAttachEffect h mon kind object tc mode step) s = _
    rw [histAttachEffect, decide_eq_true hk, runLevels_command_of_takes _ ht hgood, histAttachBody_of_free hk hf ho hs hq]
    rfl
  case detach =>
    show runLevels (histDetachEffect h mon) s = _
    rw [histDetachEffect, runLevels_command_of_takes _ ht (by simp [firstBad_eq_none_iff, hn]), onMonitor_of_own _ hm ho, hg,
      Bool.and_false, if_neg Bool.false_ne_true]
  case read =>
    show run (histReadEffect h mon clear) s = _
    rw [histReadEffect, run_command_of_takes _ ht (by simp [firstBad_eq_none_iff, hn, hc]), onMonitor_of_own _ hm ho, histReadBody_eq]
    rfl
  case sample =>
    show run histSample s = _
    rw [run_of_alive ha, histSample, atExpiry_some]
  case create =>
    have hgood : firstBad [(8, decide (0 ≤ 512)), (10, spaceOk r.space), (24, decide (6 ≤ r.lg ∧ r.lg ≤ 16)),
        (32, decide (v < 2048))] = none := by
      simp [firstBad_eq_none_iff, spaceOk, hs, hlo, hhi, hv]
    have hexec : exec (.evqCreate h 0 r v) s = after s (settleAll (evqCreateBody 0 r v h (cmdRow 0x0901) s.dev)) :=
      runLevels_command_of_takes (evqCreateBody 0 r v h) ht hgood
    rw [hexec, evqCreateBody_of_device hq hs he hr, hs]
    rfl
  case ack =>
    have hexec (arm : Nat) (harm : arm < 2) : exec (.evqAck h q cons arm) s =
        after s (settleAll (evqAckBody q cons arm h (cmdRow 0x0902) s.dev)) :=
      runLevels_command_of_takes (evqAckBody q cons arm h) ht (by simp [firstBad_eq_none_iff, hn, harm])
    have hforward := checkIndex_forward (toNat_sub_ne_zero hne) hlt hle
    intro x d
    refine ⟨?unarmed, ?armed⟩
    case unarmed =>
      rw [hexec 0 (by decide), evqAckBody_forward hq he hforward, if_neg (by decide)]
      rfl
    case armed =>
      rw [hexec 1 (by decide), evqAckBody_forward hq he hforward, if_pos rfl]
      rfl
  case set =>
    have hgood : firstBad [(8, decide (e < markCount)), (10, decide (kind < 10)), (12, decide (object < 2 ^ 20)),
        (16, decide (level < 2 ^ 32))] = none := by
      have hinside : e < markCount := he.trans (by decide)
      simp [-Nat.reducePow, firstBad_eq_none_iff, hinside, hk, ho, hl]
    show run (wmSetEffect h e kind object level) s = _
    rw [wmSetEffect, decide_eq_true he, run_command_of_takes _ ht hgood, wmSetBody_of_own he hs hd hm]
  case markRead => exact run_mark_of_takes _ ht he hs
  case below =>
    show run (wmAckEffect h e) s = _
    rw [wmAckEffect, run_mark_of_takes _ ht he hs, wmAckBody_of_below hw hl]
    rfl
  case crossed =>
    show run (wmAckEffect h e) s = _
    rw [wmAckEffect, run_mark_of_takes _ ht he hs, wmAckBody_of_crossed he hw hl]
    rfl
  case clear => exact run_mark_of_takes _ ht he hs
  case first =>
    show run (fun d => if k < 82 then errFirstClear k d else d) s = _
    rw [run_of_alive ha, if_pos hk]
    rfl
  case next =>
    show run (fun d => if k < 82 then errNextClear k d else d) s = _
    rw [run_of_alive ha, if_pos hk]
    rfl

end

section
/-!
PROOF. Tenant slices (09): the commands that make, change and bind a slice, its extents, and the order and the end of its reset.
-/
namespace Sys2Proof.Machine

/-! ## The quota block (R329, R335, R463) -/

/-- A quota block whose data can be used changes nothing by being read. -/
theorem readBlock_of_usable {b : QuotaRead} (hb : blockBad b = false) (op : Nat) (h : Cmd) (d : Dev) : readBlock op h b d = d := by
  obtain ⟨-, hrefused⟩ := Bool.or_eq_false_iff.mp hb
  rw [readBlock, hrefused, Bool.false_and, if_neg Bool.false_ne_true]

/-- SLICE_CREATE with its fields in range has a block that can be used. -/
theorem blockBad_of_sliceCreateBad {p : SliceCreateP} (hp : sliceCreateBad p = none) : blockBad p.block = false := by
  have hgood := (firstBad_eq_none_iff _).mp hp (24, !blockBad p.block && limitsOk p.limits) (by simp)
  simpa using (Bool.and_eq_true_iff.mp hgood).1

/-- SLICE_QUOTA with its fields in range has a block that can be used. -/
theorem blockBad_of_sliceQuotaBad {l : List (Option Nat)} {b : QuotaRead} (hb : sliceQuotaBad l b = none) : blockBad b = false := by
  have hgood := (firstBad_eq_none_iff _).mp hb _ (List.mem_singleton_self _)
  simpa using (Bool.and_eq_true_iff.mp hgood).1

/-! ## SLICE_CREATE, SLICE_MODIFY, SLICE_QUOTA and SLICE_BIND (R326 to R329, R335, R336) -/

/-- SLICE_CREATE of a free slice, on a valid route set and within every device total. -/
theorem sliceCreateBody_of_fits {p : SliceCreateP} {h : Cmd} {c : CmdInfo} {d : Dev} (hfree : (getSlice d h.slice).st = .free)
    (hset : setValid d p.routeSet = true) (hpin : p.latCrit = 1 ∨ p.limits.getD 7 0 = 0)
    (htotal : ∀ q, q < 13 → totalHolds d h.slice q (p.limits.getD q 0) = true) :
    sliceCreateBody p h c d =
      replyPinned (pinnedObjs d) c h 0 (setSlice h.slice (newSlice p d.now (getSlice d h.slice)) d) := by
  have hcrit : ¬(p.latCrit = 0 ∧ 0 < p.limits.getD 7 0) := by omega
  have hall : ((List.range 13).all fun q => totalHolds d h.slice q (p.limits.getD q 0)) = true :=
    List.all_eq_true.mpr fun q hq => htotal q (List.mem_range.mp hq)
  simp only [sliceCreateBody, hfree, hset, hcrit, hall, ne_eq, not_true_eq_false, Bool.not_true, Bool.false_eq_true, if_false]

/-- SLICE_MODIFY of a slice that is there and not being reset; host-assisted translation needs PASIDs. -/
theorem sliceModifyBody_of_standing {p : SliceModifyP} {h : Cmd} {c : CmdInfo} {d : Dev} (hst : (getSlice d h.slice).st ≠ .free)
    (hgoing : sliceGoing d h.slice = false) (hxlt : p.mask.getLsbD 9 = false ∨ p.xltHa = false ∨ d.pasidEn = true) :
    sliceModifyBody p h c d = ok c h (switchReduction h.slice (modSlice h.slice (applySlice p d.now) d)) := by
  have hpermitted : (p.mask.getLsbD 9 && p.xltHa && !d.pasidEn) = false := by
    rcases hxlt with hmask | hoff | hpasid
    · rw [hmask, Bool.false_and, Bool.false_and]
    · rw [hoff, Bool.and_false, Bool.false_and]
    · rw [hpasid, Bool.not_true, Bool.and_false]
  simp only [sliceModifyBody, if_neg hst, hpermitted, hgoing, Bool.false_eq_true, if_false]

/-- The thirteen LIMITs that SLICE_QUOTA gives. -/
def newLimits (d : Dev) (k : Nat) (l : List (Option Nat)) : List Nat := (List.range 13).map (newLimit d k l)

/-- Each of them is the new LIMIT of its quota. -/
theorem newLimits_getD {q : Nat} (hq : q < 13) (d : Dev) (k : Nat) (l : List (Option Nat)) :
    (newLimits d k l).getD q 0 = newLimit d k l q := by
  simp [newLimits, List.getD_eq_getElem?_getD, hq]

/-- SLICE_QUOTA that keeps guaranteed shares to a latency-critical slice, the device totals, and the live objects. -/
theorem sliceQuotaBody_of_fits {l : List (Option Nat)} {h : Cmd} {c : CmdInfo} {d : Dev}
    (hcrit : (getSlice d h.slice).latCrit = true ∨ ((l[7]?).getD none).getD 0 = 0)
    (hfits : ∀ q, q < 13 → quotaRefused d h.slice q (newLimit d h.slice l q) = false) :
    sliceQuotaBody l h c d = ok c h (modSlice h.slice (fun x => { x with
      limits := newLimits d h.slice l
      pend := (List.range 13).map fun q => decide ((newLimits d h.slice l).getD q 0 < quotaUsed d h.slice q) }) d) := by
  have hshare : ¬((getSlice d h.slice).latCrit = false ∧ 0 < ((l[7]?).getD none).getD 0) := by
    rintro ⟨hoff, hpos⟩
    rcases hcrit with hon | hzero
    · exact Bool.false_ne_true (hoff.symm.trans hon)
    · omega
  have hany : ((List.range 13).any fun q => quotaRefused d h.slice q ((newLimits d h.slice l).getD q 0)) = false := by
    rw [List.any_eq_false]
    intro q hq
    have hq := List.mem_range.mp hq
    rw [newLimits_getD hq, hfits q hq]
    exact Bool.false_ne_true
  rw [newLimits] at hany
  simp only [sliceQuotaBody, hshare, hany, Bool.false_eq_true, if_false]
  rfl

/-- No queue pair of the slice has a property that each of them lacks. -/
theorem any_qpsOf_eq_false {d : Dev} {k : Nat} {f : Nat × Qp → Bool} (hf : ∀ q ∈ d.qps, q.2.slice = k → f q = false) :
    (d.qps.any fun q => q.2.slice == k && f q) = false := by
  rw [List.any_eq_false]
  intro q hq
  by_cases hown : q.2.slice = k
  · simp [hf q hq hown]
  · simp [hown]

/-- SLICE_BIND that takes no route set, class, port or pin that the slice still needs. -/
theorem sliceBindBody_of_unused {p : SliceBindP} {h : Cmd} {c : CmdInfo} {d : Dev}
    (hset : p.mask.getLsbD 2 = false ∨ setValid d p.routeSet = true)
    (hclass : p.mask.getLsbD 1 = false ∨ ∀ q ∈ d.qps, q.2.slice = h.slice → p.classMask.testBit q.2.p.tc = true)
    (hports : ∀ a ∈ portsLost p (getSlice d h.slice), spaceUsed d h.slice (2 + a) = false)
    (hpin : p.mask.getLsbD 4 = false ∨ p.latCrit ≠ 0 ∨ ∀ q ∈ d.qps, q.2.slice = h.slice → q.2.pinned = false) :
    sliceBindBody p h c d = replyPinned (pinnedObjs d) c h 0 (modSlice h.slice (applyBind p) d) := by
  have hroute : (p.mask.getLsbD 2 && !setValid d p.routeSet) = false := by
    rcases hset with hmask | hvalid
    · rw [hmask, Bool.false_and]
    · rw [hvalid, Bool.not_true, Bool.and_false]
  have htraffic : (p.mask.getLsbD 1 && d.qps.any fun q => q.2.slice == h.slice && !p.classMask.testBit q.2.p.tc) = false := by
    rcases hclass with hmask | hkept
    · rw [hmask, Bool.false_and]
    · rw [any_qpsOf_eq_false fun q hq hown => by rw [hkept q hq hown, Bool.not_true], Bool.and_false]
  have hspaces : ((portsLost p (getSlice d h.slice)).any fun a => spaceUsed d h.slice (2 + a)) = false := by
    rw [List.any_eq_false]
    intro a ha
    simp [hports a ha]
  have hpinned : (p.mask.getLsbD 4 && decide (p.latCrit = 0) && d.qps.any fun q => q.2.slice == h.slice && q.2.pinned) = false := by
    rcases hpin with hmask | hcrit | hnone
    · rw [hmask, Bool.false_and, Bool.false_and]
    · rw [decide_eq_false hcrit, Bool.and_false, Bool.false_and]
    · rw [any_qpsOf_eq_false hnone, Bool.and_false]
  simp only [sliceBindBody, hroute, htraffic, hspaces, hpinned, Bool.false_eq_true, if_false]

/-! ## Extents (R331, R333, R346) -/

/-- SLICE_SMEM_ADD of an extent that nobody else holds, within the slice's 64 extents and its quota. -/
theorem smemAddBody_of_room {base length : Nat} {h : Cmd} {c : CmdInfo} {d : Dev} (htaken : extentTaken d h.slice base length = false)
    (hroom : (getSlice d h.slice).extents.length + (getSlice d h.slice).removing.length < 64)
    (hquota : quotaUsed d h.slice 3 + length / 0x200000 ≤ quotaLimit d h.slice 3) :
    smemAddBody base length h c d = ok c h (setSlice h.slice { getSlice d h.slice with
      extents := (getSlice d h.slice).extents ++ [(base, length)] } d) := by
  simp only [smemAddBody, htaken, if_neg hroom.not_ge, if_neg hquota.not_gt, Bool.false_eq_true, if_false]

/-- The slice with an extent that is being taken back: it does not map it any more, and still counts it. -/
def removingExtent (base length : Nat) (x : Slice) : Slice :=
  { x with extents := x.extents.erase (base, length), removing := x.removing ++ [(base, length)] }

/-- SLICE_SMEM_REMOVE of an extent of the slice in which none of its objects lies withdraws Millefeuille's space. -/
theorem smemRemoveBody_of_empty {base length : Nat} {h : Cmd} {c : CmdInfo} {d : Dev}
    (hmine : (getSlice d h.slice).extents.contains (base, length) = true)
    (hplaced : ∀ x ∈ placedIn d h.slice, meets base length x = false) :
    smemRemoveBody base length h c d = withdraw c h 1 0 allPages (modSlice h.slice (removingExtent base length))
      (fun e t => .extent h.slice e t base length) (dropExtent h.slice base length) d := by
  have hany : (placedIn d h.slice).any (meets base length) = false := by
    rw [List.any_eq_false]
    intro x hx
    simp [hplaced x hx]
  simp only [smemRemoveBody, hmine, hany, Bool.not_true, Bool.false_eq_true, if_false]
  rfl

/-- A removed extent that has been zeroed leaves the list of those to zero. -/
theorem zeroDone_of_zeroing {a n : Nat} {d : Dev} (hz : (d.zeroing.find? fun e => e.1 == a) = some (a, n)) :
    zeroDone a d = clearPoison a n { d with mem := memZero d.mem a n, zeroing := d.zeroing.erase (a, n) } := by
  simp only [zeroDone, hz]

/-! ## SLICE_RESET and SLICE_DESTROY (R338 to R346) -/

/-- A command that orders the reset of a slice, of which none is ordered yet, waits for the reset's end. -/
theorem runLevels_resetOrder_of_takes {s : State} {op report : Nat} {h : Cmd} (on : WaitOn) (hop : (cmdInfo op).isSome = true)
    (ht : Takes s op h true) (hr : report % 64 = 0) (ho : resetOrdered s.dev h.slice = false) :
    runLevels (command op h true (firstBad [(8, decide (report % 64 = 0))]) fun c d =>
      if resetOrdered d h.slice then refuse c h csBusy d else waitOn h c.op on (noteExecuting h d)) s =
      after s (settleAll (waitOn h op on (noteExecuting h s.dev))) := by
  rw [runLevels_command_of_takes _ ht (by simp [firstBad_eq_none_iff, hr]), ho, if_neg Bool.false_ne_true, cmdRow_op op hop]

/-- The end of a slice's reset that has begun, where nothing else waits. -/
theorem resetDrained_of_reset {k report t op : Nat} {h : Cmd} {d : Dev} (hw : d.waits = [(h, op, .sliceReset k report (some t))]) :
    resetDrained k d = finishReset (h, op, .sliceReset k report (some t)) k report t false d := by
  simp only [resetDrained, hw, List.foldl_cons, List.foldl_nil, beginReset, if_true]

/-- The end of a slice's removal that has begun, where nothing else waits. -/
theorem resetDrained_of_destroy {k report t op : Nat} {h : Cmd} {d : Dev} (hw : d.waits = [(h, op, .sliceDestroy k report (some t))]) :
    resetDrained k d = finishReset (h, op, .sliceDestroy k report (some t)) k report t true d := by
  simp only [resetDrained, hw, List.foldl_cons, List.foldl_nil, beginReset, if_true]

end Sys2Proof.Machine

open Sys2Proof Sys2Proof.Machine

/-- Settles O45: each clause's conditions are the guards of the command's own rule, past the checks of every command; a removal then replies or
waits by whether a holder of the epoch that it closes, or of an earlier one, is left. -/
theorem sliceCommandsComplete : Obligations.SliceCommandsComplete := by
  unfold Obligations.SliceCommandsComplete
  refine ⟨fun s h p ht hb hfree hset hpin htotal => ⟨?create, rfl, rfl, rfl⟩, fun s h p ht hb hst hgoing hxlt => ?modify,
    fun s h l b ht hb hcrit hfits => ?quota, fun s h p ht hb hset hclass hports hpin => ?bind,
    fun s h base length ht hb htaken hroom hquota => ?add, fun s h base length ht hb hmine hplaced hepochs => ?remove,
    fun s h report ht hr ho => runLevels_resetOrder_of_takes _ rfl ht hr ho,
    fun s h report ht hr ho => runLevels_resetOrder_of_takes _ rfl ht hr ho,
    fun s k report t h op ha => ⟨fun hw => ?reset, fun hw => ?destroy⟩, fun s a n ha hz => ?zeroed⟩
  case create =>
    show runLevels (sliceCreateEffect h p) s = _
    obtain ⟨ha, hacc⟩ := ht
    rw [runLevels_of_alive ha, sliceCreateEffect, readBlock_of_usable (blockBad_of_sliceCreateBad hb), command_of_good _ hacc hb,
      sliceCreateBody_of_fits hfree hset hpin htotal]
    rfl
  case modify =>
    show run (sliceModifyEffect h p) s = _
    rw [sliceModifyEffect, run_command_of_takes _ ht hb, sliceModifyBody_of_standing hst hgoing hxlt]
    rfl
  case quota =>
    show runLevels (sliceQuotaEffect h l b) s = _
    obtain ⟨ha, hacc⟩ := ht
    rw [runLevels_of_alive ha, sliceQuotaEffect, readBlock_of_usable (blockBad_of_sliceQuotaBad hb), command_of_good _ hacc hb,
      sliceQuotaBody_of_fits hcrit hfits]
    rfl
  case bind =>
    show runLevels (sliceBindEffect h p) s = _
    rw [sliceBindEffect, runLevels_command_of_takes _ ht hb, sliceBindBody_of_unused hset hclass hports hpin]
    rfl
  case add =>
    show runLevels (smemAddEffect h base length) s = _
    rw [smemAddEffect, runLevels_command_of_takes _ ht hb, smemAddBody_of_room htaken hroom hquota]
    rfl
  case remove =>
    have hexec : exec (.sliceSmemRemove h base length) s =
        after s (settleAll (smemRemoveBody base length h (cmdRow 0x0706) s.dev)) := runLevels_command_of_takes _ ht hb
    rw [hexec, smemRemoveBody_of_empty hmine hplaced, withdraw_of_open hepochs, cmdRow_op 0x0706 rfl, getSlice_modSlice]
    exact ⟨fun hn => congrArg (fun t => after s (settleAll t)) (if_pos hn),
      fun hn => congrArg (fun t => after s (settleAll t)) (if_neg hn)⟩
  case reset =>
    show runRetire (resetDrained k) s = _
    rw [runRetire_of_alive ha, resetDrained_of_reset hw]
  case destroy =>
    show runRetire (resetDrained k) s = _
    rw [runRetire_of_alive ha, resetDrained_of_destroy hw]
  case zeroed =>
    show runLevels (zeroDone a) s = _
    rw [runLevels_of_alive ha, zeroDone_of_zeroing hz]

end

section
/-!
PROOF. Accelerator and host ports (10): the transactions of a ZAL link, the requests of a PCIe one, the end of a read at a port, the
acknowledgement of the host port's write log, and the loss, the return and the reset of a link.
-/
namespace Sys2Proof.Machine

/-- A row that lets what a port could not take before go on, where its own effect is known. -/
theorem runRetire_reopening_of_eq {f g : Dev → Dev} {s : State} (ha : alive s.ao = true) (h : f s.dev = g s.dev) :
    runRetire (reopening f) s = after s (settleAll (startTriggered (reopening g s.dev))) := by
  rw [runRetire_of_alive ha, reopening_congr h]

/-! ## ZAL transactions and upstream requests (R373, R374) -/

/-- A malformed transaction at a ZAL port that is up is counted. -/
theorem zalTransaction_of_malformed {a : Nat} {h : BitVec 128} {data : List Byte} {d : Dev} (hn : a < 8) (hu : (getIo d a).up = true)
    (hz : linkIsZal d (64 + a) = true) (hm : zMalformed h data = true) : zalTransaction a h data d = bump 0x22 (64 + a) d := by
  simp only [zalTransaction, hn, hu, hz, hm, decide_true, Bool.and_self, Bool.not_true, Bool.false_eq_true, if_false, if_true]

/-- A well-formed one is taken. -/
theorem zalTransaction_of_wellFormed {a : Nat} {h : BitVec 128} {data : List Byte} {d : Dev} (hn : a < 8) (hu : (getIo d a).up = true)
    (hz : linkIsZal d (64 + a) = true) (hm : zMalformed h data = false) : zalTransaction a h data d = zalTake a h data d := by
  simp only [zalTransaction, hn, hu, hz, hm, decide_true, Bool.and_self, Bool.not_true, Bool.false_eq_true, if_false]

/-- A write in the doorbell aperture. -/
theorem zalTake_write {a off : Nat} {h : BitVec 128} {data : List Byte} {d : Dev} (hop : zOp h = 1)
    (hoff : apertureOff d a (zAddr h) data.length = some off) : zalTake a h data d = apertureWrite a 3 off data d := by
  simp only [zalTake, hop, if_true, hoff]

/-- A read of the aperture returns zeros. -/
theorem zalTake_read {a off : Nat} {h : BitVec 128} {d : Dev} (hop : zOp h = 2) (hoff : apertureOff d a (zAddr h) (zLen h) = some off)
    (data : List Byte) :
    zalTake a h data d = answer a (.zalData a (zTag h) (zAddr h % 4096) (List.replicate (zLen h) 0)) d := by
  simp only [zalTake, hop, Nat.reduceEqDiff, if_false, if_true, hoff, pageRead]

/-- A read outside the aperture is refused (log 63). -/
theorem zalTake_read_outside {a : Nat} {h : BitVec 128} {d : Dev} (hop : zOp h = 2)
    (hoff : apertureOff d a (zAddr h) (zLen h) = none) (data : List Byte) :
    zalTake a h data d = answer a (.zalCpl a (zTag h) 1) d := by
  simp only [zalTake, hop, Nat.reduceEqDiff, if_false, if_true, hoff]

/-- A completion with an error status ends the read it is for. -/
theorem zalTake_refused {a : Nat} {h : BitVec 128} {r : PortRead} {d : Dev} (hop : zOp h = 0x10 ∨ zOp h = 0x11)
    (hr : findRead d a (zTag h) = some r) (hst : zStatus h ≠ 0) (data : List Byte) :
    zalTake a h data d = readCompletion a (zTag h) (zStatus h) ⟨[], false, true⟩ d := by
  have hcpl : zalTake a h data d = zalCompletion a h data d := by
    have h1 : zOp h ≠ 1 := by omega
    have h2 : zOp h ≠ 2 := by omega
    have h34 : ¬(zOp h = 3 ∨ zOp h = 4) := by omega
    simp only [zalTake, if_neg h1, if_neg h2, if_neg h34]
  simp only [hcpl, zalCompletion, hr, if_pos hst]

/-- A write in the aperture of an accelerator port in PCIe mode that is up. -/
theorem accUpstream_write {a addr off : Nat} {data : List Byte} {d : Dev} (hn : a < 8) (hu : (getIo d a).up = true)
    (hm : fld (getIo d a).live 27 24 = 2) (hoff : apertureOff d a addr data.length = some off) :
    accUpstream a true addr data d = apertureWrite a 3 off data d := by
  simp only [accUpstream, hn, hu, hm, hoff, decide_true, Bool.and_self, Bool.not_true, Bool.false_eq_true, if_false, if_true]

/-- A read at such a port is not supported. -/
theorem accUpstream_read {a : Nat} {d : Dev} (hn : a < 8) (hu : (getIo d a).up = true) (hm : fld (getIo d a).live 27 24 = 2) (addr : Nat)
    (data : List Byte) : accUpstream a false addr data d = emit (.unsupportedRequest a) d := by
  simp only [accUpstream, hn, hu, hm, decide_true, Bool.and_self, Bool.not_true, Bool.false_eq_true, if_false]

/-! ## The end of a read (R55, R363, R380) -/

/-- The end of holders changes the holders alone. -/
theorem endHolders_frame (l : List Nat) (d : Dev) : frameOf (endHolders l d) = frameOf d :=
  frame_fold _ (fun d t => endHolder_frame (some t) d) l d

/-- No slice is among what the shared operations change. -/
theorem getSlice_frameOf (d : Dev) (k : Nat) : getSlice (frameOf d) k = getSlice d k := rfl

/-- Nor is what says for which slice a read is made. -/
theorem useSlice_frameOf (d : Dev) (u : PortUse) : useSlice (frameOf d) u = useSlice d u := by cases u <;> rfl

/-- A read is no longer outstanding, and its translations are no longer held. -/
def retireRead (r : PortRead) (d : Dev) : Dev :=
  endHolders r.tokens { d with portReads := d.portReads.filter fun y => !(y.port == r.port && y.tag == r.tag) }

/-- A read that is retired leaves every slice as it is. -/
theorem getSlice_retireRead (r : PortRead) (d : Dev) (k : Nat) : getSlice (retireRead r d) k = getSlice d k := by
  rw [retireRead, ← getSlice_frameOf, endHolders_frame, getSlice_frameOf]
  rfl

/-- A read that is retired leaves the slices of the reads as they are. -/
theorem useSlice_retireRead (r : PortRead) (d : Dev) (u : PortUse) : useSlice (retireRead r d) u = useSlice d u := by
  rw [retireRead, ← useSlice_frameOf, endHolders_frame, useSlice_frameOf]
  cases u <;> rfl

/-- What a read brings back for a slice in fault-stop is discarded. -/
theorem endRead_of_faultStop {r : PortRead} {n : Nat} {d : Dev} (hs : useSlice d r.use = some n) (hf : (getSlice d n).st = .faultStop)
    (x : ReadData) : endRead r x d = retireRead r d := by
  have hstop : ((useSlice (retireRead r d) r.use).any fun k => (getSlice (retireRead r d) k).st == .faultStop) = true := by
    rw [useSlice_retireRead, hs, Option.any_some, getSlice_retireRead, hf, beq_self_eq_true]
  exact if_pos hstop

/-- The completion of an outstanding read at an open port, whose queue pair the port does not hold, ends it. -/
theorem readCompletion_of_open {k tag : Nat} {r : PortRead} {d : Dev} (hr : findRead d k tag = some r) (ho : ioOpen (getIo d k) = true)
    (hh : ∀ q p, useQpn d r.use = some q → getQp d q = some p → p.heldBy.contains k = false) (status : Nat) (x : ReadData) :
    readCompletion k tag status x d =
      if status = 0 then endRead r { x with refused := false } d else endRead r ⟨[], false, true⟩ (refusedAt r status d) := by
  have hfree : (((useQpn d r.use).bind fun q => getQp d q).any fun q => q.heldBy.contains k) = false := by
    cases hq : useQpn d r.use with
    | none => rfl
    | some q =>
      cases hp : getQp d q with
      | none => simp only [Option.bind_some, hp, Option.any_none]
      | some p => simp only [Option.bind_some, hp, Option.any_some, hh q p hq hp]
  simp only [readCompletion, hr, ho, hfree, Bool.not_true, Bool.or_self, Bool.false_eq_true, if_false]

/-- HOST_READ_TIMEOUT of an outstanding read latches its event, and poisoned data that nothing gives ends the read. -/
theorem hostReadTimeout_of_outstanding {tag : Nat} {r : PortRead} {d : Dev} (hr : findRead d 15 tag = some r) :
    hostReadTimeout tag d =
      let t := latchEvent 40 0x0202 2 none r.addr tag 0 d
      endRead r ⟨natLe (Config.value t.freeCtr) r.length, true, false⟩ { t with freeCtr := t.freeCtr + 1 } := by
  simp only [hostReadTimeout, hr, freshValue]

/-! ## The host port's log and its link (R363, R364, R366, R367) -/

/-- An acknowledgement at the host port shortens its log, and what waits there goes on. -/
theorem writeLogAck_of_host {d : Dev} (hu : d.host.up = true) (n : Nat) :
    writeLogAck 15 n d = reopening (fun d => portGoes 15 { d with host := { d.host with log := ackLog n d.host.log } }) d :=
  if_pos hu

/-- The loss of the host port's link, at a port that is not fenced. -/
theorem linkLoss_of_host {d : Dev} (hu : d.host.up = true) (hf : d.host.fenced = false) :
    linkLoss 15 d =
      let t := loseRequests 15 (holdAll 15 { d with host := { d.host with
        up := false, closedAt := d.now, parkAt := none, parkTxOff := false, answers := []
        log := (d.host.log.filter fun w => !w.data.isEmpty).map fun w => { w with lost := true } } })
      let n := (heldAt t 15).length
      let t := dropAts t
      emit (.mctp "HOST_LINK_LOST" [15, n])
        { t with host := { t.host with held := t.host.held || anyWork t 15, lossPending := some n } } := by
  have hio : getIo d 15 = d.host := rfl
  simp only [linkLoss, hio, hu, hf, Bool.not_true, Bool.false_eq_true, if_false]
  rfl

/-- The host port's link comes up. -/
theorem hostLinkUp_of_host {d : Dev} (hu : d.host.up = false) (width : Nat) (pasid : Bool) :
    hostLinkUp ⟨15, width, pasid⟩ d = retrainDone 79 true (ioUp 15 width 0 { d with pasidEn := pasid }) := by
  have hmay : (ioPort 15 && !(getIo d 15).up && ioMayTrain d 15) = true := by
    have hio : getIo d 15 = d.host := rfl
    rw [hio, hu]
    rfl
  exact if_pos hmay

end Sys2Proof.Machine

open Sys2Proof Sys2Proof.Machine

/-- Settles O42: a transaction, a request, a completion and a link event each meet the guards of one branch of the row's own rule; a read
for a slice in fault-stop is that slice's still once its translations are no longer held. -/
theorem portEventsComplete : Obligations.PortEventsComplete := by
  unfold Obligations.PortEventsComplete
  refine ⟨fun s a h data ha hn hu hz => ⟨fun hm => ?malformed, fun hm hop off hoff => ?write,
      fun hm hop => ⟨fun off hoff => ?read, fun hoff => ?readOutside⟩, fun hm hop r hr hst => ?completion⟩,
    fun s a addr data ha hn hu hm => ⟨fun off hoff => ?upstreamWrite, ?upstreamRead⟩,
    fun s k tag status x r ha hr ho hh => ⟨fun h0 ⟨n, hs, hf⟩ => ?faultStop, fun h0 => ?completed, fun h0 => ?refused⟩,
    fun s tag r ha hr => runRetire_reopening_of_eq ha (hostReadTimeout_of_outstanding hr), fun s n ha hu => ?acknowledged,
    fun s ha hu hf => ?loss, fun s width pasid ha hu => ?linkUp, fun s k ha hk => ?reset⟩
  case malformed => exact runRetire_reopening_of_eq ha (zalTransaction_of_malformed hn hu hz hm)
  case write => exact runRetire_reopening_of_eq ha ((zalTransaction_of_wellFormed hn hu hz hm).trans (zalTake_write hop hoff))
  case read => exact runRetire_reopening_of_eq ha ((zalTransaction_of_wellFormed hn hu hz hm).trans (zalTake_read hop hoff data))
  case readOutside =>
    exact runRetire_reopening_of_eq ha ((zalTransaction_of_wellFormed hn hu hz hm).trans (zalTake_read_outside hop hoff data))
  case completion =>
    exact runRetire_reopening_of_eq ha ((zalTransaction_of_wellFormed hn hu hz hm).trans (zalTake_refused hop hr hst data))
  case upstreamWrite =>
    show runRetire (accUpstream a true addr data) s = _
    rw [runRetire_of_alive ha, accUpstream_write hn hu hm hoff]
  case upstreamRead =>
    show runRetire (accUpstream a false addr data) s = _
    rw [runRetire_of_alive ha, accUpstream_read hn hu hm]
    rfl
  case faultStop =>
    exact runRetire_reopening_of_eq ha (by rw [readCompletion_of_open hr ho hh, if_pos h0, endRead_of_faultStop hs hf, retireRead])
  case completed => exact runRetire_reopening_of_eq ha ((readCompletion_of_open hr ho hh status x).trans (if_pos h0))
  case refused => exact runRetire_reopening_of_eq ha ((readCompletion_of_open hr ho hh status x).trans (if_neg h0))
  case acknowledged =>
    show runRetire (writeLogAck 15 n) s = _
    rw [runRetire_of_alive ha, writeLogAck_of_host hu]
  case loss =>
    show runRetire (linkLoss 15) s = _
    rw [runRetire_of_alive ha, linkLoss_of_host hu hf]
  case linkUp =>
    show runRetire (hostLinkUp ⟨15, width, pasid⟩) s = _
    rw [runRetire_of_alive ha, hostLinkUp_of_host hu]
  case reset =>
    show runRetire (fun d => if ioPort k then portReset k d else d) s = _
    rw [runRetire_of_alive ha, if_pos (ioPort_of_named hk)]

end

section
/-!
PROOF. Registers and stacks (10, 11, 16): which block a register write reaches, what the ECC's finding of a line does, and the refresh
window.
-/
namespace Sys2Proof.Machine

/-! ## REGISTER_WRITE (R348, R506, R508, R523) -/

/-- A register write of 4 or 8 bytes at a multiple of its size reaches its block. -/
theorem registerWrite_of_aligned {off size : Nat} {d : Dev} (hr : d.ready = true) (hsize : size = 4 ∨ size = 8) (hoff : off % size = 0)
    (hlt : off < 0x04000000) (v : U64) (host : Bool) :
    registerWrite off size v host d = blockWrite (off / 0x400000) (off % 0x400000) size v host d := by
  have hready : (host && !d.ready) = false := by rw [hr, Bool.not_true, Bool.and_false]
  have haligned : (!((size == 4 || size == 8) && off % size == 0)) = false := by
    rcases hsize with rfl | rfl <;> rw [hoff] <;> rfl
  rw [registerWrite, hready, haligned, if_neg Bool.false_ne_true, if_neg Bool.false_ne_true, if_neg hlt.not_ge]

/-- Another one from the host is counted. -/
theorem registerWrite_of_misaligned {off size : Nat} {d : Dev} (hr : d.ready = true)
    (hbad : ¬(size = 4 ∨ size = 8) ∨ off % size ≠ 0) (v : U64) : registerWrite off size v true d = bump 0x2B 0 d := by
  have hready : (true && !d.ready) = false := by rw [hr, Bool.not_true, Bool.and_false]
  have hmisaligned : (!((size == 4 || size == 8) && off % size == 0)) = true := by
    rw [Bool.not_eq_true', Bool.and_eq_false_iff]
    exact hbad.imp (fun h => by simpa using h) (fun h => by simpa using h)
  rw [registerWrite, hready, hmisaligned, if_neg Bool.false_ne_true, if_pos rfl, if_pos rfl]

/-- TPT_RTO_BASE takes a value in its range. -/
theorem tptWrite_rtoBase {v : U64} (hlo : 8000 ≤ v.toNat % 2 ^ 32) (hhi : v.toNat % 2 ^ 32 ≤ 4000000) (d : Dev) :
    tptWrite 0 8 v d = { d with rtoBase := v.toNat % 2 ^ 32 } := by
  have hw : low (mergeWord d.rtoBase 0 8 v).toNat 32 = v.toNat % 2 ^ 32 := rfl
  rw [tptWrite, if_pos rfl, hw, inRange, if_pos ⟨hlo, hhi⟩]

/-! ## Reads and scrubs of a line (R384 to R387) -/

/-- What the code's finding in a line does to the stacks. -/
def applyFinding (line : Nat) (e : EccOutcome) (d : Dev) : Dev :=
  match e with
  | .clean => d
  | .corrected => corrected (line * 32) d
  | .uncorrectable => smemUe (line * 32) (objectAt d (line * 32)) (markPoison [line] d)

/-- A line of the stacks without the poison marker, with no more symbols in error than the code detects, is as the code finds it. -/
theorem lineRead_of_detected {line k : Nat} {d : Dev} (ha : line * 32 < smemBytes) (hp : poisonedLine d line = false) (hk : k < 4) :
    lineRead line k d = applyFinding line (eccFinding k 0) d := by
  have hreads : ¬(smemBytes ≤ line * 32 ∨ poisonedLine d line = true) := by
    rw [hp]
    exact not_or.mpr ⟨ha.not_ge, Bool.false_ne_true⟩
  simp only [lineRead, if_neg hreads, if_pos hk, wrongBytes]
  rfl

/-- A scrub that is on, in a stack that is not in MERINGUE, reads its line. -/
theorem patrolScrub_of_on {line : Nat} {d : Dev} (hh : d.scrubHours ≠ 0)
    (hm : (getPower d (.stack (smemMap (line * 32)).1)).st ≠ .meringue) (k : Nat) : patrolScrub line k d = lineRead line k d :=
  if_neg (not_or.mpr ⟨hh, hm⟩)

/-! ## Refresh (R388, R389) -/

/-- A refresh without a measured margin sets the temperature and the window that follows it. -/
theorem smemRefresh_without_margin {k : Nat} (hk : k < 4) (t : Nat) (d : Dev) :
    smemRefresh k t none d =
      { d with dies := tset d.dies k { getDie d k with temp := t, refresh := if t ≤ 85 then 0 else if t ≤ 95 then 1 else 2 } } :=
  if_neg hk.not_ge

end Sys2Proof.Machine

open Sys2Proof Sys2Proof.Machine

/-- Settles O49: the size and the alignment of a write decide whether it reaches its block, and the number of erroneous symbols what the
code finds in a line. -/
theorem registersAndStacksComplete : Obligations.RegistersAndStacksComplete := by
  unfold Obligations.RegistersAndStacksComplete
  refine ⟨fun s off size v host ha hr hsize hoff hlt => ?reaches, fun s off size v ha hr hbad => ?counted,
    fun s off v ha hr hoff hblock => ?security, fun s v ha hr hlo hhi => ?rtoBase,
    fun s line ha hl hp => ⟨?clean, ?corrected, fun k hk => ?uncorrectable, fun hh hm => ?scrub⟩, fun s k t ha hk => ?refresh⟩
  case reaches =>
    show runRetire (registerWrite off size v host) s = _
    rw [runRetire_of_alive ha, registerWrite_of_aligned hr hsize hoff hlt]
  case counted =>
    show runRetire (registerWrite off size v true) s = _
    rw [runRetire_of_alive ha, registerWrite_of_misaligned hr hbad]
  case security =>
    show runRetire (registerWrite off 8 v true) s = _
    rw [runRetire_of_alive ha, registerWrite_of_aligned hr (.inr rfl) hoff (by omega), hblock]
    rfl
  case rtoBase =>
    have hblock (d : Dev) : blockWrite (0x01C00000 / 0x400000) (0x01C00000 % 0x400000) 8 v true d = tptWrite 0 8 v d := rfl
    show runRetire (registerWrite 0x01C00000 8 v true) s = _
    rw [runRetire_of_alive ha, registerWrite_of_aligned hr (.inr rfl) rfl (by decide), hblock, tptWrite_rtoBase hlo hhi]
  case clean =>
    show runLevels (lineRead line 0) s = _
    rw [runLevels_of_alive ha, lineRead_of_detected hl hp (by decide)]
    rfl
  case corrected =>
    show runLevels (lineRead line 1) s = _
    rw [runLevels_of_alive ha, lineRead_of_detected hl hp (by decide)]
    rfl
  case uncorrectable =>
    show runLevels (lineRead line k) s = _
    rcases hk with rfl | rfl <;> rw [runLevels_of_alive ha, lineRead_of_detected hl hp (by decide)] <;> rfl
  case scrub =>
    show runLevels (patrolScrub line 1) s = _
    rw [runLevels_of_alive ha, patrolScrub_of_on hh hm, lineRead_of_detected hl hp (by decide)]
    rfl
  case refresh =>
    show runLevels (smemRefresh k t none) s = _
    rw [runLevels_of_alive ha, smemRefresh_without_margin hk]

end

section
/-!
PROOF. The memory of the stacks (11, 15): reads after writes and zeroing, and that its canonical form holds no more than the reads tell.
-/
namespace Sys2Proof.Machine

/-! ## The memory of the stacks (R497) -/

/-- A write leaves every byte outside its range. -/
theorem memGet_memWrite_outside (m : List Host.Cell) {a x : Nat} (bs : List Byte) (h : x < a ∨ a + bs.length ≤ x) :
    memGet (memWrite m a bs) x = memGet m x := by
  induction bs generalizing m a with
  | nil => rfl
  | cons b r ih =>
    rw [List.length_cons] at h
    rw [memWrite, ih _ (by omega), memGet_memSet_ne m b (by omega)]

/-- What is written is read back. -/
theorem memRead_memWrite_self (m : List Host.Cell) (a : Nat) (bs : List Byte) : memRead (memWrite m a bs) a bs.length = bs := by
  induction bs generalizing m a with
  | nil => rfl
  | cons b r ih =>
    have hfirst : memGet (memWrite (memSet m a b) (a + 1) r) a = b := by
      rw [memGet_memWrite_outside _ r (.inl (Nat.lt_succ_self a)), memGet_memSet_self]
    rw [List.length_cons, memRead, memWrite, hfirst, ih]

/-- A table restricted to some numbers has the objects of just these. -/
theorem tget_filter_key {α : Type} (t : Tbl α) (f : Nat → Bool) (k : Nat) :
    tget (t.filter fun p => f p.1) k = if f k then tget t k else none := by
  induction t with
  | nil => simp [tget]
  | cons p r ih =>
    obtain ⟨i, v⟩ := p
    by_cases hi : i = k
    · subst hi
      by_cases hf : f i <;> simp [tget, hf, ih]
    · by_cases hf : f i <;> simp [tget, hf, hi, ih]

/-- A zeroed range reads as zero, and every other byte as before. -/
theorem memGet_memZero (m : List Host.Cell) (a n x : Nat) :
    memGet (memZero m a n) x = if a ≤ x ∧ x < a + n then 0 else memGet m x := by
  rw [memGet, tgetD, memZero, tget_filter_key (α := Byte) m (fun i => !(decide (a ≤ i) && decide (i < a + n))), ← Bool.decide_and]
  by_cases h : a ≤ x ∧ x < a + n
  · rw [decide_eq_true h, if_pos h]
    rfl
  · rw [decide_eq_false h, if_neg h]
    rfl

/-- A table in canonical form gives each object that it lists. -/
theorem tget_of_mem {α : Type} {t : Tbl α} {k : Nat} {v : α} (ht : twf t = true) (h : (k, v) ∈ t) : tget t k = some v := by
  induction t with
  | nil => cases h
  | cons p r ih =>
    obtain ⟨i, w⟩ := p
    obtain ⟨habove, hr⟩ := (twf_cons i w r).mp ht
    rcases List.mem_cons.mp h with heq | hmem
    · obtain ⟨rfl, rfl⟩ := Prod.mk.inj heq
      exact if_pos rfl
    · exact (if_neg (habove (k, v) hmem).ne).trans (ih hr hmem)

/-- The canonical form is a list in the strict order of its numbers. -/
theorem twf_iff_pairwise {α : Type} (t : Tbl α) : twf t = true ↔ t.Pairwise fun p q => p.1 < q.1 := by
  induction t with
  | nil => simp [twf]
  | cons p r ih =>
    obtain ⟨i, w⟩ := p
    rw [twf_cons, List.pairwise_cons, ih, above]

/-- A memory in canonical form lists just the bytes that read as other than zero. -/
theorem mem_iff_memGet {m : List Host.Cell} (hm : Memory.wf m = true) (x : Nat) (b : Byte) :
    (x, b) ∈ m ↔ memGet m x = b ∧ b ≠ 0 := by
  obtain ⟨hrise, hnonzero⟩ := (memWf_iff m).mp hm
  constructor
  · intro h
    exact ⟨by rw [memGet, tgetD, tget_of_mem (α := Byte) hrise h, Option.getD_some], hnonzero _ h⟩
  · rintro ⟨hread, hb⟩
    rw [memGet, tgetD] at hread
    cases hx : tget (α := Byte) m x with
    | none => rw [hx] at hread; exact absurd hread.symm hb
    | some v =>
      rw [hx, Option.getD_some] at hread
      exact hread ▸ mem_of_tget_eq_some (α := Byte) hx

/-- Two memories in canonical form that read alike are one. -/
theorem memory_ext {m l : List Host.Cell} (hm : Memory.wf m = true) (hl : Memory.wf l = true) (h : ∀ x, memGet m x = memGet l x) :
    m = l := by
  have hsorted {k : List Host.Cell} (hk : Memory.wf k = true) : k.Pairwise fun p q => p.1 < q.1 :=
    (twf_iff_pairwise (α := Byte) k).mp ((memWf_iff k).mp hk).1
  have : Std.Irrefl fun p q : Host.Cell => p.1 < q.1 := ⟨fun p => Nat.lt_irrefl p.1⟩
  refine (hsorted hm).eq_of_mem_iff (hsorted hl) fun ⟨x, b⟩ => ?_
  rw [mem_iff_memGet hm, mem_iff_memGet hl, h]

end Sys2Proof.Machine

open Sys2Proof Sys2Proof.Machine

/-- Settles O57: a write is one byte after the other, and a memory in canonical form lists just the bytes that are not zero, in their order. -/
theorem stackMemoryReadsBack : Obligations.StackMemoryReadsBack := by
  unfold Obligations.StackMemoryReadsBack
  exact ⟨memRead_memWrite_self, fun m _ _ bs h => memGet_memWrite_outside m bs h, memGet_memZero,
    fun _ a n bs hm => ⟨memWrite_wf a bs hm, memZero_wf a n hm⟩, fun _ _ hm hl h => memory_ext hm hl h⟩

end

section
/-!
PROOF. The Millefeuille address map (11): R381's code as arithmetic on the row, the block, the granule and the byte of an address, and its
inverse.
-/
namespace Sys2Proof.Machine

/-! ## R381 as arithmetic -/

/-- A number joined, from bit `n` upwards, to the low `n` bits of another. -/
theorem shiftLeft_or_mask (x y n : Nat) : (x <<< n) ||| (y &&& (2 ^ n - 1)) = x * 2 ^ n + y % 2 ^ n := by
  rw [Nat.and_two_pow_sub_one_eq_mod, ← Nat.shiftLeft_add_eq_or_of_lt (Nat.mod_lt y (Nat.two_pow_pos n)), Nat.shiftLeft_eq]

/-- R381's code, with its shifts and masks as quotients and remainders. -/
theorem smemMap_eq_div (a : Nat) :
    let b := a / 2048
    let l := b / 4 * 2048 + a % 2048
    let c := l / 128
    smemMap a = ((b ^^^ (b / 4) ^^^ (b / 16) ^^^ (b / 64)) % 4, (c ^^^ (c / 16) ^^^ (c / 256)) % 16, c / 16 * 128 + l % 128) := by
  have hstack (x : Nat) : x &&& 3 = x % 4 := Nat.and_two_pow_sub_one_eq_mod x 2
  have hchan (x : Nat) : x &&& 15 = x % 16 := Nat.and_two_pow_sub_one_eq_mod x 4
  have hgranule (x y : Nat) : (x <<< 7) ||| (y &&& 0x7F) = x * 128 + y % 128 := shiftLeft_or_mask x y 7
  have hblock (x y : Nat) : (x <<< 11) ||| (y &&& 0x7FF) = x * 2048 + y % 2048 := shiftLeft_or_mask x y 11
  simp only [smemMap, hstack, hchan, hgranule, hblock, Nat.shiftRight_eq_div_pow]

/-- What a row of 8 KiB adds to the stack of its blocks. -/
def stackSalt (q : Nat) : Nat := (q ^^^ (q / 4) ^^^ (q / 16)) % 4

/-- What a row of 8 KiB adds to the channel of its granules. -/
def chanSalt (q : Nat) : Nat := (q ^^^ (q / 16)) % 16

theorem stackSalt_lt (q : Nat) : stackSalt q < 4 := Nat.mod_lt _ (by decide)

theorem chanSalt_lt (q : Nat) : chanSalt q < 16 := Nat.mod_lt _ (by decide)

/-- An address is its row of 8 KiB, the block in the row, the granule in the block, and the byte: the row salts the block to the stack and
the granule to the channel, and with the byte it is the offset. -/
theorem smemMap_eq_salted (a : Nat) :
    smemMap a = ((a / 2048 % 4) ^^^ stackSalt (a / 8192), (a / 128 % 16) ^^^ chanSalt (a / 8192), a / 8192 * 128 + a % 128) := by
  have hstack (x y : Nat) : (x ^^^ y) % 4 = (x % 4) ^^^ (y % 4) := Nat.xor_mod_two_pow (n := 2)
  have hchan (x y : Nat) : (x ^^^ y) % 16 = (x % 16) ^^^ (y % 16) := Nat.xor_mod_two_pow (n := 4)
  have hrow : a / 2048 / 4 = a / 8192 := Nat.div_div_eq_div_mul ..
  have hgranule : (a / 8192 * 2048 + a % 2048) / 128 = a / 8192 * 16 + a / 128 % 16 := by omega
  rw [smemMap_eq_div, hrow, hgranule]
  refine Prod.ext ?stack (Prod.ext ?chan ?offset)
  case stack =>
    have h16 : a / 2048 / 16 = a / 8192 / 4 := by omega
    have h64 : a / 2048 / 64 = a / 8192 / 16 := by omega
    simp only [h16, h64, Nat.xor_assoc, hstack (a / 2048), stackSalt]
  case chan =>
    have hlow : (a / 8192 * 16 + a / 128 % 16) % 16 = a / 128 % 16 := by omega
    have h16 : (a / 8192 * 16 + a / 128 % 16) / 16 = a / 8192 := by omega
    have h256 : (a / 8192 * 16 + a / 128 % 16) / 256 = a / 8192 / 16 := by omega
    simp only [h16, h256, Nat.xor_assoc, hchan (a / 8192 * 16 + a / 128 % 16), hlow, chanSalt]
  case offset =>
    show (a / 8192 * 16 + a / 128 % 16) / 16 * 128 + (a / 8192 * 2048 + a % 2048) % 128 = a / 8192 * 128 + a % 128
    omega

/-! ## The inverse, and what lies together -/

/-- The address that lies at an offset in a channel of a stack: the inverse of R381's code. -/
def smemUnmap (p : Nat × Nat × Nat) : Nat :=
  let q := p.2.2 / 128
  q * 8192 + (p.1 ^^^ stackSalt q) * 2048 + (p.2.1 ^^^ chanSalt q) * 128 + p.2.2 % 128

/-- The address comes back from its place. -/
theorem smemUnmap_smemMap (a : Nat) : smemUnmap (smemMap a) = a := by
  have hrow : (a / 8192 * 128 + a % 128) / 128 = a / 8192 := by omega
  simp only [smemUnmap, smemMap_eq_salted, hrow, Nat.xor_assoc, Nat.xor_self, Nat.xor_zero]
  omega

/-- No two addresses lie at one place. -/
theorem smemMap_injective : Function.Injective smemMap := Function.LeftInverse.injective smemUnmap_smemMap

/-- The row, block, granule and byte of the address that lies at a place. -/
theorem smemUnmap_parts {k c off : Nat} (hk : k < 4) (hc : c < 16) :
    smemUnmap (k, c, off) / 8192 = off / 128
    ∧ smemUnmap (k, c, off) / 2048 % 4 = k ^^^ stackSalt (off / 128)
    ∧ smemUnmap (k, c, off) / 128 % 16 = c ^^^ chanSalt (off / 128)
    ∧ smemUnmap (k, c, off) % 128 = off % 128 := by
  have hblock : k ^^^ stackSalt (off / 128) < 4 := Nat.xor_lt_two_pow (n := 2) hk (stackSalt_lt _)
  have hgranule : c ^^^ chanSalt (off / 128) < 16 := Nat.xor_lt_two_pow (n := 4) hc (chanSalt_lt _)
  simp only [smemUnmap]
  omega

/-- Every place of the 64 channels is some address's. -/
theorem smemMap_smemUnmap {k c : Nat} (hk : k < 4) (hc : c < 16) (off : Nat) : smemMap (smemUnmap (k, c, off)) = (k, c, off) := by
  obtain ⟨hrow, hblock, hgranule, hbyte⟩ := smemUnmap_parts (off := off) hk hc
  rw [smemMap_eq_salted, hrow, hblock, hgranule, hbyte, Nat.xor_assoc, Nat.xor_assoc, Nat.xor_self, Nat.xor_self, Nat.xor_zero,
    Nat.xor_zero, Nat.div_add_mod']

/-- A block of 2 KiB lies in one stack. -/
theorem smemMap_stack_of_block {a b : Nat} (h : a / 2048 = b / 2048) : (smemMap a).1 = (smemMap b).1 := by
  have hrow : a / 8192 = b / 8192 := by omega
  rw [smemMap_eq_salted, smemMap_eq_salted, h, hrow]

/-- A granule of 128 bytes lies in one channel. -/
theorem smemMap_channel_of_granule {a b : Nat} (h : a / 128 = b / 128) : (smemMap a).2.1 = (smemMap b).2.1 := by
  have hrow : a / 8192 = b / 8192 := by omega
  rw [smemMap_eq_salted, smemMap_eq_salted, h, hrow]

/-- An extent of 2 MiB has a row of 8 KiB, which has an address in every channel of every stack. -/
theorem exists_smemMap_of_extent {k c : Nat} (e : Nat) (hk : k < 4) (hc : c < 16) : ∃ a off, a / 0x200000 = e ∧ smemMap a = (k, c, off) := by
  obtain ⟨hrow, -⟩ := smemUnmap_parts (off := e * 0x8000) hk hc
  exact ⟨_, e * 0x8000, by omega, smemMap_smemUnmap hk hc _⟩

end Sys2Proof.Machine

open Sys2Proof Sys2Proof.Machine

/-- Settles O58: a row of 8 KiB permutes its blocks over the stacks and its granules over the channels, which an inverse undoes. -/
theorem addressMapFollowsR381 : Obligations.AddressMapFollowsR381 := by
  unfold Obligations.AddressMapFollowsR381
  exact ⟨rfl, smemMap_eq_div, fun _ _ h => smemMap_injective h, fun _ _ off hk hc => ⟨_, smemMap_smemUnmap hk hc off⟩,
    fun _ _ h => smemMap_stack_of_block h, fun _ _ h => smemMap_channel_of_granule h,
    fun e _ _ hk hc => exists_smemMap_of_extent e hk hc⟩

end

section
/-!
PROOF. The machine and its always-on domain (13, 15, 17): what a command can do to the queue of commands, to the flash, the boot and the
pins, and what follows for the boot rule, a loss of power and the minimum SVNs.
-/
namespace Sys2Proof.Machine

/-! ## Commands that leave the always-on domain alone (R483, R496) -/

/-- A row outside those of the always-on domain has an effect on the rest of the adapter alone, while that is not held in reset. -/
theorem exec_of_not_aoRow {i : Instr} (h : aoRow i = false) (s : State) :
    ∃ d, exec i s = .next { s with dev := if alive s.ao then d else s.dev } := by
  cases i
  case powerOn | resetSequenceDone | recoveryBankWrite | perstAssert | perstDeassert | porFall | railFault | sysclkLoss | refclkLoss
    | refclkRestored | thermAlert | thermTrip | sensorReport | fwUpdate | jtagInstruction | trstAssert => cases h
  all_goals exact ⟨_, rfl⟩

/-! ## What the rows of the always-on domain can do to it -/

/-- Where the configuration is applied, once PERST# is high, the adapter boots on; while PERST# is low it waits (R523). -/
def configured (a : Ao) : Ao := { a with phase := if a.perst then .perstHeld else .booting }

/-- What a boot can make of the always-on domain (R450): one of the two banks has passed and runs, or the recovery responder alone does. -/
inductive Boots (a : Ao) : Ao → Prop
  | runs {b : Nat} : b < 2 → bankPasses a.minSvn (bankAt a b) = true →
      Boots a (configured { a with bank := b, pendingBank := none, booted := true })
  | fails : Boots a { a with phase := .recovery }

/-- What a command can make of the always-on domain. -/
inductive AoStep : Instr → Ao → Ao → Prop
  /-- Nothing. -/
  | keeps {i : Instr} {a : Ao} : AoStep i a a
  /-- The thermal alert, and the JTAG port. -/
  | pins {i : Instr} {a : Ao} (alert trst : Bool) (ir : Nat) : AoStep i a { a with thermAlert := alert, trst := trst, jtagIr := ir }
  | powerOn {hi ok : Bool} {x y : BankImage} {a b : Ao} (l : List BankImage) : a.phase = .held →
      Boots { a with perst := !hi, banks := l } b → AoStep (.powerOn hi ok x y) a b
  | sequenceDone {a : Ao} : a.phase = .booting →
      AoStep .resetSequenceDone a { a with phase := .running, minSvn := raiseSvn a.minSvn (bankAt a a.bank) }
  | recoveryWrite {n : Nat} {x : BankImage} {a b : Ao} : a.phase = .recovery → Boots { a with banks := a.banks.set n x } b →
      AoStep (.recoveryBankWrite n x) a b
  | warmReset {a : Ao} : alive a = true → AoStep .perstAssert a { a with phase := .perstHeld, perst := true, booted := false }
  | perstLow {a : Ao} : AoStep .perstAssert a { a with perst := true }
  | perstHigh {a : Ao} : AoStep .perstDeassert a { a with perst := false }
  | goesOn {a : Ao} : a.phase = .perstHeld → a.booted = true → AoStep .perstDeassert a (configured { a with perst := false })
  | bootsNow {a b : Ao} : a.phase = .perstHeld ∨ a.phase = .recovery → Boots { a with perst := false } b → AoStep .perstDeassert a b
  | porFall {a : Ao} : AoStep .porFall a (flashOnly a)
  /-- A cause of R522, THERM_TRIP among them. -/
  | losesPower {i : Instr} {a : Ao} (trip : Bool) (l : List String) : a.phase ≠ .held → (a.thermTrip = true → trip = true) →
      AoStep i a { a with phase := .powerLoss, booted := false, thermTrip := trip, causes := l }
  | flashWrite {i : Instr} {a : Ao} (b : BankImage) (p : Option Nat) : alive a = true →
      AoStep i a { a with banks := a.banks.set (otherBank a) b, pendingBank := p }

/-- A command leaves the queue alone and does to the always-on domain what it can. -/
structure Acts (i : Instr) (s t : State) : Prop where
  pending : t.pending = s.pending
  ao : AoStep i s.ao t.ao

/-- A command that leaves the queue and the always-on domain alone. -/
theorem Acts.of_onDev (i : Instr) (f : Dev → Dev) (s : State) : Acts i s (onDev f s) := ⟨rfl, .keeps⟩

/-! ## Boot (R430, R449, R450, R497, R523) -/

theorem onDev_ao (f : Dev → Dev) (s : State) : (onDev f s).ao = s.ao := rfl

theorem configure_ao (s : State) : (configure s).ao = configured s.ao := by
  cases h : s.ao.perst <;> simp [configure, configured, h]

theorem configure_pending (s : State) : (configure s).pending = s.pending := by
  unfold configure
  split <;> rfl

theorem startBank_ao (b : Nat) (s : State) :
    (startBank b s).ao = configured { s.ao with bank := b, pendingBank := none, booted := true } := configure_ao _

theorem startBank_pending (b : Nat) (s : State) : (startBank b s).pending = s.pending := configure_pending _

theorem namedBank_lt (a : Ao) : namedBank a < 2 := Nat.mod_lt _ (by decide)

theorem boot_ao {s : State} {a : Ao} (h : s.ao = a) : Boots a (boot s).ao := by
  subst h
  unfold boot
  simp only
  split
  · next h => exact startBank_ao _ s ▸ .runs (namedBank_lt _) h
  · split
    · next h =>
      rw [onDev_ao, startBank_ao]
      exact .runs (by have := namedBank_lt s.ao; omega) h
    · exact .fails

theorem boot_pending (s : State) : (boot s).pending = s.pending := by
  unfold boot
  simp only
  repeat' split
  · exact startBank_pending _ s
  · exact startBank_pending _ s
  · rfl

theorem firstBoot_ao {ok : Bool} {s : State} {a : Ao} (h : s.ao = a) : Boots a (firstBoot ok s).ao := by
  cases ok
  · exact h ▸ .fails
  · exact boot_ao h

theorem firstBoot_pending (ok : Bool) (s : State) : (firstBoot ok s).pending = s.pending := by
  cases ok
  · rfl
  · exact boot_pending (onDev _ s)

/-! ## The rows of the always-on domain -/

theorem powerOn_acts (hi ok : Bool) (x y : BankImage) (s : State) : Acts (.powerOn hi ok x y) s (powerOn hi ok x y s) := by
  unfold powerOn
  split
  · exact ⟨rfl, .keeps⟩
  · next h => exact ⟨firstBoot_pending _ _, .powerOn _ (not_not.mp h) (firstBoot_ao rfl)⟩

theorem sequenceDone_acts (s : State) : Acts .resetSequenceDone s (sequenceDone s) := by
  by_cases h : s.ao.phase = .booting
  · rw [sequenceDone_of_booting h]
    exact ⟨rfl, .sequenceDone h⟩
  · rw [sequenceDone, if_pos h]
    exact ⟨rfl, .keeps⟩

theorem recoveryWrite_acts (n : Nat) (x : BankImage) (s : State) : Acts (.recoveryBankWrite n x) s (recoveryWrite n x s) := by
  unfold recoveryWrite
  split
  · exact ⟨rfl, .keeps⟩
  · next h =>
    split
    · exact .of_onDev ..
    · exact ⟨boot_pending _, .recoveryWrite (not_not.mp fun hp => h (.inl hp)) (boot_ao rfl)⟩

theorem perstAssert_acts (s : State) : Acts .perstAssert s (perstAssert s) := by
  unfold perstAssert
  split
  · next h => exact ⟨rfl, .warmReset h⟩
  · exact ⟨rfl, .perstLow⟩

theorem perstDeassert_acts (s : State) : Acts .perstDeassert s (perstDeassert s) := by
  unfold perstDeassert
  simp only
  split
  · next hp =>
    split
    · next hb => exact ⟨configure_pending _, configure_ao _ ▸ .goesOn hp hb⟩
    · exact ⟨boot_pending _, .bootsNow (.inl hp) (boot_ao rfl)⟩
  · next hp =>
    split
    · exact ⟨boot_pending _, .bootsNow (.inr hp) (boot_ao rfl)⟩
    · exact ⟨rfl, .perstHigh⟩
  · exact ⟨rfl, .perstHigh⟩

theorem enterLoss_acts (i : Instr) (cause : String) (args : List Nat) (s : State) : Acts i s (enterLoss cause args s) := by
  unfold enterLoss
  split
  · exact ⟨rfl, .keeps⟩
  · next h => exact ⟨rfl, .losesPower _ _ h id⟩

theorem thermTripAt_acts (i : Instr) (t : Nat) (dram : List Nat) (s : State) : Acts i s (thermTripAt t dram s) := by
  unfold thermTripAt
  split
  · exact ⟨rfl, .keeps⟩
  · next h =>
    have hh : s.ao.phase ≠ .held := fun hp => h (.inl hp)
    split
    · exact enterLoss_acts ..
    · rw [enterLoss, if_neg hh]
      exact ⟨rfl, .losesPower true _ hh fun _ => rfl⟩

theorem refclkStops_acts (i : Instr) (acc : Bool) (g : Nat) (s : State) : Acts i s (refclkStops acc g s) := by
  unfold refclkStops
  repeat' split
  · exact ⟨rfl, .keeps⟩
  · exact .of_onDev ..
  · exact .of_onDev ..

theorem refclkBack_acts (i : Instr) (acc : Bool) (g : Nat) (s : State) : Acts i s (refclkBack acc g s) := by
  unfold refclkBack
  split
  · exact ⟨rfl, .keeps⟩
  · exact .of_onDev ..

theorem thermAlertAt_acts (i : Instr) (t : Nat) (s : State) : Acts i s (thermAlertAt t s) := by
  unfold thermAlertAt
  repeat' split
  · exact ⟨rfl, .keeps⟩
  · exact ⟨rfl, .pins ..⟩
  · exact ⟨rfl, .pins ..⟩
  · exact ⟨rfl, .keeps⟩

theorem sensorReport_acts (i : Instr) (r : Sensors) (s : State) : Acts i s (sensorReport r s) := by
  unfold sensorReport
  split
  · exact ⟨rfl, .keeps⟩
  · exact .of_onDev ..

/-- FW_UPDATE's flash: as it is, or with something else in the bank that does not run. -/
theorem fwUpdate_ao (off n : Nat) (b : Option BankImage) (a : Ao) :
    (fwUpdate off n b a).2 = a ∨ ∃ x p, (fwUpdate off n b a).2 = { a with banks := a.banks.set (otherBank a) x, pendingBank := p } := by
  unfold fwUpdate
  split
  · exact .inl rfl
  · cases b with
    | none => exact .inr ⟨_, _, rfl⟩
    | some x =>
      simp only
      split
      · exact .inr ⟨_, _, rfl⟩
      · exact .inl rfl

theorem fwUpdateState_acts (i : Instr) (m : MgmtHead) (off n : Nat) (b : Option BankImage) (s : State) :
    Acts i s (fwUpdateState m off n b s) := by
  unfold fwUpdateState
  split
  · exact ⟨rfl, .keeps⟩
  · next h =>
    refine ⟨rfl, ?_⟩
    simp only
    split
    · rcases fwUpdate_ao off n b s.ao with hk | ⟨x, p, hw⟩
      · rw [hk]
        exact .keeps
      · rw [hw]
        exact .flashWrite x p (by simpa using h)
    · exact .keeps

/-- Every command answers a next state, leaves the queue alone, and does to the always-on domain what it can. -/
theorem exec_acts (i : Instr) (s : State) : ∃ t, exec i s = .next t ∧ Acts i s t := by
  by_cases hrow : aoRow i = false
  · obtain ⟨d, hd⟩ := exec_of_not_aoRow hrow s
    exact ⟨_, hd, rfl, .keeps⟩
  cases i
  case powerOn hi ok x y => exact ⟨_, rfl, powerOn_acts hi ok x y s⟩
  case resetSequenceDone => exact ⟨_, rfl, sequenceDone_acts s⟩
  case recoveryBankWrite n x => exact ⟨_, rfl, recoveryWrite_acts n x s⟩
  case perstAssert => exact ⟨_, rfl, perstAssert_acts s⟩
  case perstDeassert => exact ⟨_, rfl, perstDeassert_acts s⟩
  case porFall => exact ⟨_, rfl, rfl, .porFall⟩
  case railFault rail => exact ⟨_, rfl, enterLoss_acts _ "RAIL_FAULT" [rail] s⟩
  case sysclkLoss => exact ⟨_, rfl, enterLoss_acts _ "SYSCLK_LOSS" [] s⟩
  case refclkLoss acc g => exact ⟨_, rfl, refclkStops_acts _ acc g s⟩
  case refclkRestored acc g => exact ⟨_, rfl, refclkBack_acts _ acc g s⟩
  case thermAlert t => exact ⟨_, rfl, thermAlertAt_acts _ t s⟩
  case thermTrip t dram => exact ⟨_, rfl, thermTripAt_acts _ t dram s⟩
  case sensorReport r => exact ⟨_, rfl, sensorReport_acts _ r s⟩
  case fwUpdate m off n b => exact ⟨_, rfl, fwUpdateState_acts _ m off n b s⟩
  case jtagInstruction ir => exact ⟨_, rfl, rfl, .pins ..⟩
  case trstAssert => exact ⟨_, rfl, rfl, .pins ..⟩
  all_goals exact absurd rfl hrow

theorem exec_aoStep {i : Instr} {s t : State} (h : exec i s = .next t) : AoStep i s.ao t.ao := by
  obtain ⟨t', ht, ha⟩ := exec_acts i s
  cases ht.symm.trans h
  exact ha.ao

/-! ## Reset (R497) -/

/-- An empty table gives the default of its objects, whatever it is asked for. -/
theorem tgetD_nil {α : Type} (k : Nat) (d : α) : tgetD ([] : Tbl α) k d = d := rfl

/-! ## The boot rule (R449 to R451) -/

/-- A bank other than the running one may change. -/
theorem bankAt_set_ne {a : Ao} {n b : Nat} (x : BankImage) (h : n ≠ b) :
    bankAt { a with banks := a.banks.set n x } b = bankAt a b := by
  simp [bankAt, List.getD_eq_getElem?_getD, List.getElem?_set_ne h]

theorem otherBank_ne {a : Ao} (h : a.bank < 2) : otherBank a ≠ a.bank := by
  have : low a.bank 1 = a.bank := Nat.mod_eq_of_lt h
  simp only [otherBank, this]
  omega

theorem raiseSvn_getD {l : List Nat} {b : BankImage} {i : Nat} (h : i < 4) :
    (raiseSvn l b).getD i 0 = Nat.max (l.getD i 0) ((b.images[i]?.map fun x => x.svn).getD 0) := by
  simp [raiseSvn, List.getD_eq_getElem?_getD, List.getElem?_range h]

/-- A bank that has passed passes the minimum that it raises (R451). -/
theorem bankPasses_raiseSvn {l : List Nat} {b : BankImage} (h : bankPasses l b = true) : bankPasses (raiseSvn l b) b = true := by
  simp only [bankPasses, List.all_eq_true, List.mem_range] at h ⊢
  intro i hi
  have hpass := h i hi
  unfold imagePasses at hpass ⊢
  rw [raiseSvn_getD hi]
  cases hx : b.images[i]? with
  | none => simp [hx] at hpass
  | some x => simpa [hx] using hpass

/-- A boot meets the rule. -/
theorem Boots.bootRule {a b : Ao} (h : Boots a b) : bootRule b := by
  cases h with
  | runs hb hp => exact fun _ => ⟨hb, hp⟩
  | fails => simp [alive]

/-- Whatever a command does to the always-on domain, the boot rule is kept. -/
theorem AoStep.bootRule {i : Instr} {a b : Ao} (h : AoStep i a b) (hr : bootRule a) : bootRule b := by
  cases h with
  | keeps => exact hr
  | pins => exact hr
  | powerOn _ _ hb => exact hb.bootRule
  | sequenceDone hp =>
    obtain ⟨hlt, hpass⟩ := hr (.inl (by simp [alive, hp]))
    exact fun _ => ⟨hlt, bankPasses_raiseSvn hpass⟩
  | recoveryWrite _ hb => exact hb.bootRule
  | warmReset => simp [alive]
  | perstLow => exact hr
  | perstHigh => exact hr
  | goesOn hp hb => exact fun _ => hr (.inr ⟨hp, hb⟩)
  | bootsNow _ hb => exact hb.bootRule
  | porFall => simp [alive, flashOnly, Ao.reset]
  | losesPower => simp [alive]
  | flashWrite x _ ha =>
    obtain ⟨hlt, hpass⟩ := hr (.inl ha)
    refine fun _ => ⟨hlt, ?_⟩
    rw [← bankAt_set_ne x (otherBank_ne hlt)] at hpass
    exact hpass

/-! ## What only POR_FALL, POWER_ON and the end of the reset sequence change (R451, R522, R531) -/

/-- What a command keeps: the state of a loss of power, the held state, the trip pin, and the minimum SVNs, each but for the row that ends or
raises it. -/
structure Latches (i : Instr) (a b : Ao) : Prop where
  loss : a.phase = .powerLoss → i ≠ .porFall → b.phase = .powerLoss
  held : a.phase = .held → b.phase ≠ .held → ∃ hi ok x y, i = .powerOn hi ok x y
  trip : a.thermTrip = true → i ≠ .porFall → b.thermTrip = true
  svn : b.minSvn = a.minSvn ∨ i = .resetSequenceDone ∧ a.phase = .booting ∧ b.minSvn = raiseSvn a.minSvn (bankAt a a.bank)

section
variable {i : Instr} {a b : Ao}

theorem Latches.of_phase_eq (hp : b.phase = a.phase) (ht : b.thermTrip = a.thermTrip) (hs : b.minSvn = a.minSvn) : Latches i a b where
  loss h _ := hp.trans h
  held h hn := absurd (hp.trans h) hn
  trip h _ := ht.trans h
  svn := .inl hs

/-- A command that comes neither in the held state nor in a loss of power. -/
theorem Latches.of_powered (hl : a.phase ≠ .powerLoss) (hh : a.phase ≠ .held) (ht : b.thermTrip = a.thermTrip) (hs : b.minSvn = a.minSvn) :
    Latches i a b where
  loss h := absurd h hl
  held h := absurd h hh
  trip h _ := ht.trans h
  svn := .inl hs

/-- A boot leaves the trip pin and the minimum SVNs alone. -/
theorem Boots.keeps (h : Boots a b) : b.thermTrip = a.thermTrip ∧ b.minSvn = a.minSvn := by
  cases h <;> exact ⟨rfl, rfl⟩

theorem AoStep.latches (h : AoStep i a b) : Latches i a b := by
  cases h with
  | keeps => exact .of_phase_eq rfl rfl rfl
  | pins => exact .of_phase_eq rfl rfl rfl
  | powerOn _ hh hb =>
    obtain ⟨ht, hs⟩ := hb.keeps
    exact ⟨fun hl => by simp [hh] at hl, fun _ _ => ⟨_, _, _, _, rfl⟩, fun h _ => ht.trans h, .inl hs⟩
  | sequenceDone hp => exact ⟨by simp [hp], by simp [hp], fun h _ => h, .inr ⟨rfl, hp, rfl⟩⟩
  | recoveryWrite hp hb =>
    obtain ⟨ht, hs⟩ := hb.keeps
    exact .of_powered (by simp [hp]) (by simp [hp]) ht hs
  | warmReset ha => exact .of_powered (fun h => by simp [alive, h] at ha) (fun h => by simp [alive, h] at ha) rfl rfl
  | perstLow => exact .of_phase_eq rfl rfl rfl
  | perstHigh => exact .of_phase_eq rfl rfl rfl
  | goesOn hp => exact .of_powered (by simp [hp]) (by simp [hp]) rfl rfl
  | bootsNow hp hb =>
    obtain ⟨ht, hs⟩ := hb.keeps
    rcases hp with hp | hp <;> exact .of_powered (by simp [hp]) (by simp [hp]) ht hs
  | porFall => exact ⟨fun _ h => absurd rfl h, fun _ h => absurd rfl h, fun _ h => absurd rfl h, .inl rfl⟩
  | losesPower _ _ hh ht => exact ⟨fun _ _ => rfl, fun h => absurd h hh, fun h _ => ht h, .inl rfl⟩
  | flashWrite => exact .of_phase_eq rfl rfl rfl

end

/-- The minimum SVN of no image falls where a bank raises it. -/
theorem le_raiseSvn {l : List Nat} (b : BankImage) {j : Nat} (h : j < 4) : l.getD j 0 ≤ (raiseSvn l b).getD j 0 := by
  rw [raiseSvn_getD h]
  exact Nat.le_max_left ..

end Sys2Proof.Machine

open Sys2Proof Sys2Proof.Machine

/-- Settles O50: the step takes the front of the queue off and runs it. -/
theorem stepRunsFront : Obligations.StepRunsFront := by
  unfold Obligations.StepRunsFront
  exact fun _ _ => rfl

/-- Settles O53: every table of the adapter is empty at reset, so that each of its objects is the reset one. -/
theorem resetLeaves : Obligations.ResetLeaves := by
  unfold Obligations.ResetLeaves
  refine ⟨rfl, rfl, rfl, rfl, fun a => tgetD_nil a 0, memWf_nil, fun _ => rfl, fun k => ?slice, fun n => ?port, fun k => ?io, fun n => ?admin,
    fun q => ?event, fun code index => tgetD_nil _ 0, rfl, rfl, rfl, rfl, rfl, rfl, rfl, rfl, fun n => tgetD_nil n _, fun p => tgetD_nil p _⟩
  case slice => rw [getSlice, State.reset, Dev.reset, tgetD_nil, Slice.free]
  case port => rw [getPort, State.reset, Dev.reset, tgetD_nil, FPort.reset]
  case io =>
    unfold getIo
    split
    · rfl
    · rw [State.reset, Dev.reset, tgetD_nil, IoPort.reset]
  case admin => rw [getAq, State.reset, Dev.reset, tgetD_nil, AdminQ.reset]
  case event => rw [getEvq, State.reset, Dev.reset, tgetD_nil, EventQ.reset]

/-- Settles O54: at reset the adapter neither works nor waits for PERST# after a boot. -/
theorem bootRuleHoldsAtReset : Obligations.BootRuleHoldsAtReset := by
  unfold Obligations.BootRuleHoldsAtReset
  simp [alive, State.reset, Ao.reset]

/-- Settles O55: a step is the tick, which leaves the always-on domain alone, or a command, each of whose possible effects on the domain keeps
the rule. -/
theorem bootRuleKept : Obligations.BootRuleKept := by
  unfold Obligations.BootRuleKept
  intro s t hr hstep
  cases hp : s.pending with
  | nil =>
    rw [step_of_idle hp] at hstep
    cases hstep
    exact hr
  | cons c rest =>
    have hc : exec c { s with pending := rest } = .next t := by
      rwa [step, hp] at hstep
    exact (exec_aoStep hc).bootRule hr

/-- Settles O52: what `exec_acts` says of every command, and for a row outside the always-on domain that it acts on the rest alone, while
that runs. -/
theorem everyCommandAnswers : Obligations.EveryCommandAnswers := by
  unfold Obligations.EveryCommandAnswers
  intro i s
  by_cases hrow : aoRow i = false
  · obtain ⟨d, hd⟩ := exec_of_not_aoRow hrow s
    exact ⟨_, hd, rfl, fun _ => ⟨rfl, fun ha => by simp [ha]⟩⟩
  · obtain ⟨t, ht, ha⟩ := exec_acts i s
    exact ⟨t, ht, ha.pending, fun h => absurd h hrow⟩

/-- Settles O56: the cases of `AoStep`, each of which keeps what it does not end; the minimum SVNs rise to a maximum with the old ones. -/
theorem powerLossEndsWithPor : Obligations.PowerLossEndsWithPor := by
  unfold Obligations.PowerLossEndsWithPor
  intro i s t h
  obtain ⟨hloss, hheld, htrip, hsvn⟩ := (exec_aoStep h).latches
  refine ⟨hloss, ?por, hheld, htrip, fun j hj => ?le, fun hne => ?rises⟩
  case por =>
    rintro rfl
    cases h
    exact ⟨rfl, rfl⟩
  case le =>
    rcases hsvn with hs | ⟨-, -, hs⟩
    · rw [hs]
    · rw [hs]
      exact le_raiseSvn _ hj
  case rises =>
    rcases hsvn with hs | ⟨hi, hp, -⟩
    · exact absurd hs.symm hne
    · exact ⟨hi, hp⟩

end

section
/-!
PROOF. The common operations (12, 14): what a reply and an event leave alone, and the stacks where no queue that is written lies in them.
-/
namespace Sys2Proof.Machine

/-! ## What a write at a port leaves alone (R363, R372, R424) -/

/-- The adapter with what a write at a port may change set aside: the ports with their links, the outputs, and the holders of translations. -/
def portFrameOf (d : Dev) : Dev := { d with
  ports := [], out := [], host := IoPort.reset, accs := [], xlt := { d.xlt with holders := [] } }

theorem endHolder_portFrame (t : Option Nat) (d : Dev) : portFrameOf (endHolder t d) = portFrameOf d := by
  unfold endHolder
  split <;> rfl

theorem setIo_portFrame (k : Nat) (x : IoPort) (d : Dev) : portFrameOf (setIo k x d) = portFrameOf d := by
  unfold setIo
  split <;> rfl

theorem emit_portFrame (o : Out) (d : Dev) : portFrameOf (emit o d) = portFrameOf d := rfl

theorem modPort_portFrame (n : Nat) (f : FPort → FPort) (d : Dev) : portFrameOf (modPort n f d) = portFrameOf d := rfl

theorem layFlits_portFrame (n k : Nat) (d : Dev) : portFrameOf (layFlits n k d) = portFrameOf d := by
  unfold layFlits
  split <;> rfl

theorem layIdle_portFrame (n : Nat) (d : Dev) : portFrameOf (layIdle n d) = portFrameOf d := by
  unfold layIdle
  simp only
  split
  · rfl
  · rw [modPort_portFrame, layFlits_portFrame]

theorem sendStream_portFrame (n vc k : Nat) (d : Dev) : portFrameOf (sendStream n vc k d) = portFrameOf d := by
  unfold sendStream
  simp only [modPort_portFrame, layFlits_portFrame, layIdle_portFrame]

theorem issueWrite_portFrame (k : Nat) (w : LoggedWrite) (d : Dev) : portFrameOf (issueWrite k w d) = portFrameOf d := by
  unfold issueWrite zalLay
  rw [emit_portFrame]
  split
  · exact sendStream_portFrame ..
  · rfl

/-- Writes that leave a port. -/
theorem pumpWrites_portFrame (k : Nat) (d : Dev) : portFrameOf (pumpWrites k d) = portFrameOf d := by
  refine foldl_keep (P := fun x y => portFrameOf y = portFrameOf x) (fun _ => rfl) (fun _ _ _ h h' => h'.trans h) _ (fun x w => ?_) _ d
  simp only
  split
  · rw [endHolder_portFrame, issueWrite_portFrame, setIo_portFrame]
  · rfl

theorem signal_portFrame (v : Nat) (d : Dev) : portFrameOf (signal v d) = portFrameOf d := by
  unfold signal
  repeat' split
  all_goals rfl

/-- A record that is not for the stacks goes to a port. -/
theorem storeRecord_portFrame {sp : Nat} (h : sp ≠ 1) (base lg : Nat) (i : U32) (bits : BitVec 256) (slice : Nat) (d : Dev) :
    portFrameOf (storeRecord sp base lg i bits slice d) = portFrameOf d := by
  unfold storeRecord store storeFor
  split
  · exact endHolder_portFrame ..
  · split
    · next hp =>
      rw [portOfSpace, if_neg h] at hp
      split at hp <;> cases hp
    · rw [portWrite, pumpWrites_portFrame, modIo, setIo_portFrame]

/-! ## Where the stacks keep every byte -/

/-- The bytes of the stacks, their poison markers, and the counts of their dies. -/
def stacksOf (d : Dev) : List Host.Cell × List Nat × Tbl Stack := (d.mem, d.poison, d.dies)

/-- Where a condition holds the stacks are kept, and the condition with them. -/
structure KeepsStacks (off : Dev → Prop) (d t : Dev) : Prop where
  keeps : off d → off t ∧ stacksOf t = stacksOf d

theorem KeepsStacks.refl {off : Dev → Prop} (d : Dev) : KeepsStacks off d d := ⟨fun h => ⟨h, rfl⟩⟩

theorem KeepsStacks.trans {off : Dev → Prop} {d t u : Dev} (h : KeepsStacks off d t) (h' : KeepsStacks off t u) : KeepsStacks off d u := by
  refine ⟨fun hd => ?_⟩
  obtain ⟨ht, hs⟩ := h.keeps hd
  obtain ⟨hu, hs'⟩ := h'.keeps ht
  exact ⟨hu, hs'.trans hs⟩

/-- The condition may be taken as given. -/
theorem KeepsStacks.of_off {off : Dev → Prop} {d t : Dev} (h : off d → KeepsStacks off d t) : KeepsStacks off d t :=
  ⟨fun hd => (h hd).keeps hd⟩

theorem KeepsStacks.foldl {α : Type} {off : Dev → Prop} {f : Dev → α → Dev} (hf : ∀ d a, KeepsStacks off d (f d a)) (l : List α)
    (d : Dev) : KeepsStacks off d (l.foldl f d) :=
  foldl_keep (P := KeepsStacks off) .refl (fun _ _ _ => .trans) f hf l d

theorem KeepsStacks.times {off : Dev → Prop} {f : Dev → Dev} (hf : ∀ d, KeepsStacks off d (f d)) (n : Nat) (d : Dev) :
    KeepsStacks off d (times n f d) := by
  induction n generalizing d with
  | zero => exact .refl d
  | succ n ih => exact (hf d).trans (ih _)

/-! ## Replies (R460, R461, R470) -/

/-- No admin queue lies in the stacks. -/
def aqsOff (d : Dev) : Prop := ∀ n, (getAq d n).space ≠ 1

theorem keepsStacks_of_adminQ_eq {d t : Dev} (ha : t.adminQ = d.adminQ) (hs : stacksOf t = stacksOf d) : KeepsStacks aqsOff d t :=
  ⟨fun h => ⟨fun n => by rw [getAq, ha]; exact h n, hs⟩⟩

theorem keepsStacks_of_portFrame {d t : Dev} (h : portFrameOf t = portFrameOf d) : KeepsStacks aqsOff d t :=
  keepsStacks_of_adminQ_eq (congrArg Dev.adminQ h :) (congrArg stacksOf h :)

theorem setAq_keepsStacks {n : Nat} {x : AdminQ} {d : Dev} (h : aqsOff d → x.space ≠ 1) : KeepsStacks aqsOff d (setAq n x d) := by
  refine ⟨fun hd => ⟨fun m => ?_, rfl⟩⟩
  by_cases hm : m = n
  · subst hm
    rw [getAq_setAq]
    exact h hd
  · rw [getAq_setAq_ne x d hm]
    exact hd m

theorem writeReply_keepsStacks (n : Nat) (r : Reply) (d : Dev) : KeepsStacks aqsOff d (writeReply n r d) := by
  refine .of_off fun hd => ?_
  unfold writeReply
  simp only
  generalize ho : emit _ _ = t
  generalize hu : setAq n _ t = u
  have hstore : KeepsStacks aqsOff d t := by
    subst ho
    exact keepsStacks_of_portFrame ((emit_portFrame ..).trans (storeRecord_portFrame (hd n) ..))
  have hset : KeepsStacks aqsOff t u := by
    subst hu
    exact setAq_keepsStacks fun _ => hd n
  split
  · exact (hstore.trans hset).trans (keepsStacks_of_portFrame (signal_portFrame ..))
  · exact hstore.trans hset

theorem putReply_keepsStacks (n : Nat) (r : Reply) (d : Dev) : KeepsStacks aqsOff d (putReply n r d) := by
  unfold putReply
  simp only
  repeat' split
  · exact keepsStacks_of_adminQ_eq rfl rfl
  · exact keepsStacks_of_adminQ_eq rfl rfl
  · refine .trans ?_ (writeReply_keepsStacks ..)
    exact keepsStacks_of_adminQ_eq rfl rfl
  · refine .trans ?_ (setAq_keepsStacks fun hd => hd n)
    exact keepsStacks_of_adminQ_eq rfl rfl

/-- A disabled queue keeps its space, or has that of reset. -/
theorem disabledQ_space {n : Nat} {a : AdminQ} (h : a.space ≠ 1) : (disabledQ n a).space ≠ 1 := by
  unfold disabledQ
  split
  · exact h
  · decide

theorem closeQueue_keepsStacks (n : Nat) (d : Dev) : KeepsStacks aqsOff d (closeQueue n d) := by
  unfold closeQueue
  simp only
  split
  · exact setAq_keepsStacks fun hd => disabledQ_space (hd n)
  · exact .refl d

theorem endClosing_keepsStacks (w : Cmd × Nat × WaitOn) (d : Dev) : KeepsStacks aqsOff d (endClosing w d) := by
  unfold endClosing
  repeat' split
  · exact .refl d
  · refine .trans ?_ (putReply_keepsStacks ..)
    exact keepsStacks_of_adminQ_eq rfl rfl
  · exact .refl d

theorem closeQueues_keepsStacks (d : Dev) : KeepsStacks aqsOff d (closeQueues d) :=
  .times (fun x => (KeepsStacks.foldl (fun d _ => closeQueue_keepsStacks _ d) _ x).trans (.foldl (fun d w => endClosing_keepsStacks w d) _ _)) _ d

theorem startOne_keepsStacks (n : Nat) (acc : (List (BitVec 512 × U32) × Bool) × Dev) (p : BitVec 512 × U32) :
    KeepsStacks aqsOff acc.2 (startOne n acc p).2 := by
  obtain ⟨⟨k, b⟩, d⟩ := acc
  unfold startOne
  simp only
  split
  · split
    · exact putReply_keepsStacks ..
    · exact keepsStacks_of_adminQ_eq rfl rfl
  · exact .refl d

theorem startQueue_keepsStacks (n : Nat) (d : Dev) : KeepsStacks aqsOff d (startQueue n d) := by
  unfold startQueue
  simp only
  split
  · exact .refl d
  · have hstart := foldl_keep (P := fun x y => KeepsStacks aqsOff x.2 y.2) (fun x => .refl x.2) (fun _ _ _ => .trans) _
      (startOne_keepsStacks n) (getAq d n).waiting (([], false), d)
    refine hstart.trans ?_
    exact setAq_keepsStacks fun hd => hd n

/-- A reply writes to the rings of admin queues alone. -/
theorem reply_keepsStacks (c : CmdInfo) (h : Cmd) (st dt r : Nat) (d : Dev) : KeepsStacks aqsOff d (reply c h st dt r d) :=
  ((putReply_keepsStacks ..).trans (closeQueues_keepsStacks _)).trans (.foldl (fun d _ => startQueue_keepsStacks _ d) _ _)

/-- A reply changes what its record's write and the commands that waited may change. -/
theorem reply_frame (c : CmdInfo) (h : Cmd) (st dt r : Nat) (d : Dev) : frameOf (reply c h st dt r d) = frameOf d := by
  rw [reply, startAll_frame, closeQueues_frame, putReply_frame]

/-! ## Events (R420 to R424) -/

/-- The admin queues with their started and waiting commands. -/
def commandsOf (d : Dev) : List Started × List (Nat × U32) × Tbl AdminQ × List (Cmd × Nat × WaitOn) :=
  (d.started, d.timedOut, d.adminQ, d.waits)

theorem markPoison_commands (l : List Nat) (d : Dev) : commandsOf (markPoison l d) = commandsOf d := by
  refine foldl_keep (P := fun x y => commandsOf y = commandsOf x) (fun _ => rfl) (fun _ _ _ h h' => h'.trans h) _ (fun x n => ?_) l d
  simp only
  split <;> rfl

theorem smemWrite_commands (a : Nat) (b : List Byte) (p : Bool) (d : Dev) : commandsOf (smemWrite a b p d) = commandsOf d := by
  unfold smemWrite
  simp only
  split
  · exact markPoison_commands ..
  · rfl

/-- A record's write, wherever it goes, is no matter of the commands. -/
theorem storeRecord_commands (sp base lg : Nat) (i : U32) (bits : BitVec 256) (slice : Nat) (d : Dev) :
    commandsOf (storeRecord sp base lg i bits slice d) = commandsOf d := by
  by_cases h : sp = 1
  · subst h
    unfold storeRecord store storeFor
    split
    · rfl
    · exact smemWrite_commands ..
  · exact (congrArg commandsOf (storeRecord_portFrame h ..) :)

/-- No event queue lies in the stacks. -/
def evqsOff (d : Dev) : Prop := ∀ q, (getEvq d q).ring.space ≠ 1

/-- An event leaves the commands alone, and the stacks where no event queue lies in them. -/
structure EventKeeps (d t : Dev) : Prop extends KeepsStacks evqsOff d t where
  commands : commandsOf t = commandsOf d

theorem EventKeeps.refl (d : Dev) : EventKeeps d d := ⟨.refl d, rfl⟩

theorem EventKeeps.trans {d t u : Dev} (h : EventKeeps d t) (h' : EventKeeps t u) : EventKeeps d u :=
  ⟨h.toKeepsStacks.trans h'.toKeepsStacks, h'.commands.trans h.commands⟩

theorem eventKeeps_of_eventQ_eq {d t : Dev} (he : t.eventQ = d.eventQ) (hs : stacksOf t = stacksOf d) (hc : commandsOf t = commandsOf d) :
    EventKeeps d t :=
  ⟨⟨fun h => ⟨fun q => by rw [getEvq, he]; exact h q, hs⟩⟩, hc⟩

theorem eventKeeps_of_portFrame {d t : Dev} (h : portFrameOf t = portFrameOf d) : EventKeeps d t :=
  eventKeeps_of_eventQ_eq (congrArg Dev.eventQ h :) (congrArg stacksOf h :) (congrArg commandsOf h :)

/-- An event queue changes, and its ring does not come to lie in the stacks. -/
theorem setEvq_keeps {q : Nat} {x : EventQ} {d : Dev} (h : evqsOff d → x.ring.space ≠ 1) : EventKeeps d (setEvq q x d) := by
  refine ⟨⟨fun hd => ⟨fun m => ?_, rfl⟩⟩, rfl⟩
  by_cases hm : m = q
  · subst hm
    rw [getEvq_setEvq]
    exact h hd
  · rw [getEvq_setEvq_ne x d hm]
    exact hd m

/-- A record enters its ring, which may be in the stacks, and the queue moves on. -/
theorem writeEvent_keeps (q : Nat) (e : EventRec) (d : Dev) : EventKeeps d (writeEvent q e d) := by
  unfold writeEvent
  simp only
  generalize ho : emit _ _ = t
  generalize hu : setEvq q _ t = u
  have hstore : EventKeeps d t := by
    subst ho
    refine ⟨.of_off fun hd => ?_, storeRecord_commands ..⟩
    exact (eventKeeps_of_portFrame ((emit_portFrame ..).trans (storeRecord_portFrame (hd q) ..))).toKeepsStacks
  have hset : EventKeeps d u := by
    subst hu
    refine ⟨.of_off fun hd => hstore.toKeepsStacks.trans (EventKeeps.toKeepsStacks ?_), hstore.commands⟩
    exact setEvq_keeps fun _ => hd q
  split
  · exact hset.trans (eventKeeps_of_portFrame (signal_portFrame ..))
  · exact hset

theorem dropEvent_keeps (q : Nat) (e : EventRec) (d : Dev) : EventKeeps d (dropEvent q e d) := by
  unfold dropEvent
  simp only
  generalize hu : setEvq q _ d = u
  have hset : EventKeeps d u := by
    subst hu
    exact setEvq_keeps fun hd => hd q
  exact hset.trans (eventKeeps_of_eventQ_eq rfl rfl rfl)

theorem fileEvent_keeps (q : Nat) (e : EventRec) (d : Dev) : EventKeeps d (fileEvent q e d) := by
  unfold fileEvent
  simp only
  repeat' split
  · exact writeEvent_keeps ..
  · exact setEvq_keeps fun hd => hd q
  · exact dropEvent_keeps ..
  · exact dropEvent_keeps ..
  · exact dropEvent_keeps ..
  · refine .trans ?_ (dropEvent_keeps ..)
    exact setEvq_keeps fun hd => hd q

theorem placeEvent_keeps (q : Nat) (e : EventRec) (d : Dev) : EventKeeps d (placeEvent q e d) := by
  unfold placeEvent
  simp only
  split
  · exact (fileEvent_keeps ..).trans (eventKeeps_of_portFrame (signal_portFrame ..))
  · exact fileEvent_keeps ..

theorem choose_keeps {bound : Nat} {ok : Nat → Bool} {d t : Dev} {c : Option Nat} (h : choose bound ok d = (c, t)) : EventKeeps d t := by
  obtain rfl : (choose bound ok d).2 = t := by rw [h]
  unfold choose
  simp only
  split <;> exact eventKeeps_of_eventQ_eq rfl rfl rfl

theorem postEvent_keeps (q : Nat) (e : Ev) (d : Dev) : EventKeeps d (postEvent q e d) := by
  unfold postEvent
  simp only
  generalize hu : setEvq q _ d = u
  generalize ht : ite (q = 0 ∧ (getEvq d q).en = false ∧ 2 ≤ e.sev) _ _ = t
  have hseq : EventKeeps d u := by
    subst hu
    exact setEvq_keeps fun hd => hd q
  have htold : EventKeeps u t := by
    subst ht
    split <;> exact eventKeeps_of_eventQ_eq rfl rfl rfl
  refine (hseq.trans htold).trans ?_
  split
  · split
    · next h => exact (choose_keeps h).trans (eventKeeps_of_eventQ_eq rfl rfl rfl)
    · next h => exact (choose_keeps h).trans (placeEvent_keeps ..)
  · exact placeEvent_keeps ..

/-- An event writes to the rings of event queues alone. -/
theorem raise_keeps (e : Ev) (d : Dev) : EventKeeps d (raise e d) := by
  unfold raise
  repeat' split
  · exact postEvent_keeps ..
  · exact .refl d
  · exact postEvent_keeps ..
  · exact (postEvent_keeps ..).trans (postEvent_keeps ..)
  · exact postEvent_keeps ..
  · exact postEvent_keeps ..

/-- The frame of an event, with the event queues and the lists for triage put back. -/
theorem raise_frame (e : Ev) (d : Dev) : frameOf { raise e d with eventQ := d.eventQ, triage := d.triage } = frameOf d :=
  congrArg (fun x : Dev => { x with eventQ := d.eventQ, triage := d.triage }) (raise_eventFrame e d)

/-! ## The frames put back together -/

/-- Two adapters that are one frame are equal once the rest is put back. -/
theorem restored_eq {d t : Dev} (h : frameOf t = frameOf d) :
    { t with
      started := d.started, timedOut := d.timedOut, adminQ := d.adminQ, waits := d.waits, counters := d.counters, out := d.out
      freeCtr := d.freeCtr, mem := d.mem, poison := d.poison, dies := d.dies, host := d.host, accs := d.accs, xlt := d.xlt
      ports := d.ports } = d :=
  congrArg (fun x : Dev => { x with
    started := d.started, timedOut := d.timedOut, adminQ := d.adminQ, waits := d.waits, counters := d.counters, out := d.out
    freeCtr := d.freeCtr, mem := d.mem, poison := d.poison, dies := d.dies, host := d.host, accs := d.accs, xlt := d.xlt
    ports := d.ports }) h

/-- What leaves every link below 64 alone leaves the fabric ports alone. -/
theorem getPort_of_ports_below {d t : Dev} (h : (t.ports.filter fun p => p.1 < 64) = d.ports.filter fun p => p.1 < 64) {n : Nat}
    (hn : n < 64) : getPort t n = getPort d n := by
  have hget (l : Tbl FPort) : tget l n = tget (l.filter fun p => p.1 < 64) n := by
    rw [tget_filter_key l (fun k => decide (k < 64)) n, if_pos (by simpa using hn)]
  rw [getPort, getPort, tgetD, tgetD, hget t.ports, hget d.ports, h]

end Sys2Proof.Machine

open Sys2Proof Sys2Proof.Machine

/-- Settles O60: the frames of a reply and of an event, put back together; and where no ring lies in the stacks a record's write is one at a
port. -/
theorem commonOperationsFrame : Obligations.CommonOperationsFrame := by
  unfold Obligations.CommonOperationsFrame
  refine ⟨fun c h st dt r d => ?reply, fun e d => ?event⟩
  case reply =>
    have hf := reply_frame c h st dt r d
    refine ⟨?rest, ?holders, fun n hn => getPort_of_ports_below (congrArg Dev.ports hf :) hn, fun hoff => ?memory⟩
    case rest => exact restored_eq hf
    case holders => exact congrArg (fun x : Dev => { x.xlt with holders := d.xlt.holders }) hf
    case memory => simpa [stacksOf] using ((reply_keepsStacks c h st dt r d).keeps hoff).2
  case event =>
    have hf := raise_frame e d
    have hk := raise_keeps e d
    refine ⟨?rest, ?holders, fun n hn => getPort_of_ports_below (congrArg Dev.ports hf :) hn, fun hoff => ?memory⟩
    case rest =>
      have hc := hk.commands
      simp only [commandsOf, Prod.mk.injEq] at hc
      obtain ⟨hstarted, htimed, hqueues, hwaits⟩ := hc
      simpa only [hstarted, htimed, hqueues, hwaits] using restored_eq hf
    case holders => exact congrArg (fun x : Dev => { x.xlt with holders := d.xlt.holders }) hf
    case memory => simpa [stacksOf] using (hk.keeps hoff).2

end

section
/-!
PROOF. Snapshots, triage and the timers of keys (12, 13): what each rule does once its guard is met.
-/
namespace Sys2Proof.Machine

/-! ## Snapshots (R411 to R414) -/

/-- SNAP_EXPORT of a slice that no reset is taking writes the slice's image and replies its length. -/
theorem snapExportBody_of_slice {addr : Nat} {h : Cmd} {d : Dev} (c : CmdInfo) (hg : sliceGoing d h.slice = false) :
    snapExportBody 1 addr h c d =
      let r := snapImage (some h.slice) (freezeScope [h.slice] d)
      reply c h csOk 0 (packResult [(r.1.bytes.length, 8)]) (store 0 addr r.1.bytes false true deviceOwner none (emit (.snapshot r.1) r.2)) := by
  simp [snapExportBody, scopeSlices, hg]

/-- SNAP_THAW of a slice whose queue pairs have their keys thaws each of them. -/
theorem snapThawBody_of_keys {h : Cmd} {d : Dev} (c : CmdInfo) (hk : ∀ p ∈ d.qps, p.2.slice = h.slice → keyMissing d p.2 = false) :
    snapThawBody 1 h c d = ok c h ((d.qps.filter fun p => p.2.slice == h.slice).foldl (fun d p => thawQp p.1 d) d) := by
  have hmine : (d.qps.filter fun p => 1 = 0 || p.2.slice == h.slice) = d.qps.filter fun p => p.2.slice == h.slice := by simp
  have hkeys : ((d.qps.filter fun p => p.2.slice == h.slice).any fun p => keyMissing d p.2) = false := by
    rw [List.any_eq_false]
    intro p hp
    obtain ⟨hmem, hs⟩ := List.mem_filter.mp hp
    simp [hk p hmem (by simpa using hs)]
  simp only [snapThawBody, hmine, hkeys, Bool.false_eq_true, if_false]

/-! ## Triage (R425) -/

/-- A control core with a record takes its oldest one's step and writes the record. -/
theorem eventTriage_of_waiting {core : Nat} {e : EventRec} {r : List EventRec} {d : Dev} (ht : tgetD d.triage core [] = e :: r) :
    eventTriage core d = placeEvent 0 { e with action := triageAction e, untriaged := false }
      (triageStep e { d with triage := if r = [] then tdel d.triage core else tset d.triage core r }) := by
  simp only [eventTriage, ht, List.isEmpty_iff]

/-- The retraining of a port goes on at its moment, where a control core runs. -/
theorem triageRetrain_of_due {n t : Nat} {d : Dev} (hd : (getPort d n).retrainDue = some t) (hc : d.cores ≠ 0) :
    triageRetrain n d = retrainAgain n (advanceTo t d) := by
  have hcores : (advanceTo t d).cores = d.cores := by
    unfold advanceTo
    split <;> rfl
  rw [triageRetrain, hd, atExpiry_some, hcores, if_neg hc]

/-! ## Timers of keys (R435, R436, R442) -/

/-- KEY_WAIT of a stopped slot of a LIVE slice ends at its moment. -/
theorem keyWaitEffect_of_stopped {k t : Nat} {x : KeySlot} {d : Dev} (hx : tget d.keySlots k = some x) (hw : x.waitOver = false)
    (hl : sliceLive d x.owner = true) (ht : x.stoppedSince = some t) :
    keyWaitEffect k d = keyExhausted k (
      let d := advanceTo (t + (getSlice d x.owner).keyWait) d
      { d with keySlots := tset d.keySlots k { x with waitOver := true } }) := by
  simp [keyWaitEffect, hx, hw, hl, ht, atExpiry_some]

/-- RX_GRACE of the key before the last ends at its moment. -/
theorem prevGraceEffect_of_prev {k t : Nat} {x : KeySlot} {key : FabKey} {d : Dev} (hx : tget d.keySlots k = some x)
    (hp : x.prev = some (key, t)) :
    prevGraceEffect k d =
      let d := advanceTo t d
      { d with keySlots := tset d.keySlots k { x with prev := none } } := by
  simp [prevGraceEffect, hx, hp, atExpiry_some]

end Sys2Proof.Machine

open Sys2Proof Sys2Proof.Machine

/-- Settles O46: each clause's conditions are the guards of one rule, past the checks of every command where it is one. -/
theorem recoveryComplete : Obligations.RecoveryComplete := by
  unfold Obligations.RecoveryComplete
  refine ⟨fun s h addr ht hg => ?snapExport, fun s h i ht hr => ?snapImport, fun s h ht hk => ?thaw, fun s core e r ha ht => ?triage,
    fun s n t ha hd hc => ?retrain, fun s k t x ha hx hw hl ht => ?keyWait, fun s k t x key ha hx hp => ?prevGrace⟩
  case snapExport =>
    show runLevels (command 0x0802 h true none (snapExportBody 1 addr h)) s = _
    rw [runLevels_command_of_takes _ ht rfl, snapExportBody_of_slice _ hg]
  case snapImport =>
    show runLevels (snapImportEffect h i) s = _
    rw [snapImportEffect, runLevels_command_of_takes _ ht rfl]
    simp only [hr]
  case thaw =>
    show runRetire (command 0x0804 h true none (snapThawBody 1 h)) s = _
    obtain ⟨ha, hc⟩ := ht
    rw [runRetire_of_alive ha, command_of_accepts _ hc, snapThawBody_of_keys _ hk]
  case triage =>
    show runLevels (eventTriage core) s = _
    rw [runLevels_of_alive ha, eventTriage_of_waiting ht]
  case retrain =>
    show runLevels (triageRetrain n) s = _
    rw [runLevels_of_alive ha, triageRetrain_of_due hd hc]
  case keyWait =>
    show runRetire (keyWaitEffect k) s = _
    rw [runRetire_of_alive ha, keyWaitEffect_of_stopped hx hw hl ht]
  case prevGrace =>
    show run (prevGraceEffect k) s = _
    rw [run_of_alive ha, prevGraceEffect_of_prev hx hp]

end

section
/-!
PROOF. Keys, the management plane, SPDM, the raw block service and debug (13, 17): what each rule does once its guard is met.
-/
namespace Sys2Proof.Machine

/-! ## Key slots (R434, R436) -/

/-- While the management plane runs, an install of a key that unwraps and is not refused places it. -/
theorem installKey_of_unwraps {h : Cmd} {slot dir pos : Nat} {k : WrappedKey} {p : PlainKey} {d : Dev} (c : CmdInfo)
    (hu : unwraps d h.slice k = some p) (hr : installRefusal d h.slice slot dir pos p = none) :
    installKey c h slot dir pos k d = ok c h (placeKey h.slice slot dir pos p d) := by
  simp [installKey, hu, hr]

/-- A command on a key slot of its own slice reaches the slot. -/
theorem withSlot_of_own {slot : Nat} {h : Cmd} {y : KeySlot} {d : Dev} (body : KeySlot → CmdInfo → Dev → Dev) (c : CmdInfo)
    (hy : tget d.keySlots slot = some y) (ho : y.owner = h.slice) : withSlot slot h body c d = body y c d := by
  simp [withSlot, hy, ho]

/-! ## The commands of the management plane (R7, R433, R467, R469, R478, R480) -/

section
variable {what : String} {device : Bool} {m : MgmtHead} {f : Dev → Nat × Dev} {d : Dev} (hs : inSession d m.session = true)
include hs

/-- In an open session, with nothing against it, such a command answers the status and the state of its own rule. -/
theorem mgmtCommand_of_session (hp : (device && m.slice != 0) = false) (hd : d.dataStopped = false) (hr : m.rsvd = none) :
    mgmtCommand what device m f d = emit (.spdm (m.session.getD 0) what [(f d).1]) (f d).2 := by
  simp [mgmtCommand, hs, hp, hd, hr]

/-- With a reserved field that is not zero it is refused, and the field named. -/
theorem mgmtCommand_of_reserved {o : Nat} (hp : (device && m.slice != 0) = false) (hd : d.dataStopped = false) (hr : m.rsvd = some o) :
    mgmtCommand what device m f d = emit (.spdm (m.session.getD 0) what [csBadParam, o]) d := by
  simp [mgmtCommand, hs, hp, hd, hr]

/-- Where its Key is the device it is not for a slice. -/
theorem mgmtCommand_of_slice (hp : (device && m.slice != 0) = true) :
    mgmtCommand what device m f d = emit (.spdm (m.session.getD 0) what [csNotPermitted]) d := by
  simp [mgmtCommand, hs, hp]

end

/-- KEK_SET of a slice that is there and not being reset gives it the key. -/
theorem kekSet_of_there {slice : Nat} {kek : BitVec 256} {d : Dev} (hs : slice < 512) (hst : (getSlice d slice).st ≠ .free)
    (hg : sliceGoing d slice = false) :
    kekSet slice kek d = (csOk, { d with slices := tset d.slices slice { getSlice d slice with kek := some kek } }) := by
  simp [kekSet, hs, hst, hg, modSlice, setSlice]

/-! ## FW_UPDATE (R451, R480) -/

/-- A bank that passes enters the place of the bank that does not run, and the flash state record names it. -/
theorem fwUpdate_of_passes {off n : Nat} {b : BankImage} {a : Ao} (hn : n ≤ 65536) (ho : off + n ≤ 31 * 2 ^ 20)
    (hb : bankPasses a.minSvn b = true) :
    fwUpdate off n (some b) a = (csOk, { a with banks := a.banks.set (otherBank a) b, pendingBank := some (otherBank a) }) := by
  have hrange : ¬(65536 < n ∨ 31 * 2 ^ 20 < off + n) := by omega
  rw [fwUpdate, if_neg hrange]
  simp only [hb, if_true]

/-- FW_UPDATE writes the flash where the management plane carries it out. -/
theorem fwUpdateState_of_alive {m : MgmtHead} {off n : Nat} {b : Option BankImage} {s : State} (ha : alive s.ao = true) :
    fwUpdateState m off n b s = { s with
      ao := if inSession s.dev m.session && !s.dev.dataStopped && m.rsvd.isNone && m.slice == 0 then (fwUpdate off n b s.ao).2 else s.ao
      dev := mgmtCommand "FW_UPDATE" true m (fun d => ((fwUpdate off n b s.ao).1, d)) s.dev } := by
  simp [fwUpdateState, ha]

/-- One that names a slice, or has a reserved field that is not zero, leaves the flash alone. -/
theorem exec_fwUpdate_of_refused {m : MgmtHead} {off n : Nat} {b : Option BankImage} {s : State} (ha : alive s.ao = true)
    (hr : m.rsvd ≠ none ∨ m.slice ≠ 0) :
    exec (.fwUpdate m off n b) s = after s (mgmtCommand "FW_UPDATE" true m (fun d => ((fwUpdate off n b s.ao).1, d)) s.dev) := by
  have hgo : (inSession s.dev m.session && !s.dev.dataStopped && m.rsvd.isNone && m.slice == 0) = false := by
    rcases hr with hr | hr <;> simp [hr]
  show runAo (fwUpdateState m off n b) s = _
  rw [runAo, fwUpdateState_of_alive ha, hgo]
  rfl

/-! ## SPDM (R452, R453) -/

/-- FINISH of a handshake opens its session. -/
theorem finish_of_handshake {i : Nat} {d : Dev} (hi : i ∈ d.sec.handshakes) :
    finish i d = emit (.spdm i "FINISH_RSP" []) { d with sec := { d.sec with
      handshakes := d.sec.handshakes.filter fun j => j != i, sessions := d.sec.sessions ++ [i] } } := by
  simp [finish, hi]

/-- While debug is locked the measurement blocks end with the debug state 0. -/
theorem measurements_of_locked {i : Nat} {d : Dev} (hm : mgmtUp d = true) (hk : d.sec.attestKey = true) (hu : d.sec.unlocked = false) :
    measurements i d = measureRsp i 0 d := by
  simp [measurements, hm, hk, hu]

/-! ## The raw block service (R448) -/

/-- Up to 256 blocks go through the cipher under the service key that the request names. -/
theorem rawBlocks_of_key {enc : Bool} {n : Nat} {l : List (BitVec 128)} {k : BitVec 256} {d : Dev} (hm : mgmtUp d = true)
    (hk : (d.sec.serviceKeys.find? fun p => p.1 == n) = some (n, k)) (h1 : 1 ≤ l.length) (hmax : l.length ≤ 256) :
    rawBlocks enc n l d = emit (.blocks (l.map fun b => if enc then aesEncrypt k b else aesDecrypt k b)) d := by
  have hlen : ¬(l.length = 0 ∨ 256 < l.length) := by omega
  rw [rawBlocks, hm, hk]
  simp only [Bool.not_true, Bool.false_eq_true, if_false, if_neg hlen]

/-! ## The JTAG port (R529) -/

/-- BYPASS, IDCODE and SAMPLE/PRELOAD act at any time. -/
theorem jtagActs_of_lt {perst unlocked : Bool} {ir : Nat} (h : ir < 3) : jtagActs perst unlocked ir = ir := if_pos h

/-- The boundary tests act while PERST# is low. -/
theorem jtagActs_of_test {perst unlocked : Bool} {ir : Nat} (h : 3 ≤ ir) (h6 : ir < 6) : jtagActs perst unlocked ir = if perst then ir else 0 := by
  rw [jtagActs, if_neg (by omega), if_pos h6]

/-- Debug access is there once it is unlocked. -/
theorem jtagActs_of_debug {perst unlocked : Bool} {ir : Nat} (h : 6 ≤ ir) : jtagActs perst unlocked ir = if unlocked then ir else 0 := by
  rw [jtagActs, if_neg (by omega), if_neg (by omega)]

end Sys2Proof.Machine

open Sys2Proof Sys2Proof.Machine

/-- Settles O47: each clause's conditions are the guards of one rule, past the checks of every command or of the management plane's. -/
theorem securityCommandsComplete : Obligations.SecurityCommandsComplete := by
  unfold Obligations.SecurityCommandsComplete
  refine ⟨fun s h slot dir pos k p ht hslot hdir hpos hm hu hr => ?install, fun s h slot y ht hslot hy ho hn => ?free,
    fun s h slot y ht hslot hy ho => ?query, fun s i slice kek ha hs hd hslice hst hg => ?kek,
    fun s i off n b ha hs hd hn ho hb => ?firmware, fun s i ha hs hd => ?zeroise,
    fun s i o slice off n kek b ha hs hd => ⟨?kekReserved, ?firmwareReserved, ?zeroiseReserved⟩,
    fun s i ha hm => ⟨?version, fun hi => ?finish, fun hk hu => ?measurements⟩,
    fun s i k off n b ha hs hk => ⟨?firmwareSlice, ?zeroiseSlice⟩, fun s i ha hs => ?heartbeat,
    fun s enc n l k ha hm hk h1 hmax => ?blocks, fun s ha hm => ?unlock, fun s ir => ?jtag, fun _ => rfl⟩
  case install =>
    obtain ⟨ha, hc⟩ := ht
    show runRetire (keyInstallEffect h slot dir pos k) s = _
    rw [runRetire_of_alive ha, keyInstallEffect, command_of_good _ hc (by simp [firstBad_eq_none_iff, hslot, hdir, hpos]), hm,
      if_neg Bool.false_ne_true, installKey_of_unwraps _ hu hr]
  case free =>
    show runLevels (keyFreeEffect h slot) s = _
    rw [keyFreeEffect, runLevels_command_of_takes _ ht (by simp [firstBad_eq_none_iff, hslot]), withSlot_of_own _ _ hy ho, keyFreeBody, hn,
      if_neg Bool.false_ne_true]
  case query =>
    show run (keyQueryEffect h slot) s = _
    rw [keyQueryEffect, run_command_of_takes _ ht (by simp [firstBad_eq_none_iff, hslot]), withSlot_of_own _ _ hy ho]
  case kek =>
    show run (mgmtCommand "KEK_SET" false _ (kekSet slice kek)) s = _
    rw [run_of_alive ha, mgmtCommand_of_session hs rfl hd rfl, kekSet_of_there hslice hst hg]
    rfl
  case firmware =>
    show runAo (fwUpdateState _ off n (some b)) s = _
    rw [runAo, fwUpdateState_of_alive ha, fwUpdate_of_passes hn ho hb, mgmtCommand_of_session hs rfl hd rfl, hs, hd]
    rfl
  case zeroise =>
    show runLevels (mgmtCommand "SEC_ZEROISE" true _ secZeroise) s = _
    rw [runLevels_of_alive ha, mgmtCommand_of_session hs rfl hd rfl]
    rfl
  case kekReserved =>
    show run (mgmtCommand "KEK_SET" false _ (kekSet slice kek)) s = _
    rw [run_of_alive ha, mgmtCommand_of_reserved hs rfl hd rfl]
    rfl
  case firmwareReserved =>
    rw [exec_fwUpdate_of_refused ha (.inl (by simp)), mgmtCommand_of_reserved hs rfl hd rfl]
    rfl
  case zeroiseReserved =>
    show runLevels (mgmtCommand "SEC_ZEROISE" true _ secZeroise) s = _
    rw [runLevels_of_alive ha, mgmtCommand_of_reserved hs rfl hd rfl]
    rfl
  case version =>
    show run (spdmRequest 0x84 i) s = _
    rw [run_of_alive ha, spdmRequest, hm]
    rfl
  case finish =>
    show run (spdmRequest 0xE5 i) s = _
    rw [run_of_alive ha, spdmRequest, hm, if_neg (by decide), finish_of_handshake hi]
    rfl
  case measurements =>
    show run (measurements i) s = _
    rw [run_of_alive ha, measurements_of_locked hm hk hu]
    rfl
  case firmwareSlice =>
    have hslice : k ≠ 0 := by omega
    rw [exec_fwUpdate_of_refused ha (.inr hslice), mgmtCommand_of_slice hs (by simp [hslice])]
    rfl
  case zeroiseSlice =>
    have hslice : k ≠ 0 := by omega
    show runLevels (mgmtCommand "SEC_ZEROISE" true _ secZeroise) s = _
    rw [runLevels_of_alive ha, mgmtCommand_of_slice hs (by simp [hslice])]
    rfl
  case heartbeat =>
    show runLevels (heartbeatLost i) s = _
    rw [runLevels_of_alive ha, heartbeatLost, if_pos hs, endSession]
  case blocks =>
    show run (rawBlocks enc n l) s = _
    rw [run_of_alive ha, rawBlocks_of_key hm hk h1 hmax]
    rfl
  case unlock =>
    show runLevels (debugUnlock true) s = _
    rw [runLevels_of_alive ha, debugUnlock, hm]
    rfl
  case jtag =>
    refine ⟨jtagActs s.ao.perst s.dev.sec.unlocked ir, _, rfl, jtagActs_of_lt, jtagActs_of_test, jtagActs_of_debug, fun h1 => ?_⟩
    rw [h1]
    rfl

end
